-- ==== Sys2Proof/Word.lean ====
section
/-! DEFINITION. The word types of the KP880 and their plainest arithmetic. -/

namespace Sys2Proof

/-- A byte of memory. -/
abbrev Byte := BitVec 8

/-- A scalar register, an address while it is computed, a doubleword (06 R93). -/
abbrev Word := BitVec 64

end Sys2Proof
end

