-- ==== Sys2Proof/Config.lean ====
section
/-! DEFINITION. What the manual leaves open: free values, and the constants an implementation fixes.

An `opaque` constant has no body here, so no proof can use a value of it: a claim holds for every value. Each is
named in a log entry of notes/assumptions. -/

namespace Sys2Proof

/-- Whether an acquiring boundary takes a store that has reached its home and that 17 R290 does not require of it: the
first argument numbers the acquire, the second is the store's home time. Log entry 9. -/
opaque Config.acquireTakes : (acquire store : Nat) → Bool

/-- The nanoseconds a step takes when the outside has not said so; the argument numbers the steps. Log entry 5. -/
opaque Config.stepNs : Nat → Nat

/-- Which of the cached composed translations of older map entries an access of an address uses (10 R215); none of them
where there is no such one. The first argument numbers the instructions. Log entry 16. -/
opaque Config.cachedPick : (n va : Nat) → Nat

/-- Whether a read under the strengthening mode is served from the core's L1 (17 R303). Log entry 11. -/
opaque Config.servedByL1 : Nat → Bool

/-- Whether a host AtomicOp that completes with an error performed at the host (06 R113). Log entry 17. -/
opaque Config.failedAtomicPerforms : Nat → Bool

/-- Up to which point of the home order the first plain load after the thread's own atomic takes later values of the bytes
(06 R112). Log entry 78. -/
opaque Config.rereads : Nat → Nat

/-- The stall cycles of a thread counter at a read (23 R351). Log entry 18. -/
opaque Config.stallCycles : Nat → Nat

/-- Whether an 8-byte word of an iterator image holds its new value after a write that faulted at a pre-emption (15
R273). Log entry 19. -/
opaque Config.imageWordWritten : Nat → Bool

/-- A correctly rounded special function whose value the enclosures of the model do not separate from a rounding
boundary: `f` numbers the function, `x` is the operand's pattern, and the choice is between the two neighbours.
Log entry 12. -/
opaque Config.roundUp : (f x : Nat) → Bool

/-- The initial value of a flit's CRC-64 (23 R344). Log entry 64. -/
opaque Config.crcInit : BitVec 64

/-- Whether a flit's CRC-64 takes the low bit of a byte first (23 R344). Log entry 64. -/
opaque Config.crcLsbFirst : Bool

/-- The flits of a port that a turn sends besides the one of its own stores, and the bytes of a flit up to its CRC
(23 R344); the first argument numbers the turns. Log entry 64. -/
opaque Config.flitsSent : (turn port : Nat) → Nat
opaque Config.flitByte : (turn port flit i : Nat) → Byte

/-- The flits of a port that its peer has not acknowledged by the end of a turn, of those sent (19 R328, 23 R344). Log entry
64. -/
opaque Config.flitsUnacked : (turn port : Nat) → Nat

/-- How often, in a turn, the device reads the STATE of a prerequisite whose read meets poison of host data (10 R219, 02
R22). Log entry 74. -/
opaque Config.prereqReads : Nat → Nat

/-- Where one step chooses between two outcomes that the manual both allows, this free bit decides. Log entry 20. -/
opaque Config.freeBit : Nat → Bool

/-- Which refusal is reported when a context instruction meets several (04 R53, R61). Log entry 31. -/
opaque Config.refusalPick : Nat → Nat

/-- A field of a fault record for which the manual states no value (19 R310). Log entry 32. -/
opaque Config.openWord : Nat → Word

/-- The core and the thread that a notice of the device itself names (02 R21, 22 R339). Log entry 35. -/
opaque Config.noticeFrom : Nat → Nat × Nat

/-- How many granules the instruction under way at a forced pre-emption has completed (07 R131). Log entry 40. -/
opaque Config.trimPick : Nat → Nat

/-- The element width with which a strip opens before any `setvl` has set a format (07 R135). Log entry 23. -/
opaque Config.unsetWidth : Nat

/-- Whether the package stands on a KM880 module (23 R346); log entry 72. -/
opaque Config.module : Bool

/-- The power limit in W shown in IDENT: the module's, or the package's design power (23 R346, R352; log entry 72). -/
def Config.powerLimit : Nat := if Config.module then 2200 else 2400

end Sys2Proof
end

