-- ==== Sys2Proof/Machine/Sparse.lean ====
section
/-! DEFINITION. Sparse maps as sorted lists of key and value pairs: the one shape in which the model holds registers,
memory and every other collection named by numbers. -/

namespace Sys2Proof.Machine

/-- A map from numbers, as pairs in rising order of their keys. -/
abbrev Map (α : Type) := List (Nat × α)

variable {α : Type}

/-- The value at a key. -/
def Map.find (k : Nat) : Map α → Option α
  | [] => none
  | (j, v) :: r => if j = k then some v else Map.find k r

/-- The map with a value put at a key, in its place. -/
def Map.put (k : Nat) (v : α) : Map α → Map α
  | [] => [(k, v)]
  | (j, u) :: r =>
    if k < j then (k, v) :: (j, u) :: r
    else if k = j then (k, v) :: r
    else (j, u) :: Map.put k v r

/-- The map with nothing at a key. -/
def Map.del (k : Nat) (m : Map α) : Map α := m.filter (fun p => p.1 != k)

/-- The value at a key, or a default. -/
def Map.getD (k : Nat) (d : α) (m : Map α) : α := (m.find k).getD d

/-- A byte of a byte store whose unlisted bytes read as `d` says. -/
def cellGet (d : Nat → Byte) (m : List Host.Cell) (k : Nat) : Byte := Map.getD k (d k) m

/-- A byte store with one byte written; a byte equal to what an unlisted one reads as is not listed. -/
def cellSet (d : Nat → Byte) (m : List Host.Cell) (k : Nat) (b : Byte) : List Host.Cell :=
  if b = d k then Map.del k m else Map.put k b m

/-- The canonical form of a byte store: keys strictly rising, no entry equal to its default. -/
def cellsWf (d : Nat → Byte) : List Host.Cell → Bool
  | [] => true
  | (k, b) :: r => b != d k && r.all (fun p => k < p.1) && cellsWf d r

/-- The little-endian number of a list of bytes. -/
def leNat : List Byte → Nat
  | [] => 0
  | b :: r => b.toNat + 256 * leNat r

/-- `n` bytes of a number, little-endian. -/
def leBytes : Nat → Nat → List Byte
  | 0, _ => []
  | n + 1, x => BitVec.ofNat 8 x :: leBytes n (x / 256)

/-- A number of `n` bytes at an offset of a list of bytes. -/
def bytesField (l : List Byte) (off n : Nat) : Nat := leNat ((l.drop off).take n)

end Sys2Proof.Machine
end

