-- ==== Sys2Proof/Syntax.lean ====
section
/-! DEFINITION. The syntax: one constructor per row of the operation table, 373 instruction words and 51 events.

Register fields keep the width of their class (03 R27): 7 bits for g and v, 3 for t and i, 4 for q.
Rows without a word (95_what_each_step_holds.md) are steps of the other agents; their operands say which
core, thread, launch or item the step acts on. -/

namespace Sys2Proof

/-- Where an uncorrectable SRAM error strikes (10 R219). -/
inductive SramPlace where
  /-- A line of register `v` of a thread; `same` says that the context image holds the same contents. -/
  | vreg (core slot v : Nat) (same : Bool)
  /-- An L1 instruction line. -/
  | icode (core : Nat)
  /-- An L1 data line at a physical address, which the thread of a slot reached at a virtual address. -/
  | l1 (core slot pa : Nat) (va : Word)
  /-- An L2 line; `same` says that it matches memory. -/
  | l2 (pa : Nat) (same : Bool)
  /-- A scratchpad word of a core. -/
  | spad (core off : Nat)
  /-- The accumulator store: a tile of a thread. -/
  | tile (core slot t : Nat)
  /-- HBM or LPDDR6 data. -/
  | mem (pa : Nat)
  deriving DecidableEq, Repr

/-- A word of a lane's slice of the vector register cache or of its lane buffers (10 R221); a core has 256 lanes. -/
structure LaneWord where
  core : Nat
  lane : Nat
  word : Nat
  deriving DecidableEq, Repr

/-- A corrected error: in which word of a lane, if in one, and whether that word has been rewritten since its last
correction (10 R221). -/
structure Corrected where
  word : Option LaneWord
  rewritten : Bool
  deriving DecidableEq, Repr

/-- What the management controller does above the power limit (23 R352). -/
inductive PowerAct where
  | freq (island mhz : Nat)
  | gate (core group : Nat)
  | ungate (core group : Nat)
  deriving DecidableEq, Repr

/-- A power action, and the package's power in W when it is taken. -/
structure PowerEvent where
  act : PowerAct
  power : Nat
  deriving DecidableEq, Repr

/-- What a host write carries: its bytes, and whether they come with poison. -/
structure HostData where
  bytes : List Byte
  poison : Bool
  deriving DecidableEq, Repr

/-- Where a host read begins: in the configuration window, or else in the HDM range. -/
structure HostPlace where
  window : Bool
  off : Nat
  deriving DecidableEq, Repr

/-- What a peer's atomic computes at a home of this device: the variants of 06 R112, all of which the peer tier performs
(06 R113). -/
inductive AtomicOp where
  | add | swap | cas | and | or | xor | min | max | minUnsigned | maxUnsigned
  deriving DecidableEq, Repr

/-- A peer's request (23 R345). An atomic is of 4 bytes when `half` is set, else of 8; `x` is the value that `cas`
compares with. -/
inductive PeerReq where
  | read (n : Nat)
  | write (data : List Byte)
  | atomic (op : AtomicOp) (half : Bool) (x y : Word)
  /-- `n` arrivals at a barrier (17 R298, R299). -/
  | arrive (n : Nat)
  deriving DecidableEq, Repr

/-- The instructions and events of the KP880. -/
inductive Instr where
  | add (d : BitVec 7) (a : BitVec 7) (b : BitVec 7)
  | sub (d : BitVec 7) (a : BitVec 7) (b : BitVec 7)
  | and (d : BitVec 7) (a : BitVec 7) (b : BitVec 7)
  | or (d : BitVec 7) (a : BitVec 7) (b : BitVec 7)
  | xor (d : BitVec 7) (a : BitVec 7) (b : BitVec 7)
  | andn (d : BitVec 7) (a : BitVec 7) (b : BitVec 7)
  | orn (d : BitVec 7) (a : BitVec 7) (b : BitVec 7)
  | xnor (d : BitVec 7) (a : BitVec 7) (b : BitVec 7)
  | sll (d : BitVec 7) (a : BitVec 7) (b : BitVec 7)
  | srl (d : BitVec 7) (a : BitVec 7) (b : BitVec 7)
  | sra (d : BitVec 7) (a : BitVec 7) (b : BitVec 7)
  | ror (d : BitVec 7) (a : BitVec 7) (b : BitVec 7)
  | min (d : BitVec 7) (a : BitVec 7) (b : BitVec 7)
  | max (d : BitVec 7) (a : BitVec 7) (b : BitVec 7)
  | minn (d : BitVec 7) (a : BitVec 7) (b : BitVec 7)
  | maxn (d : BitVec 7) (a : BitVec 7) (b : BitVec 7)
  | addi (d : BitVec 7) (a : BitVec 7) (i : BitVec 11)
  | andi (d : BitVec 7) (a : BitVec 7) (i : BitVec 11)
  | ori (d : BitVec 7) (a : BitVec 7) (i : BitVec 11)
  | xori (d : BitVec 7) (a : BitVec 7) (i : BitVec 11)
  | slli (d : BitVec 7) (a : BitVec 7) (k : BitVec 6)
  | srli (d : BitVec 7) (a : BitVec 7) (k : BitVec 6)
  | srai (d : BitVec 7) (a : BitVec 7) (k : BitVec 6)
  | rori (d : BitVec 7) (a : BitVec 7) (k : BitVec 6)
  | seq (d : BitVec 7) (a : BitVec 7) (b : BitVec 7)
  | sne (d : BitVec 7) (a : BitVec 7) (b : BitVec 7)
  | slt (d : BitVec 7) (a : BitVec 7) (b : BitVec 7)
  | sge (d : BitVec 7) (a : BitVec 7) (b : BitVec 7)
  | sltn (d : BitVec 7) (a : BitVec 7) (b : BitVec 7)
  | sgen (d : BitVec 7) (a : BitVec 7) (b : BitVec 7)
  | seqi (d : BitVec 7) (a : BitVec 7) (i : BitVec 8)
  | snei (d : BitVec 7) (a : BitVec 7) (i : BitVec 8)
  | slti (d : BitVec 7) (a : BitVec 7) (i : BitVec 8)
  | sgei (d : BitVec 7) (a : BitVec 7) (i : BitVec 8)
  | sltni (d : BitVec 7) (a : BitVec 7) (i : BitVec 8)
  | sgeni (d : BitVec 7) (a : BitVec 7) (i : BitVec 8)
  | mul (d : BitVec 7) (a : BitVec 7) (b : BitVec 7)
  | mulh (d : BitVec 7) (a : BitVec 7) (b : BitVec 7)
  | mulhn (d : BitVec 7) (a : BitVec 7) (b : BitVec 7)
  | div (d : BitVec 7) (a : BitVec 7) (b : BitVec 7)
  | divn (d : BitVec 7) (a : BitVec 7) (b : BitVec 7)
  | rem (d : BitVec 7) (a : BitVec 7) (b : BitVec 7)
  | remn (d : BitVec 7) (a : BitVec 7) (b : BitVec 7)
  | clz (d : BitVec 7) (a : BitVec 7)
  | ctz (d : BitVec 7) (a : BitVec 7)
  | popc (d : BitVec 7) (a : BitVec 7)
  | brev (d : BitVec 7) (a : BitVec 7)
  | bswap (d : BitVec 7) (a : BitVec 7)
  | sxb (d : BitVec 7) (a : BitVec 7)
  | sxh (d : BitVec 7) (a : BitVec 7)
  | sxw (d : BitVec 7) (a : BitVec 7)
  | lhi (d : BitVec 7) (i : BitVec 18)
  | lpc (d : BitVec 7) (i : BitVec 18)
  | lix (d : BitVec 7) (i : BitVec 18)
  | seln (d : BitVec 7) (a : BitVec 7) (b : BitVec 7)
  | selz (d : BitVec 7) (a : BitVec 7) (b : BitVec 7)
  | adds (d : BitVec 7) (a : BitVec 7) (b : BitVec 7) (s : BitVec 4)
  | madd (d : BitVec 7) (a : BitVec 7) (b : BitVec 7)
  | msub (d : BitVec 7) (a : BitVec 7) (b : BitVec 7)
  | j (s : BitVec 25)
  | jal (s : BitVec 25)
  | jr (a : BitVec 7)
  | jalr (d : BitVec 7) (a : BitVec 7)
  | beqz (a : BitVec 7) (s : BitVec 15)
  | bnez (a : BitVec 7) (s : BitVec 15)
  | bltz (a : BitVec 7) (s : BitVec 15)
  | bgez (a : BitVec 7) (s : BitVec 15)
  | bgtz (a : BitVec 7) (s : BitVec 15)
  | blez (a : BitVec 7) (s : BitVec 15)
  | btrim (s : BitVec 15)
  | bdone (s : BitVec 15)
  | winb (n : BitVec 10)
  | winba (n : BitVec 10)
  | hintYield
  | hintPause (n : BitVec 16)
  | hintPrefi (s : BitVec 16)
  | svc (n : BitVec 18)
  | upcall (n : BitVec 18)
  | eret
  | exit (a : BitVec 7)
  | abort (a : BitVec 7)
  | crd (d : BitVec 7) (c : BitVec 11)
  | cwr (a : BitVec 7) (c : BitVec 11)
  | cxchg (d : BitVec 7) (a : BitVec 7) (c : BitVec 11)
  | ebreak (n : BitVec 18)
  | coord (d : BitVec 7) (w : BitVec 3)
  | probe (d : BitVec 7) (a : BitVec 7)
  | probec (d : BitVec 7) (a : BitVec 7) (b : BitVec 7)
  | ld (d : BitVec 7) (a : BitVec 7) (w : BitVec 3) (k : BitVec 8)
  | st (d : BitVec 7) (a : BitVec 7) (w : BitVec 2) (k : BitVec 8)
  | ldx (d : BitVec 7) (a : BitVec 7) (b : BitVec 7) (w : BitVec 3)
  | stx (d : BitVec 7) (a : BitVec 7) (b : BitVec 7) (w : BitVec 2)
  | amoadd (d : BitVec 7) (a : BitVec 7) (b : BitVec 7)
  | amoswap (d : BitVec 7) (a : BitVec 7) (b : BitVec 7)
  | amocas (d : BitVec 7) (a : BitVec 7) (b : BitVec 7)
  | amoand (d : BitVec 7) (a : BitVec 7) (b : BitVec 7)
  | amoor (d : BitVec 7) (a : BitVec 7) (b : BitVec 7)
  | amoxor (d : BitVec 7) (a : BitVec 7) (b : BitVec 7)
  | amomin (d : BitVec 7) (a : BitVec 7) (b : BitVec 7)
  | amomax (d : BitVec 7) (a : BitVec 7) (b : BitVec 7)
  | amominn (d : BitVec 7) (a : BitVec 7) (b : BitVec 7)
  | amomaxn (d : BitVec 7) (a : BitVec 7) (b : BitVec 7)
  | amoaddW (d : BitVec 7) (a : BitVec 7) (b : BitVec 7)
  | amoswapW (d : BitVec 7) (a : BitVec 7) (b : BitVec 7)
  | amocasW (d : BitVec 7) (a : BitVec 7) (b : BitVec 7)
  | amoandW (d : BitVec 7) (a : BitVec 7) (b : BitVec 7)
  | amoorW (d : BitVec 7) (a : BitVec 7) (b : BitVec 7)
  | amoxorW (d : BitVec 7) (a : BitVec 7) (b : BitVec 7)
  | cacheFlush (a : BitVec 7)
  | cacheInval (a : BitVec 7)
  | cacheZero (a : BitVec 7)
  | cachePref (a : BitVec 7)
  | fadd (d : BitVec 7) (a : BitVec 7) (b : BitVec 7)
  | fsub (d : BitVec 7) (a : BitVec 7) (b : BitVec 7)
  | fmul (d : BitVec 7) (a : BitVec 7) (b : BitVec 7)
  | fdiv (d : BitVec 7) (a : BitVec 7) (b : BitVec 7)
  | fsqrt (d : BitVec 7) (a : BitVec 7)
  | fmin (d : BitVec 7) (a : BitVec 7) (b : BitVec 7)
  | fmax (d : BitVec 7) (a : BitVec 7) (b : BitVec 7)
  | fcvtif (d : BitVec 7) (a : BitVec 7)
  | fcvtfi (d : BitVec 7) (a : BitVec 7)
  | flt (d : BitVec 7) (a : BitVec 7) (b : BitVec 7)
  | feq (d : BitVec 7) (a : BitVec 7) (b : BitVec 7)
  | fle (d : BitVec 7) (a : BitVec 7) (b : BitVec 7)
  | fmac (d : BitVec 7) (a : BitVec 7) (b : BitVec 7)
  | phase (s : BitVec 2)
  | arrive (a : BitVec 7) (b : BitVec 7) (s : BitVec 2)
  | waitb (a : BitVec 7) (b : BitVec 7) (s : BitVec 2)
  | waitv (a : BitVec 7) (b : BitVec 7) (s : BitVec 2)
  | waitc (a : BitVec 7) (b : BitVec 7) (s : BitVec 2)
  | vacq (a : BitVec 7)
  | racqr (d : BitVec 7) (a : BitVec 7) (b : BitVec 7)
  | rrelr (a : BitVec 7) (b : BitVec 7)
  | racqw (d : BitVec 7) (a : BitVec 7) (b : BitVec 7)
  | rrelw (a : BitVec 7) (b : BitVec 7)
  | xcopy (d : BitVec 7) (a : BitVec 7) (b : BitVec 7)
  | xquery (d : BitVec 7) (a : BitVec 7)
  | xcancel (d : BitVec 7) (a : BitVec 7)
  | tlbinv (d : BitVec 7) (a : BitVec 7) (b : BitVec 7)
  | tlbinvc (d : BitVec 7) (a : BitVec 7)
  | pgmig (d : BitVec 7) (a : BitVec 7) (b : BitVec 7)
  | setvl (d : BitVec 7) (a : BitVec 7) (g : BitVec 4) (f : BitVec 2) (t : BitVec 5)
  | vdecl (c : BitVec 3)
  | loop (a : BitVec 7) (n : BitVec 6)
  | loopP (a : BitVec 7) (n : BitVec 6)
  | bump (d : BitVec 7) (a : BitVec 7) (s : BitVec 4)
  | vmv (d : BitVec 7) (a : BitVec 7) (m : Bool) (z : Bool)
  | vsplat (d : BitVec 7) (a : BitVec 7) (m : Bool) (z : Bool)
  | vext (d : BitVec 7) (a : BitVec 7) (b : BitVec 7)
  | vins (d : BitVec 7) (a : BitVec 7) (b : BitVec 7)
  | vperm (d : BitVec 7) (a : BitVec 7) (b : BitVec 7) (m : Bool) (z : Bool)
  | vslup (d : BitVec 7) (a : BitVec 7) (b : BitVec 7) (m : Bool) (z : Bool)
  | vsldn (d : BitVec 7) (a : BitVec 7) (b : BitVec 7) (m : Bool) (z : Bool)
  | vrev (d : BitVec 7) (a : BitVec 7) (m : Bool) (z : Bool)
  | vcompress (d : BitVec 7) (a : BitVec 7) (b : BitVec 7) (z : Bool)
  | vexpand (d : BitVec 7) (a : BitVec 7) (b : BitVec 7) (z : Bool)
  | viota (d : BitVec 7) (a : BitVec 7) (m : Bool) (z : Bool)
  | vid (d : BitVec 7) (m : Bool) (z : Bool)
  | vredadd (d : BitVec 7) (a : BitVec 7) (m : Bool)
  | vredmin (d : BitVec 7) (a : BitVec 7) (m : Bool)
  | vredmax (d : BitVec 7) (a : BitVec 7) (m : Bool)
  | vredminn (d : BitVec 7) (a : BitVec 7) (m : Bool)
  | vredand (d : BitVec 7) (a : BitVec 7) (m : Bool)
  | vredor (d : BitVec 7) (a : BitVec 7) (m : Bool)
  | vredxor (d : BitVec 7) (a : BitVec 7) (m : Bool)
  | vredmaxn (d : BitVec 7) (a : BitVec 7) (m : Bool)
  | vfredsum (d : BitVec 7) (a : BitVec 7) (m : Bool)
  | vfredseq (d : BitVec 7) (a : BitVec 7) (m : Bool)
  | vfredmin (d : BitVec 7) (a : BitVec 7) (m : Bool)
  | vfredmax (d : BitVec 7) (a : BitVec 7) (m : Bool)
  | mand (d : BitVec 7) (a : BitVec 7) (b : BitVec 7)
  | mor (d : BitVec 7) (a : BitVec 7) (b : BitVec 7)
  | mxor (d : BitVec 7) (a : BitVec 7) (b : BitVec 7)
  | mnot (d : BitVec 7) (a : BitVec 7)
  | mpopc (d : BitVec 7) (a : BitVec 7) (m : Bool)
  | mfirst (d : BitVec 7) (a : BitVec 7) (m : Bool)
  | mlast (d : BitVec 7) (a : BitVec 7) (m : Bool)
  | vretag (d : BitVec 7) (a : BitVec 7) (t : BitVec 5)
  | vtagq (d : BitVec 7) (a : BitVec 7)
  | vshape (d : BitVec 7) (a : BitVec 7)
  | vsegsum (d : BitVec 7) (a : BitVec 7) (m : Bool) (z : Bool)
  | vsegmin (d : BitVec 7) (a : BitVec 7) (m : Bool) (z : Bool)
  | vsegmax (d : BitVec 7) (a : BitVec 7) (m : Bool) (z : Bool)
  | vsegfsum (d : BitVec 7) (a : BitVec 7) (m : Bool) (z : Bool)
  | vmaxvl (d : BitVec 7)
  | vlanes (d : BitVec 7)
  | vaddr (d : BitVec 7) (a : BitVec 7) (b : BitVec 7) (m : Bool) (z : Bool)
  | vadd (d : BitVec 7) (a : BitVec 7) (b : BitVec 7) (m : Bool) (z : Bool)
  | vaddX (d : BitVec 7) (a : BitVec 7) (b : BitVec 7) (m : Bool) (z : Bool)
  | vsub (d : BitVec 7) (a : BitVec 7) (b : BitVec 7) (m : Bool) (z : Bool)
  | vsubX (d : BitVec 7) (a : BitVec 7) (b : BitVec 7) (m : Bool) (z : Bool)
  | vand (d : BitVec 7) (a : BitVec 7) (b : BitVec 7) (m : Bool) (z : Bool)
  | vor (d : BitVec 7) (a : BitVec 7) (b : BitVec 7) (m : Bool) (z : Bool)
  | vxor (d : BitVec 7) (a : BitVec 7) (b : BitVec 7) (m : Bool) (z : Bool)
  | vandn (d : BitVec 7) (a : BitVec 7) (b : BitVec 7) (m : Bool) (z : Bool)
  | vsll (d : BitVec 7) (a : BitVec 7) (b : BitVec 7) (m : Bool) (z : Bool)
  | vsrl (d : BitVec 7) (a : BitVec 7) (b : BitVec 7) (m : Bool) (z : Bool)
  | vsra (d : BitVec 7) (a : BitVec 7) (b : BitVec 7) (m : Bool) (z : Bool)
  | vror (d : BitVec 7) (a : BitVec 7) (b : BitVec 7) (m : Bool) (z : Bool)
  | vsllX (d : BitVec 7) (a : BitVec 7) (b : BitVec 7) (m : Bool) (z : Bool)
  | vsrlX (d : BitVec 7) (a : BitVec 7) (b : BitVec 7) (m : Bool) (z : Bool)
  | vsraX (d : BitVec 7) (a : BitVec 7) (b : BitVec 7) (m : Bool) (z : Bool)
  | vrorX (d : BitVec 7) (a : BitVec 7) (b : BitVec 7) (m : Bool) (z : Bool)
  | vmul (d : BitVec 7) (a : BitVec 7) (b : BitVec 7) (m : Bool) (z : Bool)
  | vmulh (d : BitVec 7) (a : BitVec 7) (b : BitVec 7) (m : Bool) (z : Bool)
  | vmulhn (d : BitVec 7) (a : BitVec 7) (b : BitVec 7) (m : Bool) (z : Bool)
  | vmacc (d : BitVec 7) (a : BitVec 7) (b : BitVec 7) (m : Bool) (z : Bool)
  | vmin (d : BitVec 7) (a : BitVec 7) (b : BitVec 7) (m : Bool) (z : Bool)
  | vmax (d : BitVec 7) (a : BitVec 7) (b : BitVec 7) (m : Bool) (z : Bool)
  | vminn (d : BitVec 7) (a : BitVec 7) (b : BitVec 7) (m : Bool) (z : Bool)
  | vmaxn (d : BitVec 7) (a : BitVec 7) (b : BitVec 7) (m : Bool) (z : Bool)
  | vaddsat (d : BitVec 7) (a : BitVec 7) (b : BitVec 7) (m : Bool) (z : Bool)
  | vsubsat (d : BitVec 7) (a : BitVec 7) (b : BitVec 7) (m : Bool) (z : Bool)
  | vaddsatn (d : BitVec 7) (a : BitVec 7) (b : BitVec 7) (m : Bool) (z : Bool)
  | vsubsatn (d : BitVec 7) (a : BitVec 7) (b : BitVec 7) (m : Bool) (z : Bool)
  | vseq (d : BitVec 7) (a : BitVec 7) (b : BitVec 7) (m : Bool) (z : Bool)
  | vsne (d : BitVec 7) (a : BitVec 7) (b : BitVec 7) (m : Bool) (z : Bool)
  | vslt (d : BitVec 7) (a : BitVec 7) (b : BitVec 7) (m : Bool) (z : Bool)
  | vsltn (d : BitVec 7) (a : BitVec 7) (b : BitVec 7) (m : Bool) (z : Bool)
  | vseqX (d : BitVec 7) (a : BitVec 7) (b : BitVec 7) (m : Bool) (z : Bool)
  | vsneX (d : BitVec 7) (a : BitVec 7) (b : BitVec 7) (m : Bool) (z : Bool)
  | vsltX (d : BitVec 7) (a : BitVec 7) (b : BitVec 7) (m : Bool) (z : Bool)
  | vsltnX (d : BitVec 7) (a : BitVec 7) (b : BitVec 7) (m : Bool) (z : Bool)
  | vdiv (d : BitVec 7) (a : BitVec 7) (b : BitVec 7) (m : Bool) (z : Bool)
  | vdivn (d : BitVec 7) (a : BitVec 7) (b : BitVec 7) (m : Bool) (z : Bool)
  | vrem (d : BitVec 7) (a : BitVec 7) (b : BitVec 7) (m : Bool) (z : Bool)
  | vremn (d : BitVec 7) (a : BitVec 7) (b : BitVec 7) (m : Bool) (z : Bool)
  | vabs (d : BitVec 7) (a : BitVec 7) (m : Bool) (z : Bool)
  | vneg (d : BitVec 7) (a : BitVec 7) (m : Bool) (z : Bool)
  | vclz (d : BitVec 7) (a : BitVec 7) (m : Bool) (z : Bool)
  | vpopc (d : BitVec 7) (a : BitVec 7) (m : Bool) (z : Bool)
  | vwiden (d : BitVec 7) (a : BitVec 7) (m : Bool) (z : Bool)
  | vwidenn (d : BitVec 7) (a : BitVec 7) (m : Bool) (z : Bool)
  | vnarrow (d : BitVec 7) (a : BitVec 7) (m : Bool) (z : Bool)
  | vnarrowsat (d : BitVec 7) (a : BitVec 7) (m : Bool) (z : Bool)
  | vmerge (d : BitVec 7) (a : BitVec 7) (b : BitVec 7) (z : Bool)
  | vmergeX (d : BitVec 7) (a : BitVec 7) (b : BitVec 7) (z : Bool)
  | vdot4 (d : BitVec 7) (a : BitVec 7) (b : BitVec 7) (m : Bool) (z : Bool)
  | vdot4n (d : BitVec 7) (a : BitVec 7) (b : BitVec 7) (m : Bool) (z : Bool)
  | vdot2 (d : BitVec 7) (a : BitVec 7) (b : BitVec 7) (m : Bool) (z : Bool)
  | vmaccX (d : BitVec 7) (a : BitVec 7) (b : BitVec 7) (m : Bool) (z : Bool)
  | vclamp (d : BitVec 7) (a : BitVec 7) (b : BitVec 7) (m : Bool) (z : Bool)
  | vfadd (d : BitVec 7) (a : BitVec 7) (b : BitVec 7) (m : Bool) (z : Bool)
  | vfaddX (d : BitVec 7) (a : BitVec 7) (b : BitVec 7) (m : Bool) (z : Bool)
  | vfsub (d : BitVec 7) (a : BitVec 7) (b : BitVec 7) (m : Bool) (z : Bool)
  | vfsubX (d : BitVec 7) (a : BitVec 7) (b : BitVec 7) (m : Bool) (z : Bool)
  | vfmul (d : BitVec 7) (a : BitVec 7) (b : BitVec 7) (m : Bool) (z : Bool)
  | vfmulX (d : BitVec 7) (a : BitVec 7) (b : BitVec 7) (m : Bool) (z : Bool)
  | vfdiv (d : BitVec 7) (a : BitVec 7) (b : BitVec 7) (m : Bool) (z : Bool)
  | vfdivX (d : BitVec 7) (a : BitVec 7) (b : BitVec 7) (m : Bool) (z : Bool)
  | vfma (d : BitVec 7) (a : BitVec 7) (b : BitVec 7) (m : Bool) (z : Bool)
  | vfms (d : BitVec 7) (a : BitVec 7) (b : BitVec 7) (m : Bool) (z : Bool)
  | vfnma (d : BitVec 7) (a : BitVec 7) (b : BitVec 7) (m : Bool) (z : Bool)
  | vfnms (d : BitVec 7) (a : BitVec 7) (b : BitVec 7) (m : Bool) (z : Bool)
  | vfmaX (d : BitVec 7) (a : BitVec 7) (b : BitVec 7) (m : Bool) (z : Bool)
  | vfmsX (d : BitVec 7) (a : BitVec 7) (b : BitVec 7) (m : Bool) (z : Bool)
  | vfnmaX (d : BitVec 7) (a : BitVec 7) (b : BitVec 7) (m : Bool) (z : Bool)
  | vfnmsX (d : BitVec 7) (a : BitVec 7) (b : BitVec 7) (m : Bool) (z : Bool)
  | vfmin (d : BitVec 7) (a : BitVec 7) (b : BitVec 7) (m : Bool) (z : Bool)
  | vfmax (d : BitVec 7) (a : BitVec 7) (b : BitVec 7) (m : Bool) (z : Bool)
  | vfabs (d : BitVec 7) (a : BitVec 7) (m : Bool) (z : Bool)
  | vfneg (d : BitVec 7) (a : BitVec 7) (m : Bool) (z : Bool)
  | vfeq (d : BitVec 7) (a : BitVec 7) (b : BitVec 7) (m : Bool) (z : Bool)
  | vflt (d : BitVec 7) (a : BitVec 7) (b : BitVec 7) (m : Bool) (z : Bool)
  | vfle (d : BitVec 7) (a : BitVec 7) (b : BitVec 7) (m : Bool) (z : Bool)
  | vfun (d : BitVec 7) (a : BitVec 7) (b : BitVec 7) (m : Bool) (z : Bool)
  | vfeqX (d : BitVec 7) (a : BitVec 7) (b : BitVec 7) (m : Bool) (z : Bool)
  | vfltX (d : BitVec 7) (a : BitVec 7) (b : BitVec 7) (m : Bool) (z : Bool)
  | vfleX (d : BitVec 7) (a : BitVec 7) (b : BitVec 7) (m : Bool) (z : Bool)
  | vfunX (d : BitVec 7) (a : BitVec 7) (b : BitVec 7) (m : Bool) (z : Bool)
  | vfsqrt (d : BitVec 7) (a : BitVec 7) (m : Bool) (z : Bool)
  | vfrsqrt (d : BitVec 7) (a : BitVec 7) (m : Bool) (z : Bool)
  | vfrcp (d : BitVec 7) (a : BitVec 7) (m : Bool) (z : Bool)
  | vfexp2 (d : BitVec 7) (a : BitVec 7) (m : Bool) (z : Bool)
  | vflog2 (d : BitVec 7) (a : BitVec 7) (m : Bool) (z : Bool)
  | vftanh (d : BitVec 7) (a : BitVec 7) (m : Bool) (z : Bool)
  | vfsigm (d : BitVec 7) (a : BitVec 7) (m : Bool) (z : Bool)
  | vfgelu (d : BitVec 7) (a : BitVec 7) (m : Bool) (z : Bool)
  | vcvt (d : BitVec 7) (a : BitVec 7) (t : BitVec 5) (m : Bool) (z : Bool)
  | vcvtfi (d : BitVec 7) (a : BitVec 7) (t : BitVec 5) (m : Bool) (z : Bool)
  | vcvtif (d : BitVec 7) (a : BitVec 7) (t : BitVec 5) (m : Bool) (z : Bool)
  | vcvtint (d : BitVec 7) (a : BitVec 7) (t : BitVec 5) (m : Bool) (z : Bool)
  | vpack (d : BitVec 7) (a : BitVec 7) (b : BitVec 7) (m : Bool) (z : Bool)
  | vunpack (d : BitVec 7) (a : BitVec 7) (b : BitVec 7) (m : Bool) (z : Bool)
  | vcbdec (d : BitVec 7) (a : BitVec 7) (b : BitVec 7) (m : Bool) (z : Bool)
  | vcbenc (d : BitVec 7) (a : BitVec 7) (b : BitVec 7) (m : Bool) (z : Bool)
  | vfscale (d : BitVec 7) (a : BitVec 7) (b : BitVec 7) (m : Bool) (z : Bool)
  | vfexpo (d : BitVec 7) (a : BitVec 7) (m : Bool) (z : Bool)
  | vfmant (d : BitVec 7) (a : BitVec 7) (m : Bool) (z : Bool)
  | vfclass (d : BitVec 7) (a : BitVec 7) (m : Bool) (z : Bool)
  | vfdot2 (d : BitVec 7) (a : BitVec 7) (b : BitVec 7) (m : Bool) (z : Bool)
  | vfdot4 (d : BitVec 7) (a : BitVec 7) (b : BitVec 7) (m : Bool) (z : Bool)
  | vfclampX (d : BitVec 7) (a : BitVec 7) (b : BitVec 7) (m : Bool) (z : Bool)
  | vfrelu (d : BitVec 7) (a : BitVec 7) (m : Bool) (z : Bool)
  | vfwadd (d : BitVec 7) (a : BitVec 7) (b : BitVec 7) (m : Bool) (z : Bool)
  | vfwmul (d : BitVec 7) (a : BitVec 7) (b : BitVec 7) (m : Bool) (z : Bool)
  | vfwma (d : BitVec 7) (a : BitVec 7) (b : BitVec 7) (m : Bool) (z : Bool)
  | vfsgnj (d : BitVec 7) (a : BitVec 7) (b : BitVec 7) (m : Bool) (z : Bool)
  | vfsgnjn (d : BitVec 7) (a : BitVec 7) (b : BitVec 7) (m : Bool) (z : Bool)
  | vfsgnjx (d : BitVec 7) (a : BitVec 7) (b : BitVec 7) (m : Bool) (z : Bool)
  | vld (d : BitVec 7) (a : BitVec 7) (b : BitVec 7) (m : Bool) (z : Bool)
  | vldNt (d : BitVec 7) (a : BitVec 7) (b : BitVec 7) (m : Bool) (z : Bool)
  | vldBc (d : BitVec 7) (a : BitVec 7) (b : BitVec 7) (m : Bool) (z : Bool)
  | vst (d : BitVec 7) (a : BitVec 7) (b : BitVec 7) (m : Bool)
  | vstNt (d : BitVec 7) (a : BitVec 7) (b : BitVec 7) (m : Bool)
  | vlds (d : BitVec 7) (a : BitVec 7) (b : BitVec 7) (m : Bool) (z : Bool)
  | vsts (d : BitVec 7) (a : BitVec 7) (b : BitVec 7) (m : Bool)
  | vgather (d : BitVec 7) (a : BitVec 7) (b : BitVec 7) (m : Bool) (z : Bool)
  | vgatherNt (d : BitVec 7) (a : BitVec 7) (b : BitVec 7) (m : Bool) (z : Bool)
  | vscatter (d : BitVec 7) (a : BitVec 7) (b : BitVec 7) (m : Bool)
  | vscatterO (d : BitVec 7) (a : BitVec 7) (b : BitVec 7) (m : Bool)
  | vamoadd (d : BitVec 7) (a : BitVec 7) (b : BitVec 7) (m : Bool) (z : Bool)
  | vamomin (d : BitVec 7) (a : BitVec 7) (b : BitVec 7) (m : Bool) (z : Bool)
  | vamomax (d : BitVec 7) (a : BitVec 7) (b : BitVec 7) (m : Bool) (z : Bool)
  | vamoswap (d : BitVec 7) (a : BitVec 7) (b : BitVec 7) (m : Bool) (z : Bool)
  | vamoand (d : BitVec 7) (a : BitVec 7) (b : BitVec 7) (m : Bool) (z : Bool)
  | vamoor (d : BitVec 7) (a : BitVec 7) (b : BitVec 7) (m : Bool) (z : Bool)
  | vamoxor (d : BitVec 7) (a : BitVec 7) (b : BitVec 7) (m : Bool) (z : Bool)
  | vamofadd (d : BitVec 7) (a : BitVec 7) (b : BitVec 7) (m : Bool) (z : Bool)
  | tld (d : BitVec 7) (a : BitVec 7) (m : Bool) (z : Bool)
  | tst (d : BitVec 7) (a : BitVec 7) (m : Bool)
  | vldsp (d : BitVec 7) (a : BitVec 7) (b : BitVec 7) (m : Bool) (z : Bool)
  | vstsp (d : BitVec 7) (a : BitVec 7) (b : BitVec 7) (m : Bool)
  | vpref (a : BitVec 7) (b : BitVec 7) (m : Bool)
  | vprobe (d : BitVec 7) (a : BitVec 7) (b : BitVec 7) (m : Bool) (z : Bool)
  | mld (d : BitVec 7) (a : BitVec 7) (b : BitVec 7) (z : Bool)
  | mldt (d : BitVec 7) (a : BitVec 7) (b : BitVec 7) (z : Bool)
  | vflush (a : BitVec 7) (b : BitVec 7) (m : Bool)
  | vinval (a : BitVec 7) (b : BitVec 7) (m : Bool)
  | qld (d : BitVec 4) (a : BitVec 7)
  | qmk (d : BitVec 4) (a : BitVec 7)
  | qdrop (d : BitVec 4)
  | qwin (d : BitVec 4) (a : BitVec 7) (b : BitVec 7)
  | dvlds2 (d : BitVec 7) (a : BitVec 7) (b : BitVec 7)
  | dvred (d : BitVec 7) (a : BitVec 7)
  | dmmac (d : BitVec 3) (a : BitVec 7) (b : BitVec 7)
  | dcopy (a : BitVec 7) (b : BitVec 7)
  | mop (d : BitVec 3) (a : BitVec 7) (b : BitVec 7) (m : Bool)
  | mops (d : BitVec 3) (a : BitVec 7) (b : BitVec 7) (m : Bool)
  | mopn (d : BitVec 3) (a : BitVec 7) (b : BitVec 7) (m : Bool)
  | mrw (d : BitVec 3) (a : BitVec 7) (b : BitVec 4) (m : Bool)
  | mrx (d : BitVec 3) (a : BitVec 7) (b : BitVec 7) (m : Bool)
  | mzero (d : BitVec 3)
  | mrd (d : BitVec 7) (a : BitVec 3) (b : BitVec 7) (z : Bool)
  | mwr (d : BitVec 3) (a : BitVec 7) (b : BitVec 7)
  | mscale (d : BitVec 3) (a : BitVec 7)
  | mplane (d : BitVec 4) (a : BitVec 7) (b : BitVec 7)
  | munplane (d : BitVec 7) (a : BitVec 4) (b : BitVec 7)
  | itopen (d : BitVec 3) (a : BitVec 7)
  | itclose (a : BitVec 3)
  | next (d : BitVec 7) (a : BitVec 3) (z : Bool)
  | next2 (d : BitVec 7) (a : BitVec 3) (b : BitVec 7) (z : Bool)
  | enough (a : BitVec 3)
  | itsave (a : BitVec 3)
  | ctxmk (d : BitVec 7) (a : BitVec 7)
  | ctxdestroy (a : BitVec 7)
  | ctxgrant (d : BitVec 7) (a : BitVec 7) (b : BitVec 7)
  | ctxrevoke (d : BitVec 7) (a : BitVec 7) (b : BitVec 7)
  | ctxrun (a : BitVec 7)
  | ctxstop (a : BitVec 7)
  | ctxq (d : BitVec 7) (a : BitVec 7) (b : BitVec 7)
  | launch (d : BitVec 7) (a : BitVec 7)
  | lquery (d : BitVec 7) (a : BitVec 7)
  | frel (a : BitVec 7)
  | fdele (a : BitVec 7) (b : BitVec 7)
  | islon (a : BitVec 7)
  | isloff (a : BitVec 7)
  | islfreq (a : BitVec 7) (b : BitVec 7)
  | featq (d : BitVec 7) (a : BitVec 7)
  | featset (a : BitVec 7) (b : BitVec 7)
  | cntrd (d : BitVec 7) (a : BitVec 7)
  | cntset (a : BitVec 7) (b : BitVec 7)
  | freeze
  | recordDelivery (core : Nat)
  | handlerEntry (core : Nat)
  | placeCrew (die : Nat)
  | reservation (quad ctx : Nat) (handle : Word)
  | sliceEnd (ctx : Nat) (handle : Word)
  | savedPositionWrite (ctx : Nat) (handle : Word)
  | stopDrained (ctx : Nat)
  | forcedPreemption (core slot : Nat)
  | revocationEnforce (ctx n : Nat)
  | revocationGraceExpiry (ctx n : Nat)
  | shootDownComplete
  | contextDestruction (ctx : Nat)
  | hangWatchdog (core slot : Nat)
  | launchCompletion (ctx : Nat) (handle : Word)
  | barrierMarkerFire (core slot : Nat)
  | waitComplete (core slot : Nat)
  | ringAcquireComplete (core slot : Nat)
  | laneGrantWake (core slot : Nat)
  | pauseExpiry (core slot : Nat)
  | yieldRelease (core slot : Nat)
  | copySector (core slot cmd chunk sector : Nat)
  | ringSlotAcquire (core slot cmd : Nat)
  | tableWalkComplete (ctx : Nat) (va : Word)
  | bwPublication (issuer ctx cls : Nat) (occ : List (Nat × Nat × Nat))
  | sramSingleBitError (e : Corrected)
  | sramUncorrectableError (place : SramPlace) (at_ : Option LaneWord)
  | powerLimitAction (e : PowerEvent)
  | hostWrite (off : Nat) (data : HostData)
  | hostRead (place : HostPlace) (n : Nat)
  /-- `resent` says that the flit answers a retry request. -/
  | peerFlitReceive (port : Nat) (flit : List Byte) (resent : Bool)
  | peerRetryRequest (port n : Nat)
  | peerInboundRequest (port pa : Nat) (req : PeerReq)
  | packageReset
  | functionReady (fn : Nat)
  | functionFailed (fn : Nat)
  | go
  | runtimeStart
  | commit
  | switch
  | feataccWrite (half : Bool) (v : Word)
  | configWindowWrite (off : Nat) (data : List Byte)
  | debugResume
  | debugReset
  | fqbaseWrite (v : Word)
  | fqheadWrite (v : Word)
  | fqtailRead (d : BitVec 7)
  | ecauseWrite (v : Word)
  | fpflagsWrite (v : Word)
  | bwclsWrite (v : Word)
  | mirrorSwapCompletion (ctx : Nat) (handle : Word) (error : Bool)
  | hbmEccCorrection
  deriving DecidableEq, Repr

end Sys2Proof
end

