-- ==== Sys2Proof/Machine/State.lean ====
section
/-! DEFINITION. The state of the package: everything the manual gives it, as plain data, and the state after reset. -/

namespace Sys2Proof.Machine

/-- Why a step stops for good. Every fault the manual describes for a running program is a trap and so a next state;
these are accesses of the outside that the manual gives no place. -/
inductive Fault where
  /-- Raised by HOST_READ and HOST_WRITE at an offset of 3 TiB or above, outside the HDM range (23 R342). Safe. -/
  | outsideHdm
  /-- Raised by CONFIG_WINDOW_WRITE at an offset the window does not list for writing (23 R346). Safe. -/
  | configHole
  /-- Raised when a step's written record or description is not there for it: an event that names a core, thread,
  launch, port or island that does not exist. Safe. -/
  | noSuchAgent
  deriving DecidableEq, Repr

/-- Why the model gives an instruction no meaning. -/
inductive Refusal where
  /-- Raised by an arm of `exec` whose instruction has no meaning yet. Safe. -/
  | notModelled (mnemonic : String)
  deriving DecidableEq, Repr

/-! ## Memory -/

/-- Who performs a store at a home (17 R286). -/
inductive Agent where
  /-- A thread, by core × 8 + slot. -/
  | thread (key : Nat)
  /-- The copy engine of a quad. -/
  | engine (quad : Nat)
  | host
  | peer (port : Nat)
  /-- The device itself: saved positions, records, revocations. -/
  | device
  /-- The completion of the launch of an order number: its STATE and its completion word (22 R338). -/
  | completion (order : Nat)
  deriving DecidableEq, Repr

/-- How a store counts in the home order (17 R288, R292, R295). -/
inductive StoreKind where
  /-- A store that a publication carries to other agents. -/
  | plain
  /-- A write of the host or of the device itself, published at scope s as it performs. -/
  | posted
  /-- An atomic, published at scope s as it performs. -/
  | atomic
  /-- An atomic that counts an arrival or a release of ring slots, which later readers of the count observe
  (18 R305, 11 R240). -/
  | counted
  deriving DecidableEq, Repr

/-- One byte performed at its home: its time in the home order, its address, what it replaced, who wrote it, how it
counts, and the copy chunk it belongs to (17 R287, R294). -/
structure Undo where
  time : Nat
  pa : Nat
  old : Byte
  who : Agent
  kind : StoreKind
  chunk : Option (Nat × Nat)
  deriving DecidableEq, Repr

/-- A completed publication (17 R288): whose, at which scope, the home time of its completion, and the home times of
the stores it published. -/
structure Publication where
  who : Agent
  scope : Nat
  at_ : Nat
  stores : List Nat
  deriving DecidableEq, Repr

/-- A pending byte of a thread (17 R288): `whole` marks one written by a store that covers its whole poison unit
(10 R220), `home` one that has reached its home before its publication (17 R287). -/
structure Pend where
  pa : Nat
  val : Byte
  whole : Bool
  home : Bool := false
  /-- How many of the thread's unfired barrier markers are older than the store (17 R300). -/
  behind : Nat := 0
  /-- A send that waits for the thread's older sends: issued under the strengthening mode (17 R303). -/
  ordered : Bool := false
  /-- A send that a boundary narrower than scope s has left to perform (17 R296). -/
  released : Bool := false
  deriving DecidableEq, Repr

/-- A composed translation (10 R203). For each permission it keeps the highest-numbered level that denies it, none
when every level grants it (19 R307). -/
structure Trans where
  pa : Nat
  rDeny : Option Nat
  wDeny : Option Nat
  xDeny : Option Nat
  tier : Nat
  cache : Nat
  key : Nat
  large : Bool
  deriving DecidableEq, Repr

/-- A cached composed translation of a context's page, with the physical frame and the leaf of every level. -/
structure TlbEntry where
  ctx : Nat
  vpn : Nat
  tr : Trans
  deriving DecidableEq, Repr

/-- A shoot-down in progress (10 R216): the context IDs from `lo` of number `n`, and the physical frames, none meaning
every frame. -/
structure Shootdown where
  lo : Nat
  n : Nat
  frames : Option (List Nat)
  deriving DecidableEq, Repr

/-! ## Records and held faults -/

/-- A fault record (19 R310). -/
structure Record where
  cause : Nat
  kind : Nat
  level : Nat
  deleg : Bool
  pcres : Bool
  misslvl : Nat
  nested : Bool
  ctx : Nat
  core : Nat
  thread : Nat
  token : Nat
  va : Word
  pc : Word
  elem : Nat
  cmd : Nat
  sect : Nat
  chunk : Nat
  hints : List Nat
  orig : Nat × Nat
  deriving DecidableEq, Repr

/-- An entry of a core's pending list: a record, the resume PC and the held micro-step (19 R315). -/
structure Entry where
  record : Record
  resume : Word
  mstep : Nat
  /-- The context whose handler takes it. -/
  owner : Nat := 0
  /-- The record stands in its queue already. -/
  written : Bool := false
  /-- The machine check of a ninth handler, entered before any other entry (19 R315). -/
  first : Bool := false
  /-- The steps of the deprecated instruction that the record's release replays: MSTEP may be written below them (19
  R313, R327). -/
  steps : Nat := 0
  deriving DecidableEq, Repr

/-- What a token names (19 R311). -/
inductive HeldBy where
  /-- A user thread stalled on a trap. -/
  | user
  /-- A handler or the resident code of a core's supervisor thread. -/
  | supervisor
  /-- A copy engine's replay record: the command's serial number and the chunk. -/
  | engine (serial chunk : Nat)
  /-- A watched hung task: its context, launch, crew and task number. -/
  | hang (ctx : Nat) (handle : Word) (crew k : Nat)
  deriving DecidableEq, Repr

/-- A held fault (19 R311). -/
structure Held where
  token : Nat
  entry : Entry
  by_ : HeldBy
  deriving DecidableEq, Repr

/-! ## Vector, matrix, iterator and copy state of a thread -/

/-- A vector register: its tag and its store of bytes (07 R121). -/
structure VReg where
  tag : Nat
  bytes : List Host.Cell
  deriving DecidableEq, Repr

/-- A tile: its tag and the elements that are not 0, by 128 × row + column (12 R242). -/
structure Tile where
  tag : Nat
  elems : Map (BitVec 32)
  deriving DecidableEq, Repr

/-- An operand record (12 R247). -/
structure OpRec where
  pbase : Word
  sbase : Word
  k : Nat
  n : Nat
  p : Nat
  cb : Bool
  owner : Nat
  perm : Nat
  gen : Nat
  ada : Nat
  adb : Nat
  rank : Nat
  deriving DecidableEq, Repr

/-- What a record register holds (12 R249). -/
structure QReg where
  oprec : OpRec
  slot : Option Nat
  gen : Nat
  k0 : Nat
  j0 : Nat
  deriving DecidableEq, Repr

/-- A slot of an iterator image (15 R267): the five named bytes, the 48 kind bytes as six words, and HOLD. -/
structure Slot where
  kind : Nat
  st : Nat
  w : Nat
  aux : Nat
  f0 : Word
  f1 : Word
  f2 : Word
  f3 : Word
  f4 : Word
  f5 : Word
  hold : Word
  deriving DecidableEq, Repr

/-- The live state of an open iterator handle (15 R266, R273). -/
structure Iter where
  image : Word
  st : Nat
  total : Word
  slots : List Slot
  deriving DecidableEq, Repr

/-- A shape record (07 R141). -/
structure Shape where
  base : Word
  rank : Nat
  fmt : Nat
  ext : List Nat
  strides : List Int
  deriving DecidableEq, Repr

/-- Where a scratchpad window access of a task lands (10 R204 to R207): core, allotment, region and swizzle. -/
structure SpadEnv where
  core : Nat
  crew : Nat
  base : Nat
  size : Nat
  swz : Word
  deriving DecidableEq, Repr

/-- Why a sector is missing: cause, address, element, and the level of the map that raised it (11 R235). -/
structure SectFault where
  cause : Nat
  va : Word
  elem : Nat
  map : Option Nat
  deriving DecidableEq, Repr

/-- A copy command of a thread (11 R232 to R241). -/
structure Command where
  serial : Nat
  id : Nat
  pc : Word
  src : Shape
  dst : Shape
  barrier : Word
  ring : Word
  count : Nat
  width : Nat
  spad : SpadEnv
  /-- The sectors complete of each chunk, as a mask. -/
  done : Map Nat
  /-- The sectors missing of each chunk, as a mask (11 R235). -/
  missing : Map Nat
  /-- The fault of each chunk's lowest missing sector. -/
  why : Map SectFault
  /-- Chunks complete. -/
  full : List Nat
  /-- The slots that ring chunks hold, by chunk (11 R241). -/
  slots : Map Word
  deriving DecidableEq, Repr

/-- An unfired barrier marker (17 R300). -/
structure Marker where
  scope : Nat
  addr : Word
  count : Word
  pc : Word
  /-- Its publication is complete, and its update waits: for the barrier's memory, or for the release of a trap. -/
  published : Bool := false
  /-- SWZ as it stood when the `arrive` issued: a later write of it governs later instructions alone (10 R206). -/
  swz : Word := 0
  /-- Its update has faulted, and the thread stands trapped on it. -/
  stalled : Bool := false
  deriving DecidableEq, Repr

/-- The open loop of a thread (07 R120, R135). `open_` says that the strip of the present pass is open. -/
structure Loop where
  par : Bool
  next : Nat
  len : Nat
  pc : Word
  reg : BitVec 7
  body : List (BitVec 32)
  open_ : Bool
  deriving DecidableEq, Repr

/-- The vector loop context of a user thread (07 R120). -/
structure Vec where
  decl : Nat
  gran : Nat
  flush : Nat
  fmt : Nat
  vl : Nat
  al : Nat
  es : Nat
  starved : Bool
  more : Bool
  itx : Bool
  freeze : Bool
  cause : Nat
  maxvl : Nat
  lanes : Nat
  grant : Nat
  loop : Option Loop
  deriving DecidableEq, Repr

/-- The matrix control registers of a thread (12 R251). -/
structure MxRegs where
  k0 : Nat
  j0 : Nat
  mref0 : Word
  mref1 : Word
  deriving DecidableEq, Repr

/-- The copy of the handler-scoped registers that a handler or the resident code holds (19 R313), and the record it
serves. -/
structure HRegs where
  epc : Word
  keep : Bool
  remove : Bool
  cause : Nat
  mstep : Nat
  served : Option Entry
  deriving DecidableEq, Repr

/-- The thread counters 0x000 to 0x007 (23 R351). -/
structure Counters where
  retired : Nat
  elems : Nat
  trims : Nat
  traps : Nat
  stalls : Nat
  bytesRead : Nat
  bytesWritten : Nat
  examined : Nat
  deriving DecidableEq, Repr

/-- What keeps a thread from issuing (05 R86). -/
inductive Status where
  /-- The thread does not run. -/
  | off
  | ready
  /-- Stalled on the held fault of a token. -/
  | trapped (token : Nat)
  /-- A wait of 17 R301: which of waitb, waitv, waitc, the address, the value and the scope. -/
  | waiting (kind : Nat) (addr val : Word) (scope : Nat)
  /-- A ring acquire of 11 R240: writer or reader, the descriptor, the count and the destination. -/
  | ringWait (write : Bool) (addr count : Word) (dest : BitVec 7)
  /-- A `setvl` or strip opening that waits for lane groups (05 R88). -/
  | laneWait
  /-- A pause that ends at a cycle of the core (06 R118). -/
  | pause (until_ : Nat)
  /-- A yield: the cycle at which it ends, and the user threads still awaited (06 R118). -/
  | yield (until_ : Nat) (others : List Nat)
  /-- `exit` or `xcopy` waits until fewer commands are outstanding (22 R334, 11 R234). -/
  | engineWait (outstanding : Nat)
  /-- `eret` waits for a release or an entry (19 R317). -/
  | eretWait
  deriving DecidableEq, Repr

/-- The task of a user thread. -/
structure Task where
  ctx : Nat
  handle : Word
  crewId : Nat
  crew : Nat
  k : Nat
  tasks : Nat
  tiles : Nat
  spad : Nat
  spBase : Nat
  rank : Nat
  /-- The context whose pool gives the image slot, and its number (19 R320). -/
  image : Nat × Nat
  features : Nat
  /-- Removed once already (19 R322). -/
  removed : Bool
  /-- TIME from which the hang watchdog counts when a release has restarted it (19 R323). -/
  hangFrom : Nat
  deriving DecidableEq, Repr

/-- What an instruction that has raised flags, and may be in flight still, can change besides (06 R99, 07 R133): AL; ES;
VSTAT; a vector register, a tile; the registers MXCUR, MREF0 and MREF1 of `mrx`; a thread counter other than those that any
instruction changes. -/
inductive Effect where
  | length
  | steps
  | status
  | vreg (n : Nat)
  | tile (n : Nat)
  | mx
  | counter (n : Nat)
  deriving DecidableEq, Repr

/-- Flags that FPFLAGS holds already and that a write of it may be ORed with, for the instruction that raised them may be in
flight still (06 R99; log entry 15): the flags, and what else that instruction can change. A read that waits for one of
these finds it finished. -/
structure Flight where
  flags : Word
  can : List Effect
  deriving DecidableEq, Repr

/-- An instruction that a release issues again (07 R127): its word, its address, the vector registers as they stood
when it first issued, which its operands are read from, the records that an `mrx` has resolved (12 R255), and the
flags of its completed elements, which reach FPFLAGS when it retires (07 R130), with what else it can change. -/
structure Replay where
  word : BitVec 32
  pc : Word
  regs : Map VReg
  rows : List (Option OpRec)
  flags : Word := 0
  can : List Effect := []
  deriving DecidableEq, Repr

/-- A hardware thread (06 R93), its task and its part of the memory model. -/
structure Thread where
  pc : Word
  regs : Map Word
  wb : Nat
  fpcr : Word
  fpflags : Word
  /-- Flags raised by vector and matrix instructions that may be in flight still, latest first (06 R99). -/
  flights : List Flight
  swz : Word
  ctx : Nat
  status : Status
  replay : Option Replay
  mstep : Nat
  h : HRegs
  cnt : Counters
  task : Option Task
  vec : Vec
  vregs : Map VReg
  tiles : Map Tile
  qregs : Map QReg
  mx : MxRegs
  iters : Map Iter
  cmds : List Command
  /-- The serial number of the command last started with each register as chunk mask. -/
  lastCmd : Map Nat
  /-- The serial numbers of the thread's own commands. -/
  mine : List Nat
  markers : List Marker
  /-- Stores not published yet, newest first. -/
  pend : List Pend
  /-- Home times of other agents' stores that the snapshot holds (17 R289). -/
  snap : List Nat
  /-- Those of them that the thread's boundaries publish: required by 17 R290, or acquired with `vacq`. -/
  carry : List Nat
  /-- Home times of the stores that the thread has observed (17 R290). -/
  seen : List Nat
  /-- Home times of the bytes of its own atomics that no plain load of it has read since: the next one may return a value
  later than theirs (06 R112). -/
  reload : List Nat := []
  /-- Home time of the thread's last `phase`, for its own code stores (06 R95). -/
  phaseAt : Nat
  /-- The key under which a saved thread's stores stand in the home order; 0 on a core. -/
  alias_ : Nat
  /-- Tiles struck by an uncorrectable error whose trap has not been taken yet (10 R219). -/
  mcheck : List Nat
  /-- A forced pre-emption's request to the oldest unfinished instruction: where it stops (07 R131). -/
  stop : Option Nat
  /-- The oldest unfinished instruction has answered a forced pre-emption (07 R131). -/
  stopped : Bool
  /-- The pull that the thread issues next was abandoned by a forced pre-emption: it issues again after the restore
  (15 R279). -/
  abandoned : Bool := false
  deriving DecidableEq, Repr

/-! ## Contexts, launches and crews -/

/-- A per-core amount: one value for every core, and the cores that differ. -/
structure PerCore where
  all_ : Nat
  except_ : Map Nat
  deriving DecidableEq, Repr

/-- A context's holdings (04 R49). -/
structure Budget where
  /-- The core set, as a mask of 256 bits. -/
  cores : Nat
  threads : PerCore
  spad : PerCore
  tiles : PerCore
  iters : PerCore
  hbm : Nat
  lpddr : Nat
  hostwin : List (Nat × Nat)
  records : Nat
  rings : Nat
  bw : PerCore
  prio : Nat
  slice : Nat
  keys : List Nat
  deriving DecidableEq, Repr

/-- A pending revocation (04 R56). -/
structure Revocation where
  item : Nat
  qual : Nat
  v0 : Nat
  v1 : Nat
  deadline : Nat
  done : Word
  /-- The core and the PC of the `ctxrevoke`, for a failed DONE write. -/
  core : Nat
  pc : Word
  /-- 0 in grace, 1 being enforced while tasks drain, 2 in its shoot-down. -/
  phase : Nat
  /-- Frames cleared in each tier, for FRAMES. -/
  cut : Nat × Nat
  deriving DecidableEq, Repr

/-- A launch record as accepted (02 R18, R20). -/
structure LaunchRec where
  code : Word
  entry : Nat
  fuse : Bool
  crews : Nat
  tasks : Nat
  stages : Nat
  vdecl : Nat
  tiles : Nat
  spad : Nat
  prio : Nat
  bw : Nat
  param : Word
  done : Word
  prereq : List Word
  mirror : Word
  deriving DecidableEq, Repr

/-- What pre-empts crews by force (19 R321): an island that is being switched off, or a pending revocation, by its context,
its item and its qualifier (05 R74, 04 R57). -/
inductive Preemption where
  | island (n : Nat)
  | revocation (ctx item qual : Nat)
  deriving DecidableEq, Repr

/-- A crew saved by a forced pre-emption (19 R321): its index and the threads of its tasks. -/
structure SavedCrew where
  index : Nat
  threads : List Thread
  deriving DecidableEq, Repr

/-- How an accepted launch stands. -/
inductive LaunchMode where
  /-- Placing is allowed. -/
  | open_
  /-- A slice end: placed crews drain (05 R85). -/
  | draining
  /-- A stop of the context: placed crews drain (04 R64). -/
  | stopping
  /-- Saved, and waiting for selection. -/
  | waiting
  /-- Every crew has ended; the saved position and the completion word are written, the mirror Swap is in flight. -/
  | mirror
  deriving DecidableEq, Repr

/-- An accepted launch that is not complete (02 R20, R21; 22 R337). -/
structure Launch where
  handle : Word
  desc : LaunchRec
  nextCrew : Nat
  /-- First crew of this acceptance. -/
  firstCrew : Nat
  slices : Nat
  placed : Nat
  finished : Nat
  saved : List SavedCrew
  aborts : Nat
  status : Nat
  features : Nat
  /-- Order of acceptance, or of the return to the queue. -/
  order : Nat
  mode : LaunchMode
  /-- TIME at which the slice timer started (05 R85), and the length of the slice that it times, in µs (04 R57). -/
  timer : Option (Nat × Nat)
  /-- TIME at which the drain started (19 R323). -/
  drainFrom : Option Nat
  /-- TIME since which the next crew has waited (05 R84). -/
  waitFrom : Option Nat
  /-- The quad on which the waiting crew may take its reservation (05 R84). -/
  reserveAt : Option Nat
  /-- Crews that wait behind one saved since, by index, with the TIME since which each has waited (05 R84). -/
  parked : Map Nat := []
  /-- Home times of the stores that the launching thread had published at the acceptance (04 R69). -/
  accepted : List Nat
  /-- The value of the mirror Swap in flight (22 R338). -/
  swap : Word
  /-- The keys under which the stores of its ended tasks stand in the home order. -/
  keys : List Nat
  /-- The forced pre-emptions that have saved crews of the launch and whose write of the saved position is still to come:
  each makes one, once no crew of the launch that it names runs (02 R21). -/
  saving : List Preemption := []
  /-- A write of the saved position that SLICES counts already waits for its memory (02 R21). -/
  due : Bool
  /-- STATE = 2 is written, and the completion word is still to be updated (02 R21, 22 R338). -/
  stateDone : Bool := false
  deriving DecidableEq, Repr

/-- A context (04 R47 to R64) with its control registers. -/
structure Context where
  id : Nat
  count : Nat
  depth : Nat
  parent : Nat
  /-- 0 FREE, 1 MADE, 2 RUNNING, 3 STOPPING, 4 STOPPED, 5 DESTROYING. -/
  state : Nat
  run : Bool
  isol : Bool
  maproot : Nat
  budget : Budget
  revs : List Revocation
  first : Word
  fqbase : Word
  fqlog2 : Nat
  fqhead : Nat
  fqtail : Nat
  /-- Home times of the bytes of the records written to the queue (19 R312, R313). -/
  fqstores : List Nat
  dropped : Nat
  deleg : Word
  exitvec : Word
  trapvec : Word
  rev1 : Bool
  imgbase : Word
  imgcount : Nat
  recbase : Word
  launches : List Launch
  deriving DecidableEq, Repr

/-- A placed crew (05 R77 to R82): where its live tasks run, and the scratchpad region it holds on each core as core,
offset and number of tasks. -/
structure Crew where
  id : Nat
  ctx : Nat
  handle : Word
  index : Nat
  quad : Nat
  fuse : Bool
  live : List (Nat × Nat)
  spad : Nat
  regions : List (Nat × Nat × Nat)
  /-- Tasks already saved by a forced pre-emption of the crew that is not complete (19 R321). -/
  saved : List Thread
  /-- The forced pre-emptions that have saved them. -/
  pre : List Preemption := []
  deriving DecidableEq, Repr

/-- A reservation of a crew on a quad (05 R84). -/
structure Reservation where
  quad : Nat
  ctx : Nat
  handle : Word
  /-- The crew's index in its launch. -/
  crew : Nat
  deriving DecidableEq, Repr

/-! ## Cores and the package -/

/-- A suspended handler (19 R315): the registers it runs with and the token of its fault. -/
structure Handler where
  thread : Thread
  token : Nat
  deriving DecidableEq, Repr

/-- A notice remembered for suppression (19 R312): context, cause, page, queue's context and cycle. -/
structure Recent where
  ctx : Nat
  cause : Nat
  page : Nat
  queue : Nat
  cycle : Nat
  deriving DecidableEq, Repr

/-- The part of a core that belongs to no thread. -/
structure Core where
  pending : List Entry
  /-- Trap and engine records that wait for room in the pending list, with their queue's context. -/
  blocked : List Entry
  stack : List Handler
  resident : Option Thread
  seq : Nat
  recent : List Recent
  lastUser : Nat
  /-- Lane groups gated or marked for gating. -/
  gated : Nat
  /-- The retired lanes of each lane group, as a mask. -/
  retired : Map Nat
  /-- The errors of words of the lanes' SRAM slices, by lane + 256 × word: corrections since the word was last
  rewritten, and uncorrectable errors (10 R221). -/
  wordErrs : Map (Nat × Nat)
  /-- Lines of the core's L1 that an error has poisoned there (10 R219, R220). -/
  l1Poison : List Nat
  /-- Lines of the core's L1 that the strengthening mode has filled, with the cycle of the fill (17 R303). -/
  l1Fills : Map Nat
  deriving DecidableEq, Repr

/-- An island (05 R72): its supply, its clock, and the cycles it had counted at a TIME. -/
structure Island where
  on : Bool
  /-- An `isloff` waits for the tasks of the quad to be pre-empted (05 R74). -/
  draining : Bool
  mhz : Nat
  /-- Thousandths of a cycle counted up to `since`. -/
  base : Nat
  since : Nat
  deriving DecidableEq, Repr

/-- A peer port (23 R344): the last flits sent, which the replay buffer of 64 holds, the flits resent, and the retries
it has asked for. -/
structure Port where
  replay : List (List Byte)
  resent : List (List Byte)
  asked : Nat
  /-- Of the flits sent last, those that the peer has not acknowledged (19 R328; log entry 64). -/
  unacked : Nat := 0
  inBase : Nat
  inCount : Nat
  /-- Payloads of flits that wait for one before them, none standing for a flit that failed its CRC. -/
  queued : List (Option (List Byte))
  /-- Payloads of the flits delivered, in order. -/
  delivered : List (List Byte)
  /-- What the last inbound request was answered with: its data and whether it is poisoned; none an error (23 R345). -/
  answer : Option (List Byte × Bool)
  deriving DecidableEq, Repr

/-- An issuer's throttle for one class (05 R92): level, flagging controllers, allowance (none: unlimited). -/
structure Throttle where
  level : Nat
  flags : List Nat
  allowance : Option Nat
  deriving DecidableEq, Repr

/-- A ring request that waits at a counter (11 R240): the descriptor's address at the home, the side, and who asks. -/
structure RingReq where
  pa : Nat
  write : Bool
  /-- A thread's key, or a command's serial number. -/
  who : Sum Nat Nat
  deriving DecidableEq, Repr

/-- A firmware bank (23 R346). -/
structure Bank where
  version : Nat
  keyHash : List Byte
  signed : Bool
  deriving DecidableEq, Repr

/-- The management controller's state (23 R346, R348). -/
structure Mgmt where
  bankA : Bank
  bankB : Bank
  /-- The running bank: 0 none, 1 A, 2 B. -/
  running : Nat
  rollback : Nat
  imglen : Nat
  sig : List Byte
  key : List Byte
  status : Nat
  ready : Nat
  failed : Nat
  accepted : Nat
  /-- A frequency has been lowered since package power was last at or below LIMIT (23 R352). -/
  lowered : Bool
  hostUp : Bool
  hdmOpen : Bool
  started : Bool
  deriving DecidableEq, Repr

/-- Who moves, and the nanoseconds that the move takes. -/
inductive Turn where
  /-- A core issues. -/
  | core (c ns : Nat)
  /-- Another agent's step. -/
  | event (i : Instr) (ns : Nat)
  /-- The outside changes its own memory: host memory or a peer's, by physical address. -/
  | outside (pa : Nat) (data : List Byte) (ns : Nat)
  /-- A peer's own `arrive` at a barrier in its memory: the barrier's address and the count (17 R298, 18 R305). -/
  | arrival (pa n ns : Nat)
  /-- Pending bytes of a thread, or sends under the key of an ended task, reach their homes early (17 R287, R296). -/
  | early (key : Nat) (pas : List Nat) (ns : Nat)
  /-- The outside sets which of its 64-KiB pages answer with a link error, and which of its 64-byte lines with poison
  (10 R219). -/
  | links (errs poison : List Nat) (ns : Nat)
  deriving DecidableEq, Repr

/-- The package. -/
structure State where
  mem : List Host.Cell
  hist : List Undo
  /-- The publications of every agent, latest first (17 R288). -/
  pubs : List Publication
  /-- Sends of ended tasks that have not performed yet, with the key of their stores (17 R296). -/
  sends : List (Nat × Pend)
  poison : List Nat
  ns : Nat
  islands : Map Island
  threads : Map Thread
  cores : Map Core
  ctxs : Map Context
  crews : List Crew
  held : List Held
  /-- Active list of each die, contexts with their deficits, head first (05 R83). -/
  active : Map (List (Nat × Nat))
  /-- The dies whose head context has been given its quantum (05 R83). -/
  turns : List Nat
  reserved : List Reservation
  tlb : List TlbEntry
  shoot : List Shootdown
  rings : List RingReq
  mgmt : Mgmt
  peerSel : Nat
  ports : Map Port
  /-- Home time up to which stores to peer windows have left in flits (23 R344). -/
  sentUpTo : Nat
  /-- Class last written in BWCLS, and the classes' weights. -/
  bwClass : Nat
  bwWeights : Map Nat
  throttles : Map Throttle
  /-- Package counters 0x100 to 0x107. -/
  counters : Map Nat
  /-- Host-cached lines, oldest use first, with the home time of the read (23 R343). -/
  snoop : List (Nat × Nat)
  /-- 64-KiB pages of the outside that answer with a link error. -/
  hostErr : List Nat
  /-- 64-byte lines of the outside whose reads return a poisoned TLP or CXL poison (10 R219). -/
  hostPoison : List Nat
  outbox : List Byte
  outboxPoison : Bool
  frozen : Bool
  /-- The model's own: whose turn it is, who executes which word, and what numbers its free choices. -/
  agenda : List Turn
  core : Nat
  cur : Nat
  word : BitVec 32
  fresh : Nat
  deriving DecidableEq, Repr

/-! ## Reset -/

def HRegs.reset : HRegs :=
  { epc := 0, keep := false, remove := false, cause := 0, mstep := 0, served := none }

def Counters.zero : Counters :=
  { retired := 0, elems := 0, trims := 0, traps := 0, stalls := 0, bytesRead := 0, bytesWritten := 0, examined := 0 }

/-- Reset values of the vector control registers (07 R120). -/
def Vec.reset : Vec :=
  { decl := 0, gran := 0, flush := 0, fmt := 0, vl := 0, al := 0, es := 0, starved := false, more := false,
    itx := false, freeze := false, cause := 0, maxvl := 0, lanes := 0, grant := 0, loop := none }

/-- A thread before anything runs on it. -/
def Thread.reset : Thread :=
  { pc := 0, regs := [], wb := 0, fpcr := 0, fpflags := 0, flights := [], swz := 0, ctx := 0, status := .off, replay := none,
    mstep := 0, h := .reset, cnt := .zero, task := none, vec := .reset, vregs := [], tiles := [], qregs := [],
    mx := { k0 := 0, j0 := 0, mref0 := 0, mref1 := 0 }, iters := [], cmds := [], lastCmd := [], mine := [],
    markers := [], pend := [], snap := [], carry := [], seen := [], phaseAt := 0, alias_ := 0,
    mcheck := [], stop := none, stopped := false }

def Core.reset : Core :=
  { pending := [], blocked := [], stack := [], resident := none, seq := 0, recent := [], lastUser := 3, gated := 0,
    retired := [], wordErrs := [], l1Poison := [], l1Fills := [] }

/-- Every island is on at 2,400 MHz (05 R72). -/
def Island.reset : Island := { on := true, draining := false, mhz := 2400, base := 0, since := 0 }

def Port.reset : Port := { replay := [], resent := [], asked := 0, inBase := 0, inCount := 0, queued := [], delivered := [],
                            answer := none }

def Throttle.reset : Throttle := { level := 0, flags := [], allowance := none }

def VReg.reset : VReg := { tag := 0, bytes := [] }

def Tile.reset : Tile := { tag := 0, elems := [] }

/-- The root holds every item in full (04 R49). -/
def Budget.full : Budget :=
  { cores := 2 ^ 256 - 1, threads := { all_ := 4, except_ := [] }, spad := { all_ := 0x800000, except_ := [] },
    tiles := { all_ := 8, except_ := [] }, iters := { all_ := 32, except_ := [] }, hbm := 16773120,
    lpddr := 33554432, hostwin := [(0, 2 ^ 48)], records := 65536, rings := 1024,
    bw := { all_ := 1024, except_ := [] }, prio := 7, slice := 100000, keys := [] }

/-- A new child holds nothing but its interval (04 R60). -/
def Budget.empty : Budget :=
  { cores := 0, threads := { all_ := 0, except_ := [] }, spad := { all_ := 0, except_ := [] },
    tiles := { all_ := 0, except_ := [] }, iters := { all_ := 0, except_ := [] }, hbm := 0, lpddr := 0,
    hostwin := [], records := 0, rings := 0, bw := { all_ := 0, except_ := [] }, prio := 0, slice := 0, keys := [] }

/-- The root context at package reset (04 R47, R64; 19 R314). Its REVTYPE, for which the manual names a descriptor that the
root has not, is 0 (log entry 96). -/
def Context.root : Context :=
  { id := 0, count := 4096, depth := 0, parent := 0, state := 2, run := true, isol := false, maproot := 0,
    budget := .full, revs := [], first := 0, fqbase := 0, fqlog2 := 0, fqhead := 0, fqtail := 0, fqstores := [], dropped := 0,
    deleg := 0, exitvec := 0, trapvec := 0, rev1 := false, imgbase := 0, imgcount := 0, recbase := 0,
    launches := [] }

/-- The firmware banks of log entry 4. -/
def Bank.reset : Bank := { version := 0, keyHash := List.replicate 48 0, signed := true }

/-- The management controller at reset (23 R346, R348, R350). -/
def Mgmt.reset : Mgmt :=
  { bankA := .reset, bankB := .reset, running := 1, rollback := 0, imglen := 0, sig := List.replicate 96 0,
    key := List.replicate 96 0, status := 0, ready := 0, failed := 0, accepted := 0, lowered := false, hostUp := true,
    hdmOpen := false, started := false }

/-- The package right after reset. The initial map of 23 R346 step 3 is what memory with nothing listed reads as. -/
def State.reset : State :=
  { mem := [], hist := [], pubs := [], sends := [], poison := [], ns := 0, islands := [], threads := [], cores := [],
    ctxs := [(0, Context.root)], crews := [], held := [], active := [], turns := [], reserved := [], tlb := [], shoot := [],
    rings := [], mgmt := .reset, peerSel := 0, ports := [], sentUpTo := 0, bwClass := 0, bwWeights := [], throttles := [],
    counters := [], snoop := [], hostErr := [], hostPoison := [], outbox := [], outboxPoison := false, frozen := false, agenda := [],
    core := 0, cur := 4, word := 0, fresh := 0 }

end Sys2Proof.Machine
end

