-- ==== Sys2Proof/Machine/Access.lean ====
section
/-! DEFINITION. Accessors: one home for each piece of state, and the small sums over them. -/

namespace Sys2Proof.Machine

/-- What a meaning answers. -/
abbrev Out := Host.Outcome State Fault Refusal

/-! ## Threads -/

/-- The key of a thread: core × 8 + slot; slot 4 is the supervisor thread. -/
def threadKey (core slot : Nat) : Nat := core * 8 + slot

def coreOfKey (key : Nat) : Nat := key / 8

def slotOfKey (key : Nat) : Nat := key % 8

/-- A supervisor thread (06 R93). -/
def isSupervisor (key : Nat) : Bool := slotOfKey key == 4

def State.thread (s : State) (key : Nat) : Thread := Map.getD key Thread.reset s.threads

def State.setThread (s : State) (key : Nat) (t : Thread) : State := { s with threads := Map.put key t s.threads }

def State.modThread (s : State) (key : Nat) (f : Thread → Thread) : State := s.setThread key (f (s.thread key))

/-- The executing thread. -/
def State.me (s : State) : Thread := s.thread s.cur

def State.setMe (s : State) (t : Thread) : State := s.setThread s.cur t

def State.modMe (s : State) (f : Thread → Thread) : State := s.setMe (f s.me)

def State.modVec (s : State) (f : Vec → Vec) : State := s.modMe (fun t => { t with vec := f t.vec })

/-! ## Cores, contexts, ports, islands -/

def State.coreAt (s : State) (c : Nat) : Core := Map.getD c Core.reset s.cores

def State.setCore (s : State) (c : Nat) (x : Core) : State := { s with cores := Map.put c x s.cores }

def State.modCore (s : State) (c : Nat) (f : Core → Core) : State := s.setCore c (f (s.coreAt c))

/-- A context that does not live. -/
def Context.free (id : Nat) : Context :=
  { Context.root with id := id, count := 0, state := 0, run := false, budget := Budget.empty }

def State.ctxAt (s : State) (id : Nat) : Context := Map.getD id (Context.free id) s.ctxs

/-- A live context, one being destroyed included (04 R47, R62). -/
def State.live (s : State) (id : Nat) : Bool := (Map.find id s.ctxs).isSome

def State.setCtx (s : State) (c : Context) : State := { s with ctxs := Map.put c.id c s.ctxs }

def State.modCtx (s : State) (id : Nat) (f : Context → Context) : State := s.setCtx (f (s.ctxAt id))

def State.island (s : State) (n : Nat) : Island := Map.getD n Island.reset s.islands

def State.setIsland (s : State) (n : Nat) (i : Island) : State := { s with islands := Map.put n i s.islands }

def State.port (s : State) (n : Nat) : Port := Map.getD n Port.reset s.ports

def State.setPort (s : State) (n : Nat) (p : Port) : State := { s with ports := Map.put n p s.ports }

/-- The next number for a free choice, used once. -/
def State.bump (s : State) : State := { s with fresh := s.fresh + 1 }

def PerCore.get (p : PerCore) (c : Nat) : Nat := Map.getD c p.all_ p.except_

def PerCore.set (p : PerCore) (c v : Nat) : PerCore := { p with except_ := Map.put c v p.except_ }

/-! ## The tree of contexts -/

/-- The contexts from one up to the root, deepest first (04 R47: the greatest depth is 7). -/
def State.pathFrom (s : State) : Nat → Nat → List Nat
  | 0, id => [id]
  | n + 1, id => if id = 0 then [0] else id :: s.pathFrom n (s.ctxAt id).parent

def State.path (s : State) (id : Nat) : List Nat := s.pathFrom 7 id

/-- Whether an ID lies in the subtree of a context, by its interval (04 R47). -/
def State.inSubtree (s : State) (top id : Nat) : Bool :=
  let c := s.ctxAt top
  c.id ≤ id && id < c.id + c.count

/-- The direct children of a context, in ascending ID. -/
def State.children (s : State) (id : Nat) : List Context :=
  (s.ctxs.map (·.2)).filter (fun c => c.id != 0 && c.parent == id)

/-- The live contexts of a subtree, its top included, in ascending ID. -/
def State.subtree (s : State) (id : Nat) : List Context := (s.ctxs.map (·.2)).filter (fun c => s.inSubtree id c.id)

/-- The ancestor of a context at a depth. -/
def State.ancestorAt (s : State) (id depth : Nat) : Nat :=
  ((s.path id).find? (fun a => (s.ctxAt a).depth == depth)).getD 0

/-! ## Time -/

/-- CYCLE of a core: the cycles of its quad's island since its reset (23 R350). It stops while the island is off. -/
def State.cycle (s : State) (core : Nat) : Nat :=
  let i := s.island (core / 4)
  (i.base + (if i.on then (s.ns - i.since) * i.mhz else 0)) / 1000 % 2 ^ 64

/-- An island with its cycles brought up to date. -/
def State.settleIsland (s : State) (n : Nat) : Island :=
  let i := s.island n
  { i with base := i.base + (if i.on then (s.ns - i.since) * i.mhz else 0), since := s.ns }

/-! ## Small helpers -/

/-- Sign extension of the low `n` bits of a number to 64 bits. -/
def sext64 (n x : Nat) : Word :=
  let v := x % 2 ^ n
  if n = 0 then 0 else if v < 2 ^ (n - 1) then BitVec.ofNat 64 v else BitVec.ofInt 64 ((v : Int) - (2 ^ n : Nat))

/-- Bits `lo` to `lo + n − 1` of a number. -/
def bitsAt (x lo n : Nat) : Nat := x / 2 ^ lo % 2 ^ n

/-- Bit `i` of a number. -/
def bitAt (x i : Nat) : Bool := x / 2 ^ i % 2 == 1

/-- A number with bit `i` set. -/
def setBit (x i : Nat) : Nat := if bitAt x i then x else x + 2 ^ i

/-- A number with bit `i` cleared. -/
def clearBit (x i : Nat) : Nat := if bitAt x i then x - 2 ^ i else x

/-- The number of 1 bits among the low `n`. -/
def popCount (n x : Nat) : Nat := ((List.range n).filter (bitAt x)).length

/-- 1 for true. -/
def b2n (b : Bool) : Nat := if b then 1 else 0

/-- 1 for true, as a register value. -/
def b2w (b : Bool) : Word := if b then 1 else 0

/-- A package counter incremented, saturating (23 R351). -/
def State.count (s : State) (n k : Nat) : State :=
  { s with counters := Map.put n (min (Map.getD n 0 s.counters + k) (2 ^ 64 - 1)) s.counters }

/-- The executing thread's counters changed. -/
def State.tally (s : State) (f : Counters → Counters) : State := s.modMe (fun t => { t with cnt := f t.cnt })

end Sys2Proof.Machine
end

