-- ==== Sys2Proof/Machine/Mem.lean ====
section
/-! DEFINITION. Homes, poison, pending stores, snapshots, publishing and acquiring (10 R199, R220; 17 R286 to R297). -/

namespace Sys2Proof.Machine

/-! ## Physical addresses -/

/-- Where the model keeps core `c`'s scratchpad: one 8-MiB run per core above every physical address. -/
def spadPa (core off : Nat) : Nat := 2 ^ 60 + core * 2 ^ 23 + off

def isSpad (pa : Nat) : Bool := 2 ^ 60 ≤ pa

/-- The tier of a physical address (10 R199): 0 HBM, 1 LPDDR6, 2 host, 3 peer. -/
def tierOf (pa : Nat) : Option Nat :=
  if pa < 0x10000000000 then some 0
  else if pa < 0x30000000000 then some 1
  else if 0x8000000000000 ≤ pa && pa < 0x9000000000000 then some 2
  else if 0xC000000000000 ≤ pa && pa < 0xD000000000000 then some 3
  else none

/-- The far-TLB reserve, the top 256 MiB of HBM (10 R199). -/
def inReserve (pa : Nat) : Bool := 0xFFF0000000 ≤ pa && pa < 0x10000000000

/-- The peer port of an address in a peer window. -/
def peerPort (pa : Nat) : Nat := (pa - 0xC000000000000) / 0x100000000000

/-- The die whose L2 is the home of a device address (10 R199). -/
def homeDie (pa : Nat) : Nat := if pa < 0x10000000000 then pa / 2 ^ 37 else pa / 2 ^ 12 % 8

/-- An entry of level 0's initial middle table (23 R346 step 3). -/
def initialMiddle (i : Nat) : Nat :=
  if i < 6144 && i != 2047 then (i * 2 ^ 13) * 2 ^ 25 + (if i < 2048 then 0 else 1) * 2 ^ 7 + 0x1D else 0

/-- What a byte that nothing has written reads as: the initial map of 23 R346, and 0 elsewhere (log entry 1). -/
def resetByte (pa : Nat) : Byte :=
  if pa < 0x10000 then
    (if pa < 8 then BitVec.ofNat 8 ((0x10000 * 2 ^ 9 + 3) / 256 ^ pa) else 0)
  else if pa < 0x20000 then
    BitVec.ofNat 8 (initialMiddle ((pa - 0x10000) / 8) / 256 ^ (pa % 8))
  else 0

/-- The memory's canonical form. -/
def Memory.wf (m : List Host.Cell) : Bool := cellsWf resetByte m

/-! ## Homes -/

/-- The value of a byte at its home. -/
def State.home (s : State) (pa : Nat) : Byte := cellGet resetByte s.mem pa

/-- The number of bytes performed so far: the present home time. -/
def State.now (s : State) : Nat :=
  match s.hist with
  | [] => 0
  | e :: _ => e.time

/-- The poison unit of an address: a 128-byte line, or a 4-byte scratchpad word (10 R220). -/
def poisonUnit (pa : Nat) : Nat := if isSpad pa then pa - pa % 4 else pa - pa % 128

def State.poisonedAt (s : State) (pa : Nat) : Bool := s.poison.contains (poisonUnit pa)

def State.setPoison (s : State) (pa : Nat) : State :=
  if s.poisonedAt pa then s else { s with poison := poisonUnit pa :: s.poison }

def State.clearPoison (s : State) (pa : Nat) : State :=
  { s with poison := s.poison.filter (· != poisonUnit pa) }

/-- A function bit of READY that an address depends on (23 R347). -/
def functionOf (pa : Nat) : Option Nat :=
  if isSpad pa then none
  else match tierOf pa with
    | some 0 => some (1 + pa / 2 ^ 36)
    | some 1 => some 41
    | some 2 => some 0
    | some 3 => some (25 + peerPort pa)
    | _ => none

/-- The function of an address has failed: reads see poison, writes are discarded (23 R347). -/
def State.failedAt (s : State) (pa : Nat) : Bool :=
  match functionOf pa with
  | some f => bitAt s.mgmt.failed f
  | none => false

/-- An access to an address waits: its function is not ready, or its HBM controller island is off (23 R347, 05 R74). -/
def State.waitsAt (s : State) (pa : Nat) : Bool :=
  match functionOf pa with
  | some f => (f < 25 || f == 41) && !(bitAt s.mgmt.ready f) && !(bitAt s.mgmt.failed f) ||
      tierOf pa == some 0 && !(s.island (64 + pa / 2 ^ 36)).on
  | none => false

/-- A byte enters its home, with what it replaced (17 R287). -/
def State.record (s : State) (who : Agent) (kind : StoreKind) (chunk : Option (Nat × Nat)) (pa : Nat) (b : Byte) :
    State :=
  { s with
    mem := cellSet resetByte s.mem pa b
    hist := { time := s.now + 1, pa := pa, old := s.home pa, who := who, kind := kind, chunk := chunk } :: s.hist }

/-- A byte performs at its home. A whole-unit store clears poison (10 R220); a failed function discards (23 R347). -/
def State.perform (s : State) (who : Agent) (kind : StoreKind) (chunk : Option (Nat × Nat)) (whole : Bool)
    (pa : Nat) (b : Byte) : State :=
  if s.failedAt pa then s else (if whole then s.clearPoison pa else s).record who kind chunk pa b

/-! ## Agents, pairs and publications (17 R286, R288) -/

/-- The quad an agent of the package is placed at. -/
def Agent.quad : Agent → Option Nat
  | .thread k => some (coreOfKey (k % 2048) / 4)
  | .engine q => some q
  | _ => none

/-- The scope of a pair of agents: 0 quad, 1 die, 2 package, 3 system (17 R286). -/
def pairScope (a b : Agent) : Nat :=
  match a.quad, b.quad with
  | some x, some y => if x = y then 0 else if x / 8 = y / 8 then 1 else 2
  | _, _ => if a = .host || b = .host then 3
            else match a, b with
              | .peer _, _ => 3
              | _, .peer _ => 3
              | _, _ => 2

/-- The stores that an agent had published at a scope that covers `n`, before home time `t`: those its publications
carried, and its atomics and posted writes (17 R288, R292, R295). -/
def State.publishedBy (s : State) (a : Agent) (n t : Nat) : List Nat :=
  (s.hist.filter (fun e => e.who == a && e.kind != .plain && e.time < t)).map (·.time) ++
  (s.pubs.filter (fun p => p.who == a && n ≤ p.scope && p.at_ < t)).flatMap (·.stores)

/-- The store that performed at a home time. -/
def State.storeAt (s : State) (t : Nat) : Option Undo := s.hist.find? (fun e => e.time == t)

/-! ## What a thread reads -/

/-- An own copy chunk of a thread, which only `vacq` takes (17 R294). -/
def Thread.ownChunk (t : Thread) (e : Undo) : Bool :=
  match e.chunk with
  | some c => t.mine.contains c.1
  | none => false

/-- Whether a byte performed at its home is seen by a thread's plain reads: its own stores and atomics, and what an acquire
has taken since, or a load after an own atomic (06 R112; 17 R291, R294). -/
def Thread.sees (t : Thread) (key : Nat) (e : Undo) : Bool := e.who == .thread key || t.snap.contains e.time

/-- The latest value in home order that a viewer sees, with the store that wrote it. -/
def viewAt (sees : Undo → Bool) (pa : Nat) (cur : Byte) : List Undo → Byte × Option Undo
  | [] => (cur, none)
  | e :: r => if e.pa = pa then (if sees e then (cur, some e) else viewAt sees pa e.old r) else viewAt sees pa cur r

/-- The thread's latest pending store to a byte. -/
def pendAt (pa : Nat) (pend : List Pend) : Option Byte := (pend.find? (fun p => p.pa == pa)).map (·.val)

/-- Bytes kept outside the snapshot: host and peer tiers (17 R291). A store to one is a send (17 R296). -/
def uncachedPa (pa : Nat) : Bool := !(isSpad pa) && (tierOf pa == some 2 || tierOf pa == some 3)

/-- A plain read of one byte by a thread: its value, and the store of another agent it returns. -/
def State.viewByte (s : State) (key pa : Nat) : Byte × Option Undo :=
  let t := s.thread key
  match pendAt pa t.pend with
  | some b => (b, none)
  | none =>
    if uncachedPa pa then viewAt (fun _ => true) pa (s.home pa) s.hist
    else viewAt (t.sees key) pa (s.home pa) s.hist

/-- The counts of a barrier or a ring that a read of a byte returns, besides the store it reads: those made at the byte
since a store that counts nothing (18 R305, 11 R240). For a barrier's PHASE these are its advances, and `arrived` finds
the arrivals counted toward them. -/
def countsBack (pa : Nat) : List Undo → List Undo
  | [] => []
  | e :: r =>
    if e.pa = pa then
      match e.kind with
      | .counted => e :: countsBack pa r
      | .atomic => countsBack pa r
      | _ => []
    else countsBack pa r

/-- The home time of the store that gave a byte its first value before its counts, 0 where none did. -/
def laidOut (pa : Nat) (l : List Undo) : Nat :=
  ((l.find? (fun e => e.pa == pa && e.kind != .counted && e.kind != .atomic)).map (·.time)).getD 0

/-- The stores observed by a read that returns `e` of its byte: `e`, the counts behind it, and, at a barrier's PHASE,
the arrivals counted toward each advance it includes, whose ARRIVED that advance writes four bytes later; those of an
earlier use of the bytes, before PHASE was last laid out, are not among them (18 R305; log entry 70). -/
def State.observed (s : State) (e : Undo) : List Nat :=
  let upTo (t : Nat) : List Undo := s.hist.filter (fun x => x.time ≤ t)
  let back := countsBack e.pa (upTo e.time)
  let arrivals := if e.pa % 32 ≠ 0 then []
    else back.flatMap (fun b =>
      (countsBack (e.pa + 8) (upTo (b.time + 4))).filter (fun x => laidOut e.pa (upTo e.time) < x.time))
  e.time :: ((back ++ arrivals).map (·.time)).eraseDups

/-- Thread `key` observes a store (17 R290). -/
def State.observe (s : State) (key : Nat) (e : Option Undo) : State :=
  match e with
  | none => s
  | some e =>
    if e.who = .thread key && e.kind == .plain then s
    else s.modThread key (fun t => { t with seen := (s.observed e).filter (fun x => !(t.seen.contains x)) ++ t.seen })

/-- A plain read of bytes by a thread. -/
def State.readBytes (s : State) (key : Nat) : List Nat → List Byte × State
  | [] => ([], s)
  | pa :: r =>
    let v := s.viewByte key pa
    let q := (s.observe key v.2).readBytes key r
    (v.1 :: q.1, q.2)

/-- Whether a store is the last byte of its action in the home order: every byte of a plain store performs by itself, those
of an atomic or a posted write together (17 R287, R292). -/
def Undo.endsAction (hist : List Undo) (e : Undo) : Bool :=
  e.kind == .plain || !(hist.any (fun f => f.time == e.time + 1 && f.who == e.who && f.kind == e.kind && f.pa == e.pa + 1))

/-- The thread's own atomic writes among some bytes that no plain load of it has read since. -/
def State.reloads (s : State) (key : Nat) (pas : List Nat) : List Undo :=
  s.hist.filter (fun e => (s.thread key).reload.contains e.time && pas.contains e.pa)

/-- What a plain load does to bytes that the thread's own atomics have written and no plain load of it has read since: the
load goes to their homes, and the value it finds there, the atomic's or a later one up to a free point of the home order,
stands in the snapshot from then on (06 R112; 17 R291; log entry 78). -/
def State.reread (s : State) (key : Nat) (pas : List Nat) : State :=
  let mine := s.reloads key pas
  if mine.isEmpty then s
  else
    let t := s.thread key
    let first := (mine.map (·.time)).foldl min s.now
    let cuts := 0 :: (s.hist.filter (fun e => first < e.time && e.endsAction s.hist)).map (·.time)
    let cut := cuts.getD (Config.rereads s.fresh % cuts.length) 0
    let later := (s.hist.filter (fun e => e.time ≤ cut && e.who != .thread key && !(t.ownChunk e) &&
      mine.any (fun m => m.pa == e.pa && m.time < e.time))).map (·.time)
    (s.modThread key (fun t => { t with
      snap := later.filter (fun x => !(t.snap.contains x)) ++ t.snap
      reload := t.reload.filter (fun x => !(mine.any (fun m => m.time == x))) })).bump

/-- The store that performed last on a byte. -/
def State.lastStore (s : State) (pa : Nat) : Option Undo := s.hist.find? (fun e => e.pa == pa)

/-- One byte read at its home by a thread, with the store it returns. A send of the thread's own to the byte is on its
way there before it, so the read returns no older value (17 R291). -/
def State.homeByte (s : State) (key pa : Nat) : Byte × Option Undo :=
  match (if uncachedPa pa then pendAt pa (s.thread key).pend else none) with
  | some b => (b, none)
  | none => (s.home pa, s.lastStore pa)

/-- A read of bytes at their homes, with the observations it makes. -/
def State.readHome (s : State) (key : Nat) : List Nat → List Byte × State
  | [] => ([], s)
  | pa :: r =>
    let v := s.homeByte key pa
    let q := (s.observe key v.2).readHome key r
    (v.1 :: q.1, q.2)

/-! ## Poison and the L1 (10 R209, R219, R220) -/

/-- The core whose L1 holds an address for a core: its own, or the slice of a fused quad (10 R209). -/
def State.l1Of (s : State) (core pa : Nat) : Nat :=
  if s.crews.any (fun c => c.fuse && c.quad == core / 4) then core / 4 * 4 + pa / 128 % 4 else core

/-- Whether the line of an address is poisoned in the L1 that serves a thread. -/
def State.l1PoisonedAt (s : State) (key pa : Nat) : Bool :=
  !(isSpad pa) && slotOfKey key ≤ 4 && (s.coreAt (s.l1Of (coreOfKey key % 256) pa)).l1Poison.contains (poisonUnit pa)

/-- Whether the line of an outside byte answers with poison (10 R219). -/
def State.hostPoisoned (s : State) (pa : Nat) : Bool := uncachedPa pa && s.hostPoison.contains (pa / 64)

/-- A home whose read returns poison: a poisoned unit, a failed memory function, or an outside line that answers with
poison. A peer port that has failed is not ready, which is a link error (23 R344, R347). -/
def State.poisonHome (s : State) (pa : Nat) : Bool :=
  s.poisonedAt pa || (s.failedAt pa && tierOf pa != some 3) || s.hostPoisoned pa

/-- Whether a thread's read of a byte meets poison; a pending store of its own over the whole unit hides it. -/
def State.poisonFor (s : State) (key pa : Nat) : Bool :=
  (s.failedAt pa && tierOf pa != some 3) ||
  ((s.poisonHome pa || s.l1PoisonedAt key pa) && !((s.thread key).pend.any (fun p => p.pa == pa && p.whole)))

/-- Every saved thread of the package. -/
def State.savedThreads (s : State) : List Thread :=
  s.crews.flatMap (·.saved) ++ s.ctxs.flatMap (fun c => c.2.launches.flatMap (fun l => l.saved.flatMap (·.threads)))

/-- What holds pending stores, with the key of its stores: every thread on a core, and every saved thread, whose key
tells the core and the slot on which it stored. -/
def State.storers (s : State) : List (Nat × Thread) :=
  s.threads ++ (s.savedThreads.filter (fun t => t.alias_ != 0)).map (fun t => (t.alias_, t))

/-- Whether two keys store through the same L1, for an address (10 R208, R209). -/
def State.sharesL1 (s : State) (pa a b : Nat) : Bool := s.l1Of (coreOfKey a % 256) pa == s.l1Of (coreOfKey b % 256) pa

/-- Whether the line of an address holds bytes in a thread's L1 that have not reached their homes. -/
def State.dirtyLine (s : State) (key pa : Nat) : Bool :=
  s.storers.any (fun x => s.sharesL1 pa key x.1 &&
    x.2.pend.any (fun p => !p.home && poisonUnit p.pa == poisonUnit pa))

/-- Whether an atomic of a thread meets poison at the home, once the thread's own dirty bytes of the line have reached
it: the atomic takes the line out of the L1, which writes back what is dirty there, poisoned with it (06 R112; 10
R219). A FAILED function discards those bytes, so what is read there stays poisoned (23 R347). -/
def State.poisonAtHome (s : State) (key pa : Nat) : Bool :=
  (s.failedAt pa && tierOf pa != some 3) ||
  (s.poisonHome pa && !((s.thread key).pend.any (fun p => p.pa == pa && p.whole && !p.home))) ||
  (s.l1PoisonedAt key pa && s.dirtyLine key pa)

/-- A line is poisoned no longer in an L1. -/
def State.clearL1 (s : State) (key pa : Nat) : State :=
  if s.l1PoisonedAt key pa then
    s.modCore (s.l1Of (coreOfKey key % 256) pa) (fun c => { c with l1Poison := c.l1Poison.filter (· != poisonUnit pa) })
  else s

/-! ## Stores, boundaries and atomics -/

/-- A context's strengthening mode for a thread (17 R303). -/
def State.rev1 (s : State) (key : Nat) : Bool := (s.ctxAt (s.thread key).ctx).rev1

/-- The pending byte that a store of a thread makes. -/
def State.pendOf (s : State) (key pa : Nat) (b : Byte) (whole : Bool) : Pend :=
  { pa := pa, val := b, whole := whole, behind := (s.thread key).markers.length
    ordered := s.rev1 key && uncachedPa pa }

/-- A byte becomes a pending store of a thread (17 R288); one over its whole line clears the L1's poison (10 R220). -/
def State.pendByte (s : State) (key pa : Nat) (b : Byte) (whole : Bool) : State :=
  (if whole then s.clearL1 key pa else s).modThread key (fun t => { t with pend := s.pendOf key pa b whole :: t.pend })

/-- A pending byte of a thread performs at its home; one from a line that the L1 holds poisoned poisons it there
(10 R219). -/
def State.writeBack (s : State) (key : Nat) (p : Pend) : State :=
  let bad := s.l1PoisonedAt key p.pa
  let s := s.perform (.thread key) .plain none (p.whole && !bad) p.pa p.val
  if bad && !(s.failedAt p.pa) then s.setPoison p.pa else s

/-- Pending bytes, oldest first, perform at their homes; those that have performed already do not again. -/
def State.drain (s : State) (key : Nat) : List Pend → State
  | [] => s
  | p :: r => (if p.home then s else s.writeBack key p).drain key r

/-- Host copies of lines that a publication of scope s publishes are invalidated, those read after the stores had performed
too (17 R295, 23 R343). -/
def State.invalidateHost (s : State) (stores : List Nat) : State :=
  { s with snoop := s.snoop.filter (fun l =>
      !(s.hist.any (fun e => e.pa / 64 == l.1 && stores.contains e.time))) }

/-- The stores that a boundary of a thread publishes: its own and those it carries (17 R288). -/
def State.publishes (s : State) (key : Nat) : List Nat :=
  (s.hist.filter (fun e => e.who == .thread key)).map (·.time) ++ (s.thread key).carry

/-- A publication of an agent is complete. -/
def State.published (s : State) (who : Agent) (scope : Nat) (stores : List Nat) : State :=
  let s := { s with pubs := { who := who, scope := scope, at_ := s.now, stores := stores } :: s.pubs }
  if scope = 3 then s.invalidateHost stores else s

/-- Whether a boundary of a scope performs a pending store: a send performs for scope s alone (17 R296). -/
def boundaryPerforms (scope : Nat) (p : Pend) : Bool := scope == 3 || !(uncachedPa p.pa)

/-- What a boundary leaves pending: a send that a narrower scope does not order is released to perform (17 R296). -/
def Pend.release (p : Pend) : Pend := { p with released := true }

/-- A publishing boundary (17 R288): the pending stores perform, and the publication is complete. -/
def State.publish (s : State) (key scope : Nat) : State :=
  let t := s.thread key
  let left := (t.pend.filter (fun p => !(boundaryPerforms scope p))).map Pend.release
  let s := (s.setThread key { t with pend := left }).drain key (t.pend.reverse.filter (boundaryPerforms scope))
  s.published (.thread key) scope (s.publishes key)

/-- The home times of a thread's stores that have reached their homes though a boundary still to come is older than
they: of each byte the latest, as many as there are pending stores of that kind to it (17 R287, R300). -/
def youngTimes (key : Nat) : List Nat → List Undo → List Nat
  | _, [] => []
  | pas, e :: r =>
    if e.who == .thread key && pas.contains e.pa then e.time :: youngTimes key (pas.erase e.pa) r
    else youngTimes key pas r

/-- The publication of a thread's barrier marker of a number, from the oldest: of the stores older than it alone
(17 R288, R300). -/
def State.publishOlder (s : State) (key scope i : Nat) : State :=
  let t := s.thread key
  let due (p : Pend) : Bool := p.behind ≤ i && boundaryPerforms scope p
  let left := (t.pend.filter (fun p => !(due p))).map (fun p => if p.behind ≤ i then p.release else p)
  let young := youngTimes key ((t.pend.filter (fun p => p.home && i < p.behind)).map (·.pa)) s.hist
  let s := (s.setThread key { t with pend := left }).drain key (t.pend.reverse.filter due)
  s.published (.thread key) scope ((s.publishes key).filter (fun x => !(young.contains x)))

/-- That publication, made once. -/
def State.publishMarkerAt (s : State) (key i : Nat) : State :=
  match (s.thread key).markers[i]? with
  | none => s
  | some m =>
    if m.published then s
    else (s.publishOlder key m.scope i).modThread key (fun t =>
      { t with markers := t.markers.set i { m with published := true } })

/-- The publications of a thread's oldest markers, each before the next (17 R288). -/
def State.publishMarkers (s : State) (key : Nat) : Nat → State
  | 0 => s
  | n + 1 => (s.publishMarkers key n).publishMarkerAt key n

/-- What a snapshot takes: the stores required, those freely taken, and whatever each of them requires in turn, found
along the home order from its end (log entry 9). The first list is the stores taken, the second those that 17 R290
requires. -/
def State.takes (s : State) (me : Agent) (free : Undo → Bool) : List Nat → List Undo → List Nat × List Nat
  | _, [] => ([], [])
  | need, e :: r =>
    let due := need.contains e.time
    if due || free e then
      let q := s.takes me free (s.publishedBy e.who (pairScope e.who me) e.time ++ need) r
      (e.time :: q.1, if due then e.time :: q.2 else q.2)
    else s.takes me free need r

/-- The stores that an acquire of a scope must take: what the agents observed had published before (17 R290). -/
def State.needs (s : State) (key scope : Nat) : List Nat :=
  (s.thread key).seen.flatMap (fun x =>
    match s.storeAt x with
    | some e =>
      let n := pairScope e.who (.thread key)
      if n ≤ scope then s.publishedBy e.who n e.time else []
    | none => [])

/-- An acquiring boundary (17 R289, R290): for each location the snapshot holds what it held or what is required, or any
later store that has reached the home. `must` lists stores that the boundary itself requires, `also` stores that it
takes without requiring them. -/
def State.acquireTaking (s : State) (key scope : Nat) (must also : List Nat) : State :=
  let t := s.thread key
  let me := Agent.thread key
  let order := s.hist.filter (fun e => e.who != me && !(t.ownChunk e))
  let q := s.takes me (fun e => Config.acquireTakes s.fresh e.time || also.contains e.time) (must ++ s.needs key scope) order
  (s.setThread key { t with snap := q.1.filter (fun x => !(t.snap.contains x)) ++ t.snap
                            carry := q.2.filter (fun x => !(t.carry.contains x)) ++ t.carry }).bump

/-- An acquiring boundary that requires some stores itself. -/
def State.acquireWith (s : State) (key scope : Nat) (must : List Nat) : State := s.acquireTaking key scope must []

def State.acquire (s : State) (key scope : Nat) : State := s.acquireWith key scope []

/-- The effect of `phase` (17 R297, 06 R95). -/
def State.phase (s : State) (key scope : Nat) : State :=
  let s := (s.publish key scope).acquire key scope
  s.modThread key (fun t => { t with phaseAt := s.now })

/-- The pending bytes that reach their homes when those of some addresses do: a store over a whole unit clears its
poison, so its bytes go together (10 R220). -/
def together (pend : List Pend) (pas : List Nat) (p : Pend) : Bool :=
  pas.contains p.pa || pend.any (fun q => q.whole && poisonUnit q.pa == poisonUnit p.pa && pas.contains q.pa)

/-- A send that waits for the publication of a barrier marker of scope s older than it (17 R296). -/
def Thread.holdsSend (t : Thread) (p : Pend) : Bool :=
  uncachedPa p.pa && (t.markers.take p.behind).any (fun m => m.scope == 3 && !m.published)

/-- Pending bytes, newest first, each with whether it reaches its home: those of some addresses, but for a send that is
held back, and with a send of the strengthening mode every older send (17 R303). -/
def Thread.due (t : Thread) (pas : List Nat) : Bool → List Pend → List (Bool × Pend)
  | _, [] => []
  | pull, p :: r =>
    let d := (together t.pend pas p || (pull && uncachedPa p.pa)) && !(t.holdsSend p)
    (d, p) :: t.due pas (pull || (d && uncachedPa p.pa && p.ordered)) r

/-- The thread's own pending bytes among some addresses reach their homes (17 R287). They stay pending in its view; a
send that has performed is pending no longer, for its home is where the thread reads it (17 R291; log entry 10). A send
that may still come before a `phase.s` leaves no older copy with the host of what that boundary will publish (23
R343). -/
def State.settle (s : State) (key : Nat) (pas : List Nat) : State :=
  let t := s.thread key
  let l := t.due pas false t.pend
  let s := if l.any (fun x => x.1 && uncachedPa x.2.pa && !x.2.released) then s.invalidateHost (s.publishes key) else s
  let pend := l.filterMap (fun x =>
    if x.1 then (if uncachedPa x.2.pa then none else some { x.2 with home := true }) else some x.2)
  (s.setThread key { t with pend := pend }).drain key ((l.filter (·.1)).reverse.map (·.2))

/-- The markers whose publications a thread's sends among some addresses wait for: those older than the youngest such
send. -/
def Thread.markersBefore (t : Thread) (pas : List Nat) : Nat :=
  (t.pend.filter (fun p => t.holdsSend p && together t.pend pas p)).foldl (fun n p => max n p.behind) 0

/-- Pending bytes reach their homes for something that cannot wait for the thread's markers to fire, a shoot-down or a
younger store of its own: what the sends among them wait for is published first (10 R217; 17 R296, R303). -/
def State.settleNow (s : State) (key : Nat) (pas : List Nat) : State :=
  (s.publishMarkers key ((s.thread key).markersBefore pas)).settle key pas

/-- Every pending byte of a thread reaches its home. -/
def State.settleAll (s : State) (key : Nat) : State := s.settle key ((s.thread key).pend.map (·.pa))

/-- A thread's stores in the home order under another key: those of a task that has ended or is saved no longer count as
the core slot's own. -/
def State.renameStores (s : State) (key new : Nat) : State :=
  let f (a : Agent) : Agent := if a = .thread key then .thread new else a
  { s with hist := s.hist.map (fun e => { e with who := f e.who }), pubs := s.pubs.map (fun p => { p with who := f p.who }) }

/-- Sends of ended tasks, newest first, each with whether it performs: those that a condition names, and with a send of
the strengthening mode the older ones under its key (17 R303). -/
def dueSends (due : Nat × Pend → Bool) : List Nat → List (Nat × Pend) → List (Bool × (Nat × Pend))
  | _, [] => []
  | keys, x :: r =>
    let d := due x || keys.contains x.1
    (d, x) :: dueSends due (if d && x.2.ordered then x.1 :: keys else keys) r

/-- Sends of ended tasks perform, those that a condition names (17 R296; log entry 69). -/
def State.sendWhere (s : State) (due : Nat × Pend → Bool) : State :=
  let l := (dueSends due [] s.sends.reverse).reverse
  ((l.filter (·.1)).map (·.2)).foldl (fun s x => s.writeBack x.1 x.2)
    { s with sends := (l.filter (fun x => !x.1)).map (·.2) }

/-- The sends under a key among some addresses perform. -/
def State.performSends (s : State) (key : Nat) (pas : List Nat) : State :=
  s.sendWhere (fun x => x.1 == key && pas.contains x.2.pa)

/-- A store published at scope s as it performs: an atomic, and a write of the host or a peer (17 R295). The device's
own writes are published at package scope (04 R56, 19 R312, 22 R338). -/
def systemScope (who : Agent) (kind : StoreKind) : Bool :=
  match kind with
  | .plain => false
  | .posted => match who with
    | .host => true
    | .peer _ => true
    | _ => false
  | _ => true

/-- Bytes written at their homes by one atomic action of an agent (17 R292). What is published at scope s as it
performs leaves no older copy with the host; a narrower scope invalidates nothing (17 R295, 23 R343). -/
def State.writeHome (s : State) (who : Agent) (kind : StoreKind) (whole : Bool) : List Nat → List Byte → State
  | pa :: ps, b :: bs =>
    let t := s.perform who kind none whole pa b
    (if systemScope who kind then t.invalidateHost [s.now + 1] else t).writeHome who kind whole ps bs
  | _, _ => s

/-- A thread's atomic write of bytes at their homes: its pending stores there have performed, and the atomic is its
latest store to them (06 R112, 17 R292). The thread's next plain load of a byte that an L1 can hold, or of the scratchpad,
reads it at its home again. -/
def State.writeAtomic (s : State) (key : Nat) (kind : StoreKind) (whole : Bool) (pas : List Nat) (l : List Byte) : State :=
  let u := (s.modThread key (fun t => { t with pend := t.pend.filter (fun p => !(pas.contains p.pa)) })).writeHome
    (.thread key) kind whole pas l
  let new := (u.hist.take (u.hist.length - s.hist.length)).filter (fun e => !(uncachedPa e.pa))
  u.modThread key (fun t => { t with reload := new.map (·.time) ++ t.reload })

end Sys2Proof.Machine
end

