-- ==== Sys2Proof/Machine/Translate.lean ====
section
/-! DEFINITION. Maps, composed translation, the scratchpad window, and the checks of an access
(06 R94, R110; 10 R198 to R207, R215; 11 R222). -/

namespace Sys2Proof.Machine

/-! ## Addresses -/

/-- Bits [63:55] equal bit 54 (06 R110 step 1). -/
def canonical (a : Word) : Bool := a.toNat / 2 ^ 54 == 0 || a.toNat / 2 ^ 54 == 1023

/-- The low 55 bits of an address: what the maps index. -/
def va55 (a : Word) : Nat := a.toNat % 2 ^ 55

/-- VA[54:16] (10 R203). -/
def vpnOf (a : Word) : Nat := va55 a / 2 ^ 16

def windowBase : Nat := 0x007FFFFFC0000000

/-- The scratchpad window range (10 R198). -/
def inWindow (a : Word) : Bool := windowBase ≤ a.toNat && a.toNat ≤ 0x007FFFFFC2FFFFFF

/-! ## Walks -/

/-- A fault of one access: its cause, the faulting address if it has one, and the level of the map that raised it, if
one did (19 R307). -/
structure Flt where
  cause : Nat
  va : Option Word
  map : Option Nat
  /-- The access met poison that came with host data (10 R219). -/
  host : Bool := false
  deriving DecidableEq, Repr

/-- Why an access does not perform: it faults, or it waits for a function or an island (23 R347, 05 R74). -/
inductive Stop where
  | flt (f : Flt)
  | wait
  deriving DecidableEq, Repr

/-- A walk that found no translation: the level whose map lacks the entry, the memory of a table not ready, or a table's
entry that cannot be read: the cause, 0x04 for poison and 0x05 for a link error, and whether host data brought the poison
(10 R219, R220; 23 R344, R347). -/
inductive Miss where
  | at_ (level : Nat)
  | wait
  | unread (cause : Nat) (host : Bool)
  deriving DecidableEq, Repr

/-- The fields of a map entry (10 R201). -/
structure MapEntry where
  v : Bool
  t : Bool
  r : Bool
  w : Bool
  x : Bool
  cache : Nat
  tier : Nat
  key : Nat
  /-- The output, bits [54:16] in place. -/
  out : Nat
  deriving DecidableEq, Repr

def MapEntry.ofNat (e : Nat) : MapEntry :=
  { v := bitAt e 0, t := bitAt e 1, r := bitAt e 2, w := bitAt e 3, x := bitAt e 4, cache := bitsAt e 5 2,
    tier := bitsAt e 7 2, key := bitsAt e 9 16, out := bitsAt e 25 39 * 2 ^ 16 }

/-- Whether an entry with V = 1 is malformed (10 R202; 23 R348 for the tiers of features not accepted). `table` is 0
for the top table, 1 for a middle table, 2 for a bottom table. -/
def MapEntry.malformed (e : MapEntry) (level table features : Nat) : Bool :=
  let size := if table = 1 then 2 ^ 29 else 2 ^ 16
  (e.t && table == 2) || (!e.t && table == 0) ||
  (!e.t && table == 1 && e.out % 2 ^ 29 != 0) ||
  e.cache == 3 ||
  (e.t && (e.key != 0 || e.cache != 0 || e.r || e.w || e.x || e.tier != 0)) ||
  (level != 0 && e.tier != 0) ||
  (level == 0 &&
    (2 ^ 52 ≤ e.out || tierOf e.out == none || inReserve e.out ||
     (!e.t && (tierOf e.out != some e.tier || inReserve (e.out + size - 1) ||
        (e.tier == 3 && !(bitAt features 2)) || (e.tier == 1 && !(bitAt features 3))))))

/-- Eight bytes at their homes, as a number. -/
def State.home8 (s : State) (pa : Nat) : Nat := leNat ((List.range 8).map (fun i => s.home (pa + i)))

/-- The permissions and attributes of one leaf over what lies above it (10 R203). -/
def composeLeaf (e : MapEntry) (level : Nat) (large : Bool) (up : Trans) : Trans :=
  { pa := up.pa
    rDeny := if e.r then up.rDeny else some level
    wDeny := if e.w then up.wDeny else some level
    xDeny := if e.x then up.xDeny else some level
    tier := if level = 0 then e.tier else up.tier
    cache := if e.cache = 1 || up.cache = 1 then 1 else if e.cache = 2 || up.cache = 2 then 2 else 0
    key := if e.key ≠ 0 then e.key else up.key
    large := large && up.large }

/-- The outside answers an access with a link error, or the port is not ready (06 R110 step 7, 23 R344). -/
def State.linkError (s : State) (pa : Nat) : Bool :=
  match tierOf pa with
  | some 2 => s.hostErr.contains (pa / 2 ^ 16)
  | some 3 => s.hostErr.contains (pa / 2 ^ 16) || !(bitAt s.mgmt.ready (25 + peerPort pa)) ||
      bitAt s.mgmt.failed (25 + peerPort pa)
  | _ => false

/-- The entry of a table at an address of the level above; one that reads poisoned, or whose link answers with an error, is
none (log entry 87). -/
def tableEntry (s : State) (up : Nat → Except Miss Trans) (base idx : Nat) : Except Miss MapEntry :=
  match up (base + 8 * idx) with
  | .error m => .error m
  | .ok t =>
    if s.waitsAt t.pa then .error .wait
    else if s.poisonHome t.pa then .error (.unread 4 (s.hostPoisoned t.pa))
    else if s.linkError t.pa then .error (.unread 5 false)
    else .ok (MapEntry.ofNat (s.home8 t.pa))

/-- A translation that a walk under a feature word could have composed: no leaf of a feature not accepted (23 R348). -/
def Trans.allowed (t : Trans) (features : Nat) : Bool :=
  (t.tier != 3 || bitAt features 2) && (t.tier != 1 || bitAt features 3)

/-- The walk of one map: three tables whose addresses, and whose output, the level above translates. -/
def walkMap (s : State) (features level root a : Nat) (up : Nat → Except Miss Trans) : Except Miss Trans :=
  match tableEntry s up root (bitsAt a 42 13) with
  | .error m => .error m
  | .ok e0 =>
    if !e0.v || e0.malformed level 0 features then .error (.at_ level)
    else match tableEntry s up e0.out (bitsAt a 29 13) with
      | .error m => .error m
      | .ok e1 =>
        if !e1.v || e1.malformed level 1 features then .error (.at_ level)
        else if !e1.t then
          match up (e1.out + a % 2 ^ 29) with
          | .error m => .error m
          | .ok t => .ok (composeLeaf e1 level true t)
        else match tableEntry s up e1.out (bitsAt a 16 13) with
          | .error m => .error m
          | .ok e2 =>
            if !e2.v || e2.malformed level 2 features then .error (.at_ level)
            else match up (e2.out + a % 2 ^ 16) with
              | .error m => .error m
              | .ok t => .ok (composeLeaf e2 level false t)

/-- The walk through the maps of a context, their roots deepest first. An output above level 0 is sign-extended
(10 R201), so it is never an address of the window range; the low 55 bits say all of it. -/
def walk (s : State) (features : Nat) : List Nat → Nat → Except Miss Trans
  | [], a => .ok { pa := a, rDeny := none, wDeny := none, xDeny := none, tier := 0, cache := 0, key := 0, large := true }
  | root :: rest, a =>
    walkMap s features rest.length root (a % 2 ^ 55) (walk s features rest)

/-- The roots of a context's maps, deepest first. -/
def State.mapRoots (s : State) (ctx : Nat) : List Nat := (s.path ctx).map (fun c => (s.ctxAt c).maproot)

/-- The features in force for a context's accesses outside a task. -/
def State.features (s : State) : Nat := s.mgmt.accepted

/-- A fresh composed translation of an address in a context's space (10 R203). -/
def freshTrans (s : State) (ctx features : Nat) (va : Word) : Except Miss Trans :=
  if canonical va then walk s features (s.mapRoots ctx) (va55 va) else .error (.at_ (s.ctxAt ctx).depth)

/-- The cached composed translations of a canonical address that differ from the maps as they stand, but for leaves that
the feature word in force makes malformed (10 R215, 23 R348). -/
def staleTrans (s : State) (ctx features : Nat) (va : Word) (fresh : Except Miss Trans) : List Trans :=
  if canonical va then
    ((s.tlb.filter (fun e => e.ctx == ctx && e.vpn == vpnOf va && e.tr.allowed features)).map
      (fun e => { e.tr with pa := e.tr.pa + va55 va % 2 ^ 16 })).filter
      (fun t => match fresh with
        | .ok u => u != t
        | .error _ => true)
  else []

/-- The translation an access uses: the maps as they stand, or any that is cached of an older entry. -/
def transOf (s : State) (ctx features : Nat) (va : Word) : Except Miss Trans :=
  let f := freshTrans s ctx features va
  match staleTrans s ctx features va f with
  | [] => f
  | l => match l[Config.cachedPick s.fresh va.toNat]? with
    | some t => .ok t
    | none => f

/-! ## The scratchpad -/

/-- The placed offset of a local-window offset under a swizzle register (10 R207). -/
def swizzle (swz : Word) (o : Nat) : Nat :=
  let k := bitsAt swz.toNat 26 3
  let row := o / 1024
  if k = 0 || row < bitsAt swz.toNat 13 13 || bitsAt swz.toNat 0 13 < row then o
  else row * 1024 + Nat.xor (o / 4 % 256) (row % 2 ^ k) * 4 + o % 4

/-- The crew region on a core: offset and number of tasks. -/
def State.regionOf (s : State) (crew core : Nat) : Option (Nat × Nat) :=
  ((s.crews.find? (fun c => c.id == crew)).bind (fun c => c.regions.find? (fun r => r.1 == core))).map (·.2)

/-- Where a byte of the window range lies, if it is in bounds (10 R204). -/
def spadByte (s : State) (e : SpadEnv) (a : Nat) : Option Nat :=
  let o := a - windowBase
  if o < 0x800000 then (if o < e.size then some (spadPa e.core (e.base + swizzle e.swz o)) else none)
  else if o < 0x1000000 then none
  else
    let n := (o - 0x1000000) / 0x800000
    let core := e.core / 4 * 4 + n
    match s.regionOf e.crew core with
    | none => none
    | some (off, tasks) =>
      let q := (o - 0x1000000) % 0x800000
      if n < 4 && q < tasks * e.size then some (spadPa core (off + q)) else none

/-! ## The checks of an access -/

/-- Who makes an access: the thread that reads and writes, its context, its features and its scratchpad. -/
structure Env where
  key : Nat
  ctx : Nat
  features : Nat
  spad : Option SpadEnv
  deriving DecidableEq, Repr

/-- The scratchpad of a thread: its task's allotment, none on a supervisor thread. -/
def Thread.spadEnv (t : Thread) (key : Nat) : Option SpadEnv :=
  t.task.map (fun k => { core := coreOfKey key, crew := k.crewId, base := k.spBase, size := k.spad, swz := t.swz })

/-- The environment of a thread. -/
def State.env (s : State) (key : Nat) : Env :=
  let t := s.thread key
  { key := key, ctx := t.ctx, features := (t.task.map (·.features)).getD s.features, spad := t.spadEnv key }

/-- Where an access lands: its bytes at their homes, the tier (4 for the scratchpad), the page key and cacheability. -/
structure Place where
  pas : List Nat
  tier : Nat
  key : Nat
  cache : Nat
  deriving DecidableEq, Repr

/-- What an access needs. -/
inductive Need where
  | read | write | both | fetch
  deriving DecidableEq, Repr

/-- The level that denies what an access needs, if one does. -/
def Need.denied (n : Need) (t : Trans) : Option Nat :=
  match n with
  | .read => t.rDeny
  | .write => t.wDeny
  | .both => match t.rDeny, t.wDeny with
    | some a, some b => some (max a b)
    | some a, none => some a
    | none, d => d
  | .fetch => t.xDeny

/-- Steps 1 to 5 of 11 R222 and 06 R110 for an element of `n` bytes aligned to `align`; then the wait for a function
that is not ready. -/
def locate (s : State) (e : Env) (need : Need) (va : Word) (n align : Nat) : Except Stop Place :=
  if !(canonical va || inWindow va) then .error (.flt { cause := 1, va := some va, map := none })
  else if va.toNat % align != 0 then .error (.flt { cause := 3, va := some va, map := none })
  else if inWindow va then
    match e.spad with
    | none => .error (.flt { cause := 8, va := some va, map := none })
    | some sp =>
      match (List.range n).mapM (fun i => spadByte s sp (va.toNat + i)) with
      | none => .error (.flt { cause := 8, va := some va, map := none })
      | some pas => .ok { pas := pas, tier := 4, key := 0, cache := 0 }
  else
    match transOf s e.ctx e.features va with
    | .error .wait => .error .wait
    | .error (.at_ m) => .error (.flt { cause := 1, va := some va, map := some m })
    | .error (.unread c h) => .error (.flt { cause := c, va := some va, map := none, host := h })
    | .ok t =>
      match need.denied t with
      | some m => .error (.flt { cause := 2, va := some va, map := some m })
      | none =>
        if s.waitsAt t.pa then .error .wait
        else .ok { pas := (List.range n).map (fun i => t.pa + i), tier := t.tier, key := t.key, cache := t.cache }

/-- The fault of an access that meets poison: whether host data brought it is remembered, for it is counted (10
R219). -/
def State.poisonFlt (s : State) (va : Word) (pas : List Nat) : Flt :=
  { cause := 4, va := some va, map := none, host := pas.any s.hostPoisoned }

/-- Step 6: a read finds its data unpoisoned. -/
def checkPoison (s : State) (e : Env) (va : Word) (p : Place) : Except Stop Unit :=
  if p.pas.any (s.poisonFor e.key) then .error (.flt (s.poisonFlt va p.pas)) else .ok ()

/-- The last step: a host or peer access completes without a link error. -/
def checkLink (s : State) (va : Word) (p : Place) : Except Stop Unit :=
  if p.pas.any s.linkError then .error (.flt { cause := 5, va := some va, map := none }) else .ok ()

/-- The checks of a read at the home, of some bytes of an access: their poison there, and their link. -/
def checkHome (s : State) (va : Word) (pas : List Nat) : Except Stop Unit :=
  if pas.any s.poisonHome then .error (.flt (s.poisonFlt va pas))
  else if pas.any s.linkError then .error (.flt { cause := 5, va := some va, map := none })
  else .ok ()

/-- Every check of a plain read. -/
def checkRead (s : State) (e : Env) (va : Word) (n align : Nat) : Except Stop Place := do
  let p ← locate s e .read va n align
  checkPoison s e va p
  checkLink s va p
  .ok p

/-- Every check of a plain write. -/
def checkWrite (s : State) (e : Env) (va : Word) (n align : Nat) : Except Stop Place := do
  let p ← locate s e .write va n align
  checkLink s va p
  .ok p

/-- The poison units that a store instruction covers whole: 128-byte lines, or scratchpad words (10 R220). -/
def wholeIn (pas : List Nat) (pa : Nat) : Bool :=
  let u := poisonUnit pa
  (List.range (if isSpad pa then 4 else 128)).all (fun i => pas.contains (u + i))

/-- Whether the L1 that serves a thread may serve a byte under the strengthening mode: its line was filled no more than
1,024 cycles before (17 R303). -/
def State.l1Holds (s : State) (key pa : Nat) : Bool :=
  let core := s.l1Of (coreOfKey key) pa
  match Map.find (pa / 128) (s.coreAt core).l1Fills with
  | some c => s.cycle core ≤ c + 1024
  | none => false

/-- The line of a byte is filled now. -/
def State.fillL1 (s : State) (key : Nat) (pa : Nat) : State :=
  let core := s.l1Of (coreOfKey key) pa
  s.modCore core (fun c => { c with l1Fills := Map.put (pa / 128) (s.cycle core) c.l1Fills })

/-- Whether a store of the home order has been published at a scope that covers the package. -/
def State.isPublished (s : State) (e : Undo) : Bool :=
  e.kind != .plain || s.pubs.any (fun p => 2 ≤ p.scope && p.stores.contains e.time)

/-- The latest published store to each byte of some places, by its home time. -/
def State.latest (s : State) (pas : List Nat) : List Nat :=
  pas.filterMap (fun pa => (s.hist.find? (fun e => e.pa == pa && s.isPublished e)).map (·.time))

/-- The acquire of a read that no L1 serves, under the strengthening mode: the read finds at the homes of its bytes what
has been published there (17 R303; log entry 11). -/
def State.acquireMiss (s : State) (key : Nat) (places : List Place) : State :=
  s.acquireTaking key 2 [] (s.latest (places.flatMap (·.pas)))

/-- What precedes a plain read of some places under the strengthening mode: an acquire at package scope, unless the L1
serves every byte. Only cached pages of device memory stand in an L1 (10 R208). -/
def State.strengthRead (s : State) (key : Nat) (places : List Place) : State :=
  if s.rev1 key && !places.isEmpty then
    if places.all (fun p => p.tier ≤ 1 && p.cache == 0 && p.pas.all (s.l1Holds key)) && Config.servedByL1 s.fresh then
      s.bump
    else
      (places.filter (fun p => p.tier ≤ 1 && p.cache == 0)).foldl (fun s p => p.pas.foldl (fun s a => s.fillL1 key a) s)
        (s.acquireMiss key places)
  else s

/-- What precedes a read at the home, which no L1 serves, under the strengthening mode (17 R303). -/
def State.beforeHome (s : State) (key : Nat) : State := if s.rev1 key then s.acquire key 2 else s

/-- The accesses of a plain read, each of which reads again what the thread's own atomics have written (06 R112). -/
def State.rereadAll (s : State) (key : Nat) (places : List Place) : State :=
  places.foldl (fun s p => s.reread key p.pas) s

/-- What precedes a plain read of some places. -/
def State.beforeRead (s : State) (key : Nat) (places : List Place) : State :=
  (s.strengthRead key places).rereadAll key places

/-- What precedes a read of the matrix engine or of the iterator engine, which no L1 serves: the acquire of the
strengthening mode (17 R303). -/
def State.beforeEngine (s : State) (key : Nat) (places : List Place) : State :=
  (if s.rev1 key && !places.isEmpty then s.acquireMiss key places else s).rereadAll key places

/-- A store instruction's bytes become pending, or are published at once under the strengthening mode. `all` holds
every byte address that the instruction writes. -/
def State.store (s : State) (key : Nat) (all : List Nat) : List Nat → List Byte → State
  | pa :: ps, b :: bs => (s.pendByte key pa b (wholeIn all pa)).store key all ps bs
  | _, _ => s

/-- The thread's sends older than its latest store to a page that holds none. -/
def Thread.olderSends (t : Thread) : List Nat :=
  ((t.pend.dropWhile (fun p => uncachedPa p.pa)).filter (fun p => uncachedPa p.pa)).map (·.pa)

/-- What follows a store instruction under the strengthening mode: its stores are published as they perform, after the
thread's older stores, sends among them, whatever markers those wait for; a send itself may still be on its way (17
R303; log entry 11). -/
def State.afterStore (s : State) (key : Nat) : State :=
  if s.rev1 key then
    (if (s.thread key).olderSends.isEmpty then s else s.settleNow key (s.thread key).olderSends).publish key 2
  else s

end Sys2Proof.Machine
end

