-- ==== Sys2Proof/Machine/Ops.lean ====
section
/-! DEFINITION. The shared operations: registers, retiring, fault records, taking an exception, entering a handler and
leaving it (03 R29, R42; 19 R307 to R318), and scalar accesses (06 R109 to R113). -/

namespace Sys2Proof.Machine

/-! ## Scalar registers -/

/-- The register that a field names under the window (03 R29). -/
def Thread.regIndex (t : Thread) (n : BitVec 7) : Nat := if n.toNat < 16 then n.toNat else n.toNat + t.wb

/-- A register read; g0 reads 0 (03 R27). -/
def Thread.rd (t : Thread) (n : BitVec 7) : Word := if n = 0 then 0 else Map.getD (t.regIndex n) 0 t.regs

/-- A register write; a write to g0 is discarded (03 R27). -/
def Thread.wr (t : Thread) (n : BitVec 7) (v : Word) : Thread :=
  if n = 0 then t else { t with regs := Map.put (t.regIndex n) v t.regs }

def State.rd (s : State) (n : BitVec 7) : Word := s.me.rd n

def State.wr (s : State) (n : BitVec 7) (v : Word) : State := s.modMe (fun t => t.wr n v)

/-! ## The place in the program -/

/-- The address of the instruction a thread executes: a replayed one, a body word of the open loop, or the PC
(07 R127, R135). -/
def Thread.curPc (t : Thread) : Word :=
  match t.replay with
  | some r => r.pc
  | none =>
    match t.vec.loop with
    | some l => l.pc + BitVec.ofNat 64 (4 * (l.next + 1))
    | none => t.pc

/-- A stop that no instruction reaches: the request to an instruction that is never trimmed. -/
def noStop : Nat := 2 ^ 32

/-- A word's opcode. -/
def opOf (w : BitVec 32) : Nat := w.toNat / 2 ^ 25

/-- Micro-steps of a deprecated instruction at a vector length: the groups of 128 of `dmmac`, the elements of the others
(19 R327). -/
def depSteps (w : BitVec 32) (al : Nat) : Nat := if w.toNat % 4 = 2 then (al + 127) / 128 else al

/-- The step count of the instruction that the executing thread executes: 0 where it is none of the deprecated ones (19
R313, R327). -/
def State.execSteps (s : State) : Nat :=
  let w := (s.me.replay.map (·.word)).getD s.word
  if opOf w = 0x6F then depSteps w s.me.vec.al else 0

/-- Flags of some instructions in flight. -/
def flightFlags (l : List Flight) : Word := l.foldl (fun a f => a ||| f.flags) 0

/-- Flags that a replayed instruction kept, raised as it retires and in flight from then on (06 R99, 07 R130). -/
def Thread.raiseKept (t : Thread) (r : Replay) : Thread :=
  if r.flags = 0 then t
  else { t with fpflags := t.fpflags ||| r.flags, flights := { flags := r.flags, can := r.can } :: t.flights }

/-- The instruction is done: the next one follows. A replay that retires clears ES and raises the flags it kept (07
R127, R130); an instruction that a forced pre-emption waited for has answered it, unless it is one that is never trimmed
(07 R131, 09 R197). -/
def Thread.retire (t : Thread) : Thread :=
  let t := { t with cnt := { t.cnt with retired := (t.cnt.retired + 1) % 2 ^ 64 }
                    stop := none, stopped := t.stopped || t.stop.any (· != noStop), abandoned := false }
  match t.replay with
  | some r => { t.raiseKept r with replay := none, mstep := 0, vec := { t.vec with es := 0 } }
  | none =>
    match t.vec.loop with
    | some l => { t with vec := { t.vec with loop := some { l with next := l.next + 1 } } }
    | none => { t with pc := t.pc + 4 }

def State.retire (s : State) : State := s.modMe Thread.retire

/-- An instruction that ends with a jump. -/
def State.jump (s : State) (target : Word) : State :=
  s.modMe (fun t => { t with pc := target, cnt := { t.cnt with retired := (t.cnt.retired + 1) % 2 ^ 64 } })

/-! ## Fault records (19 R310 to R312) -/

/-- FLAGS of a record. -/
def Record.flags (r : Record) : Nat :=
  b2n r.deleg + 2 * b2n r.pcres + 4 * (r.misslvl % 8) + 32 * b2n r.nested

/-- The 64 bytes of a record (19 R310). -/
def Record.bytes (r : Record) : List Byte :=
  leBytes 1 r.cause ++ leBytes 1 r.kind ++ leBytes 1 r.level ++ leBytes 1 r.flags ++ leBytes 2 r.ctx ++
  leBytes 1 r.core ++ leBytes 1 r.thread ++ leBytes 8 r.token ++ leBytes 8 r.va.toNat ++ leBytes 8 r.pc.toNat ++
  leBytes 4 r.elem ++ leBytes 1 r.cmd ++ leBytes 1 (min r.hints.length 4) ++ leBytes 2 r.sect ++ leBytes 2 r.chunk ++
  ((List.range 4).flatMap (fun i => leBytes 5 (r.hints.getD i 0))) ++ leBytes 1 r.orig.1 ++ leBytes 1 r.orig.2

/-- The doubleword at a place of a list of bytes. -/
def dword (l : List Byte) (i : Nat) : Word := BitVec.ofNat 64 (leNat ((l.drop (8 * i)).take 8))

/-- Causes whose notices may be suppressed as duplicates (19 R312). -/
def memoryCause (c : Nat) : Bool := c == 1 || c == 2 || c == 4 || c == 5

/-- A fault met: one that host data brought is counted (10 R219, 23 R351; log entry 74). -/
def State.meets (s : State) (f : Flt) : State := if f.host then s.count 0x106 1 else s

/-- A record's place in its queue, and the page's home, when the write can be made (19 R312, 04 R55); otherwise the
level that lacks the page and the fault met there, none while the write waits for memory. A page whose link answers with
an error takes no record either (23 R344; log entry 87). -/
def queueSlot (s : State) (q : Context) : Except (Option (Nat × Flt)) (Word × List Nat) :=
  let va := q.fqbase + BitVec.ofNat 64 (64 * (q.fqtail % 2 ^ q.fqlog2))
  match locate s { key := 0, ctx := q.id, features := s.features, spad := none } .write va 64 64 with
  | .ok p =>
    match checkLink s va p with
    | .ok _ => .ok (va, p.pas)
    | .error _ => .error (some (q.depth, { cause := 5, va := some va, map := none }))
  | .error (.flt f) => .error (some (f.map.getD q.depth, f))
  | .error .wait => .error none

/-- A record as it goes to the parent's queue when its own queue's write cannot be translated (04 R55). -/
def Record.redirect (r : Record) (q : Context) (va : Word) (miss : Nat) : Record :=
  { r with cause := 1, kind := 1, level := q.depth - 1, deleg := false, ctx := q.id, va := va, misslvl := miss, hints := []
           orig := if r.orig = (0, 0) then (r.cause, r.kind) else r.orig }

/-- Records in a context's queue, and the queue's size (19 R312, R313). -/
def Context.queued (q : Context) : Nat := (q.fqtail + 2 ^ 32 - q.fqhead) % 2 ^ 32

def Context.fqsize (q : Context) : Nat := if q.fqlog2 = 0 then 0 else 2 ^ q.fqlog2

/-- The record written to the first queue, of a path toward the root, whose slot can be written; the record as it
stands in the end is answered with the state (19 R312, R314; 04 R55). The root has no queue while its size is 0. A
slot in memory that is not ready holds the write back (23 R347; log entry 68): none. -/
def writeRecord (s : State) (r : Record) : List Nat → Option (Record × State)
  | [] => some (r, s)
  | id :: up =>
    let q := s.ctxAt id
    let drop := { q with dropped := min (q.dropped + 1) (2 ^ 32 - 1) }
    if q.fqsize ≤ q.queued then some (r, s.setCtx drop)
    else match queueSlot s q with
      | .ok (_, pas) =>
        let t := s.writeHome .device .posted false pas r.bytes
        let new := (List.range (t.now - s.now)).map (fun i => s.now + 1 + i)
        some (r, t.setCtx { q with fqtail := (q.fqtail + 1) % 2 ^ 32, fqstores := new ++ q.fqstores })
      | .error none => none
      | .error (some (miss, f)) =>
        let s := s.meets f
        if id = 0 then some (r, s.setCtx drop)
        else
          let va := q.fqbase + BitVec.ofNat 64 (64 * (q.fqtail % 2 ^ q.fqlog2))
          writeRecord s (r.redirect q va miss) up

/-- A record delivered to its core's pending list (19 R315): a notice that finds it full gets no entry, and any other
record waits for room. -/
def State.deliver (s : State) (core : Nat) (e : Entry) : State :=
  s.modCore core (fun c =>
    if c.pending.length < 256 then { c with pending := c.pending ++ [e] }
    else if e.record.kind = 0 then c
    else { c with blocked := c.blocked ++ [{ e with written := true }] })

/-- Whether a core has produced the same notice within the last 4,096 cycles (19 R312). -/
def suppressed (s : State) (core queue : Nat) (r : Record) : Bool :=
  memoryCause r.cause && r.kind == 0 &&
  (s.coreAt core).recent.any (fun n => n.ctx == r.ctx && n.cause == r.cause && n.page == vpnOf r.va &&
    n.queue == queue && s.cycle core < n.cycle + 4096)

/-- A notice of a memory cause is remembered for suppression (19 R312). -/
def remember (s : State) (core queue : Nat) (r : Record) : State :=
  if r.kind = 0 && memoryCause r.cause then
    s.modCore core (fun c =>
      { c with recent := { ctx := r.ctx, cause := r.cause, page := vpnOf r.va, queue := queue,
                           cycle := s.cycle core } :: c.recent })
  else s

/-- A core's count of trap and engine records after one more: it skips 0 (19 R311). -/
def Core.nextSeq (c : Core) : Nat :=
  let n := (c.seq + 1) % 2 ^ 30
  if n = 0 then 1 else n

/-- A record of a core written is counted where its event has not counted it: a notice that is redirected is written as a
trap record (04 R55; 19 R311). -/
def countRecord (s : State) (core : Nat) (asked written : Record) : State :=
  if asked.kind = 0 && written.kind != 0 then s.modCore core (fun c => { c with seq := c.nextSeq }) else s

/-- A record written to the queue of context `queue` and delivered to its core; none while it must wait: a trap or an
engine record, as it is written in the end, for room in the pending list (19 R315), any record for the queue's memory
(23 R347). -/
def postNow (s : State) (core queue : Nat) (e : Entry) : Option State :=
  (writeRecord s e.record (s.path queue)).bind (fun w =>
    if w.1.kind ≠ 0 && 256 ≤ (s.coreAt core).pending.length then none
    else some ((countRecord w.2 core e.record w.1).deliver core
      { e with record := w.1, owner := s.ancestorAt w.1.ctx w.1.level }))

/-- A record of an event on a core. Records are written in the order of their events, so one that finds an older one
waiting waits behind it (19 R312). -/
def State.post (s : State) (core queue : Nat) (e : Entry) : State :=
  if suppressed s core queue e.record then s
  else
    let s := remember s core queue e.record
    let hold (s : State) : State := s.modCore core (fun c => { c with blocked := c.blocked ++ [{ e with owner := queue }] })
    if (s.coreAt core).blocked.isEmpty then (postNow s core queue e).getD (hold s) else hold s

/-- A record that is written at once or not at all: none while an older record of the core waits, or while it would wait
itself (19 R312, R315). -/
def State.postAtOnce (s : State) (core queue : Nat) (e : Entry) : Option State :=
  if (s.coreAt core).blocked.isEmpty then postNow s core queue e else none

/-! ## Owners (19 R307 to R309) -/

/-- The first context of a path that does not pass a cause upward, and whether one has passed it (19 R308). -/
def delegate (s : State) (cause : Nat) : List Nat → Bool → Nat × Bool
  | [], d => (0, d)
  | id :: up, d => if id ≠ 0 && bitAt (s.ctxAt id).deleg.toNat cause then delegate s cause up true else (id, d)

/-- The context that owns a cause raised in a context by a user thread, and FLAGS.DELEG (19 R307, R308). `map` is the
level of the map that raised it. -/
def ownerOf (s : State) (ctx cause : Nat) (map : Option Nat) : Nat × Bool :=
  match map with
  | some m => (s.ancestorAt ctx (m - 1), false)
  | none =>
    if cause = 0x22 || cause = 0x31 then ((if ctx = 0 then 0 else (s.ctxAt ctx).parent), false)
    else if cause = 0x40 then (0, false)
    else if cause = 0x20 then (ctx, false)
    else delegate s cause (s.path ctx) false

/-! ## Handlers (19 R315, R317) -/

/-- The class of an entry: machine checks, then traps and engine records, then notices. -/
def Entry.rank (e : Entry) : Nat := if e.record.cause = 0x40 then 0 else if e.record.kind ≠ 0 then 1 else 2

/-- An entry that the supervisor thread may enter now: level 0 waits for TRAPVEC (19 R314). -/
def enterable (s : State) (e : Entry) : Bool := !(e.record.level == 0 && (s.ctxAt 0).trapvec == 0)

/-- The entry served next: oldest first within each class (19 R315), before them the machine check of a ninth handler,
which needs no room in the list. -/
def nextEntry (s : State) (core : Nat) : Option Entry :=
  let c := s.coreAt core
  let l := (c.pending ++ c.blocked.filter (fun e => e.first && e.written)).filter (enterable s)
  match (l.find? (·.first)).or (l.find? (fun e => e.rank == 0)) with
  | some e => some e
  | none =>
    match l.find? (fun e => e.rank == 1) with
    | some e => some e
    | none => l.head?

/-- Saved registers of a supervisor thread put back; SWZ is none of them, and what the thread has stored and seen stays
(19 R315). -/
def Thread.resumeAs (now saved : Thread) : Thread :=
  { saved with pend := now.pend, snap := now.snap, carry := now.carry, seen := now.seen, phaseAt := now.phaseAt
               cnt := now.cnt, swz := now.swz }

/-- The registers a handler starts with (19 R315). -/
def handlerThread (t : Thread) (ctx : Nat) (pc : Word) (e : Entry) : Thread :=
  let b := e.record.bytes
  { t with
    pc := pc
    regs := (List.range 8).map (fun i => (i + 1, dword b i))
    wb := 0, fpcr := 0, fpflags := 0, ctx := ctx, status := .ready, replay := none, mstep := 0
    h := { epc := e.resume, keep := false, remove := false, cause := e.record.cause, mstep := e.mstep,
           served := some e } }

/-- Resident code as it is saved: a pending wait or pause is abandoned (19 R315). -/
def Thread.abandonWait (t : Thread) : Thread :=
  match t.status with
  | .trapped _ => t
  | .off => t
  | _ => { t with status := .ready }

/-- The supervisor thread of a core enters the handler of an entry (19 R315). -/
def enterHandler (s : State) (core : Nat) (e : Entry) : State :=
  let key := threadKey core 4
  let t := s.thread key
  let ctx := e.owner
  let s := s.modCore core (fun c =>
    { c with pending := c.pending.erase e
             blocked := if e.written then c.blocked.erase e else c.blocked
             resident := if t.h.served.isNone && t.status ≠ .eretWait then some t.abandonWait else c.resident })
  let s := s.setThread key (handlerThread t ctx (s.ctxAt ctx).trapvec e)
  s.acquire key 2

/-- Whether a token names a held fault. -/
def State.isHeld (s : State) (token : Nat) : Bool := s.held.any (fun h => h.token == token)

/-- What the supervisor thread of a core runs when no handler runs: a suspended handler whose fault is released, the
next entry, a wait, or resident code (19 R317). -/
def nextHandler (s : State) (core : Nat) : State :=
  let key := threadKey core 4
  let c := s.coreAt core
  let t := s.thread key
  match c.stack with
  | h :: rest =>
    if !(s.isHeld h.token) then
      (s.setCore core { c with stack := rest }).setThread key { t.resumeAs h.thread with status := .ready }
    else match nextEntry s core with
      | some e => enterHandler (s.setThread key { t with status := .eretWait }) core e
      | none => s.setThread key { t with status := .eretWait, h := HRegs.reset }
  | [] =>
    match nextEntry s core with
    | some e => enterHandler (s.setThread key { t with status := .eretWait }) core e
    | none =>
      match c.resident with
      | some r => (s.setCore core { c with resident := none }).setThread key (t.resumeAs r)
      | none => s.setThread key { t with status := .eretWait, h := HRegs.reset }

/-! ## Taking an exception -/

/-- What a trap is about. -/
structure TrapInfo where
  cause : Nat
  va : Option Word
  elem : Nat
  hints : List Nat
  map : Option Nat
  pcres : Bool
  pc : Word
  resume : Word
  /-- The step count of the instruction that traps (19 R313). -/
  steps : Nat := 0
  deriving DecidableEq, Repr

/-- The token of a core's next held fault, and the core's new count (19 R311). -/
def nextToken (s : State) (core thread cmd chunk : Nat) : Nat × Nat :=
  let n := (s.coreAt core).nextSeq
  (chunk * 2 ^ 48 + core * 2 ^ 40 + thread * 2 ^ 37 + cmd * 2 ^ 30 + n, n)

/-- MISSLVL of a record (19 R310): the level that lacks the translation; for a non-canonical address the context's own
depth, as 06 R119 has it (log entry 28). -/
def missLevel (s : State) (ctx cause : Nat) (map : Option Nat) : Nat :=
  if cause = 1 then map.getD (s.ctxAt ctx).depth else 0

/-- VA of a record. A fault that has no address (an instruction fault, a floating-point exception, a PSN operand, a row
beyond a record) leaves it open (log entry 32). -/
def recordVa (s : State) (va : Option Word) : Word := va.getD (Config.openWord s.fresh)

/-- The record of a trap. -/
def TrapInfo.record (i : TrapInfo) (s : State) (ctx core thread level token : Nat) (deleg nested : Bool) : Record :=
  { cause := i.cause, kind := 1, level := level, deleg := deleg, pcres := i.pcres,
    misslvl := missLevel s ctx i.cause i.map,
    nested := nested, ctx := ctx, core := core, thread := thread, token := token, va := recordVa s i.va, pc := i.pc,
    elem := i.elem, cmd := 0, sect := 0, chunk := 0, hints := i.hints, orig := (0, 0) }

/-- A trap of a user thread: the record goes to its owner, and the thread stalls on the token (07 R127; 19 R307,
R312). -/
def trapUser (s : State) (key : Nat) (i : TrapInfo) : State :=
  let core := coreOfKey key
  let t := s.thread key
  let o := ownerOf s t.ctx i.cause i.map
  let n := nextToken s core (slotOfKey key) 0 0
  let r := i.record s t.ctx core (slotOfKey key) (s.ctxAt o.1).depth n.1 o.2 false
  let e : Entry := { record := r, resume := i.resume, mstep := t.mstep, steps := i.steps }
  let s := s.modCore core (fun c => { c with seq := n.2 })
  let s := s.setThread key { t with status := .trapped n.1, stop := none, cnt := { t.cnt with traps := (t.cnt.traps + 1) % 2 ^ 64 } }
  let s := { s with held := { token := n.1, entry := e, by_ := .user } :: s.held }
  s.post core o.1 e

/-- The entries of suspended handlers and of a running one, delivered again in the order in which they were first
taken (19 R315). -/
def redeliver (s : State) (core : Nat) : List Entry → State
  | [] => s
  | e :: r => redeliver (s.deliver core e) core r

/-- The machine check of a ninth handler put before every other entry, in the list while there is room there. -/
def Core.putFirst (c : Core) (e : Entry) : Core :=
  if c.pending.length < 256 then { c with pending := e :: c.pending }
  else { c with blocked := { e with written := true } :: c.blocked }

/-- The machine check of a ninth handler: its record is written and entered as the first root entry (19 R315). It waits
only for its queue's memory and for TRAPVEC. -/
def enterFirst (s : State) (core : Nat) (e : Entry) : State :=
  match writeRecord s e.record (s.path 0) with
  | none => nextHandler (s.modCore core (fun c => { c with blocked := { e with first := true } :: c.blocked })) core
  | some w =>
    let e := { e with record := w.1, first := true }
    if enterable w.2 e then enterHandler w.2 core e
    else nextHandler (w.2.modCore core (fun c => c.putFirst e)) core

/-- A trap of a supervisor thread (19 R309, R315). Resident code: the owner is the root, and the thread stalls. A
handler of level k > 0: it is suspended, and a level below k takes the record; the ninth suspension abandons them all.
A handler of level 0: it is abandoned, and the entry it served is delivered again. -/
def trapSupervisor (s : State) (key : Nat) (i : TrapInfo) : State :=
  let core := coreOfKey key
  let t := { s.thread key with cnt := { (s.thread key).cnt with traps := ((s.thread key).cnt.traps + 1) % 2 ^ 64 } }
  let c := s.coreAt core
  let n := nextToken s core 4 0 0
  let s := s.modCore core (fun c => { c with seq := n.2 })
  match t.h.served with
  | none =>
    let r := i.record s t.ctx core 4 0 n.1 false false
    let e : Entry := { record := r, resume := i.resume, mstep := 0 }
    let s := s.setThread key { t with status := .trapped n.1 }
    let s := { s with held := { token := n.1, entry := e, by_ := .supervisor } :: s.held }
    s.post core 0 e
  | some sv =>
    let k := (s.ctxAt t.ctx).depth
    if k = 0 then
      let r := i.record s t.ctx core 4 0 0 false true
      let s := (s.setThread key { t with status := .eretWait, h := HRegs.reset }).post core 0
        { record := r, resume := i.resume, mstep := 0 }
      nextHandler (redeliver s core [sv]) core
    else if 8 ≤ c.stack.length then
      let old := (c.stack.reverse.filterMap (fun h => h.thread.h.served)) ++ [sv]
      let toks := c.stack.map (·.token)
      let s := { s with held := s.held.filter (fun h => !(toks.contains h.token)) }
      let s := s.modCore core (fun c => { c with stack := [] })
      let s := s.setThread key { t with status := .eretWait, h := HRegs.reset }
      let s := redeliver s core old
      let r := { i.record s t.ctx core 4 0 0 false true with cause := 0x40, misslvl := 0 }
      enterFirst s core { record := r, resume := i.pc, mstep := 0 }
    else
      let o := ownerOf s t.ctx i.cause i.map
      let lv := (s.ctxAt o.1).depth
      let lv := if k ≤ lv then k - 1 else lv
      let q := s.ancestorAt t.ctx lv
      let r := i.record s t.ctx core 4 lv n.1 (o.2 && lv == (s.ctxAt o.1).depth) true
      let e : Entry := { record := r, resume := i.resume, mstep := 0 }
      let t' := { t with status := .trapped n.1 }
      let s := s.modCore core (fun c => { c with stack := { thread := t', token := n.1 } :: c.stack })
      let s := s.setThread key { t with status := .eretWait, h := HRegs.reset }
      let s := { s with held := { token := n.1, entry := e, by_ := .supervisor } :: s.held }
      nextHandler (s.post core q e) core

/-- Taking an exception: the one operation through which a thread traps. -/
def takeTrap (s : State) (key : Nat) (i : TrapInfo) : State :=
  (if isSupervisor key then trapSupervisor s key i else trapUser s key i).bump

/-- The executing thread traps at its instruction. PCRES says that the scalar side had not passed it, which holds of
every instruction that is not being replayed (19 R315). -/
def trapAt (s : State) (cause : Nat) (va : Option Word) (elem : Nat) (map : Option Nat) : State :=
  let t := s.me
  takeTrap s s.cur { cause := cause, va := va, elem := elem, hints := [], map := map, pcres := t.replay.isNone,
                     pc := t.curPc, resume := t.curPc, steps := s.execSteps }

/-- A change made as if another thread of the package were the executing one. -/
def State.asThread (s : State) (key : Nat) (f : State → State) : State :=
  { f { s with cur := key } with cur := s.cur }

/-- An instruction fault (03 R41, R42): nothing changes but that the thread traps with the cause. -/
def instrFault (s : State) (cause : Nat) : Out := .next (trapAt s cause none 0 none)

/-- A scalar access that does not perform: its trap, or, while a function is not ready, no change (06 R110, 23 R347). -/
def stopAt (s : State) : Stop → Out
  | .flt f => .next (trapAt (s.meets f) f.cause f.va 0 f.map)
  | .wait => .next s

/-- A call that a service instruction makes (19 R316): the resume PC follows the instruction, VA is g16. -/
def serviceCall (s : State) (cause n : Nat) : State :=
  let t := s.me
  takeTrap s s.cur { cause := cause, va := some (t.rd 16), elem := n, hints := [], map := none, pcres := true, pc := t.curPc
                     resume := t.curPc + 4 }

/-! ## Releasing a held fault (19 R318) -/

/-- A thread released from its trap. With PCRES it fetches at the resume PC, leaving the loop it was in when that is
not the instruction it stopped at; without, it replays. -/
def Thread.release (t : Thread) (pcres : Bool) (resume : Word) (mstep : Nat) : Thread :=
  if pcres then
    let t := { t with status := .ready, vec := { t.vec with es := 0 } }
    match t.vec.loop with
    | some _ => if resume = t.curPc then t else { t with pc := resume, vec := { t.vec with loop := none } }
    | none => { t with pc := resume }
  else { t with status := .ready, mstep := mstep }

/-- A barrier marker whose fault is released fires again (17 R300). -/
def Thread.unstall (t : Thread) : Thread := { t with markers := t.markers.map (fun m => { m with stalled := false }) }

/-- Every saved thread changed. -/
def mapSaved (s : State) (g : Thread → Thread) : State :=
  { s with
    crews := s.crews.map (fun c => { c with saved := c.saved.map g })
    ctxs := s.ctxs.map (fun p => (p.1, { p.2 with
      launches := p.2.launches.map (fun l => { l with
        saved := l.saved.map (fun c => { c with threads := c.threads.map g }) }) })) }

/-- Every thread, on a core, suspended or saved, changed. -/
def mapThreads (s : State) (g : Thread → Thread) : State :=
  mapSaved { s with
    threads := s.threads.map (fun p => (p.1, g p.2))
    cores := s.cores.map (fun p => (p.1, { p.2 with
      stack := p.2.stack.map (fun h => { h with thread := g h.thread })
      resident := p.2.resident.map g })) } g

/-- Every thread, on a core, suspended or saved. -/
def State.everyThread (s : State) : List Thread :=
  s.threads.map (·.2) ++ s.cores.flatMap (fun p => p.2.stack.map (·.thread) ++ p.2.resident.toList) ++
  s.crews.flatMap (·.saved) ++ s.ctxs.flatMap (fun p => p.2.launches.flatMap (fun l => l.saved.flatMap (·.threads)))

/-- A change made as if a saved thread stood on the key of its stores. -/
def withSaved (s : State) (t : Thread) (f : State → State) : State :=
  let u := f (s.setThread t.alias_ t)
  let t' := u.thread t.alias_
  mapSaved { u with threads := match Map.find t.alias_ s.threads with
      | some x => Map.put t.alias_ x u.threads
      | none => Map.del t.alias_ u.threads } (fun x => if x.alias_ = t.alias_ then t' else x)

/-- Pending stores of threads on a core, and of saved threads, reach their homes, a send that waits for a marker with
its publication (10 R217): `of_` gives the addresses for a thread
and the core slot on which it stored. -/
def settleEvery (s : State) (of_ : Nat → Thread → List Nat) : State :=
  let s := (s.threads.map (·.1)).foldl (fun s k => s.settleNow k (of_ k (s.thread k))) s
  (s.savedThreads.filter (fun t => t.alias_ != 0)).foldl
    (fun s t => withSaved s t (fun s => s.settleNow t.alias_ (of_ (t.alias_ % 2048) t))) s

/-- The dirty bytes of a line in the L1 that serves a thread reach their homes, whichever thread stored them there (06
R114; 10 R208). They stay unpublished. -/
def settleLine (s : State) (key : Nat) (pas : List Nat) : State :=
  match pas with
  | [] => s
  | pa :: _ => settleEvery s (fun k t =>
      if s.sharesL1 pa key k && t.pend.any (fun p => pas.contains p.pa) then pas else [])

/-- Every thread that stalls on a token changed. -/
def mapTrapped (s : State) (token : Nat) (f : Thread → Thread) : State :=
  mapThreads s (fun t => if t.status = .trapped token then f t else t)

/-- Every copy command changed. -/
def mapCommands (s : State) (f : Command → Command) : State :=
  mapThreads s (fun t => { t with cmds := t.cmds.map f })

/-- Whether a thread runs a task. -/
def Thread.isTask (t : Thread) (ctx : Nat) (handle : Word) (crew k : Nat) : Bool :=
  match t.task with
  | none => false
  | some x => x.ctx == ctx && x.handle == handle && x.crew == crew && x.k == k

/-- A held fault released with a resume PC and a micro-step (19 R318). -/
def releaseHeld (s : State) (h : Held) (resume : Word) (mstep : Nat) : State :=
  let s := { s with held := s.held.filter (fun x => x.token != h.token) }
  match h.by_ with
  | .user => mapTrapped s h.token (fun t => (t.release h.entry.record.pcres resume mstep).unstall)
  | .supervisor => mapTrapped s h.token (fun t => { t with status := .ready, pc := resume })
  | .engine serial chunk =>
    mapCommands s (fun c => if c.serial = serial then
      { c with missing := Map.del chunk c.missing, why := Map.del chunk c.why } else c)
  | .hang ctx handle crew k =>
    mapThreads s (fun t => if t.isTask ctx handle crew k then
      { t with task := t.task.map (fun x => { x with hangFrom := s.ns }) } else t)

/-! ## Scalar accesses -/

/-- The data address of a scalar access is checked and its bytes are read (06 R110, R111). -/
def loadScalar (s : State) (va : Word) (n : Nat) : Except Stop (Nat × State) :=
  match checkRead s (s.env s.cur) va n n with
  | .error e => .error e
  | .ok p =>
    let r := (s.beforeRead s.cur [p]).readBytes s.cur p.pas
    .ok (leNat r.1, r.2.tally (fun c => { c with bytesRead := (c.bytesRead + n) % 2 ^ 64 }))

/-- A scalar store: checked, and then pending (06 R110, R111). -/
def storeScalar (s : State) (va : Word) (n : Nat) (x : Nat) : Except Stop State :=
  match checkWrite s (s.env s.cur) va n n with
  | .error e => .error e
  | .ok p =>
    let s := (s.store s.cur p.pas p.pas (leBytes n x)).afterStore s.cur
    .ok (s.tally (fun c => { c with bytesWritten := (c.bytesWritten + n) % 2 ^ 64 }))

/-- Bytes read at their homes by the executing thread as a one-element access (04 R69, 12 R248). -/
def loadHome (s : State) (key : Nat) (e : Env) (va : Word) (n align : Nat) : Except Stop (List Byte × State) :=
  match locate s e .read va n align with
  | .error x => .error x
  | .ok p =>
    match checkHome s va p.pas with
    | .error x => .error x
    | .ok _ => .ok ((s.beforeHome key).readHome key p.pas)

/-- A boundary of the executing thread begins once its older barrier markers have fired: each boundary of a thread
completes before its next begins (17 R288). -/
def afterMarkers (s : State) (k : Unit → Out) : Out := if s.me.markers.isEmpty then k () else .next s

/-- A result register written and the instruction retired. -/
def State.finish (s : State) (d : BitVec 7) (v : Word) : Out := .next (s.wr d v).retire

/-- Whether the executing thread is a supervisor thread. -/
def State.sup (s : State) : Bool := isSupervisor s.cur

/-- Whether the executing thread is the supervisor thread of the root (03 R34: Root). -/
def State.rootSup (s : State) : Bool := s.sup && s.me.ctx == 0

/-- An instruction that only user threads may execute (03 R40). -/
def userOnly (s : State) (k : Unit → Out) : Out := if s.sup then instrFault s 0x10 else k ()

/-- An instruction that only supervisor threads may execute (03 R40). -/
def supOnly (s : State) (k : Unit → Out) : Out := if s.sup then k () else instrFault s 0x11

/-- An instruction that only the depth-0 supervisor thread may execute (03 R40). -/
def rootOnly (s : State) (k : Unit → Out) : Out := if s.rootSup then k () else instrFault s 0x11

end Sys2Proof.Machine
end

