-- ==== Sys2Proof/Machine/Flags.lean ====
section
/-! DEFINITION. The floating-point flags, the enables and the rounding mode (07 R120, R130; 08 R150, R154; 06 R116). -/

namespace Sys2Proof.Machine

/-- Exceptions raised, in the bit order of FLAGS: invalid 16, divide by zero 8, overflow 4, underflow 2, inexact 1. -/
abbrev Flags := Nat

def fInvalid : Flags := 16
def fDivZero : Flags := 8
def fOverflow : Flags := 4
def fUnderflow : Flags := 2
def fInexact : Flags := 1

/-- Exceptions of two computations together. -/
def orF (a b : Flags) : Flags := Nat.lor a b

/-- FPCR.RM. -/
def Thread.rm (t : Thread) : Nat := bitsAt t.fpcr.toNat 0 3

/-- FPCR.EN, in the bit order of FLAGS. -/
def Thread.enables (t : Thread) : Nat := bitsAt t.fpcr.toNat 8 5

/-- Whether an exception that FPCR enables arises. -/
def trapsOn (en : Nat) (f : Flags) : Bool := Nat.land en f != 0

/-- Flags of a scalar instruction ORed into FPFLAGS. -/
def State.raiseNow (s : State) (f : Flags) : State :=
  if f = 0 then s else s.modMe (fun t => { t with fpflags := t.fpflags ||| BitVec.ofNat 64 f })

/-- Flags of a vector or matrix instruction ORed into FPFLAGS, in flight from then on: a write of FPFLAGS may overtake them
until the instruction is known to have finished, by a wait for something of `can`, which is what else it can change (06
R99; log entry 15). -/
def State.raiseFlight (can : List Effect) (s : State) (f : Flags) : State :=
  if f = 0 then s
  else s.modMe (fun t => { t with fpflags := t.fpflags ||| BitVec.ofNat 64 f
                                  flights := { flags := BitVec.ofNat 64 f, can := can } :: t.flights })

/-- What an instruction that may trim can change beside its destination: AL, ES and VSTAT, and ES alone while FREEZE
keeps it from trimming (07 R127, R128). -/
def Vec.trimEffects (v : Vec) : List Effect := if v.freeze then [.steps] else [.length, .steps, .status]

/-- Of an instruction that may trim, with destination `d` beside. -/
def State.raise (d : List Effect) (s : State) (f : Flags) : State := s.raiseFlight (s.me.vec.trimEffects ++ d) f

/-- Older instructions of the thread that can still change something of `l` have finished: none of their flags is in flight
(06 R99; 07 R132, R133). -/
def State.settled (l : List Effect) (s : State) : State :=
  if s.me.flights.any (fun f => f.can.any l.contains) then
    s.modMe (fun t => { t with flights := t.flights.filter (fun f => !(f.can.any l.contains)) })
  else s

/-- Every older instruction of the thread has finished. -/
def State.flagsSettled (s : State) : State :=
  if s.me.flights.isEmpty then s else s.modMe (fun t => { t with flights := [] })

/-- What a scalar result computed from the active elements of a vector register depends on: AL, the register, and v0 under a
mask (07 R133). -/
def elemsRead (a : BitVec 7) (m : Bool) : List Effect := .length :: .vreg a.toNat :: (if m then [.vreg 0] else [])

/-- Flags in flight, and a write of FPFLAGS ORed with those of them that a mask picks: those are in flight still (06
R99). -/
def Thread.inFlight (t : Thread) : Word := flightFlags t.flights

def Thread.overtake (t : Thread) (v late : Word) : Thread :=
  { t with fpflags := v ||| (t.inFlight &&& late)
           flights := (t.flights.map (fun f => { f with flags := f.flags &&& late })).filter (fun f => f.flags != 0) }

end Sys2Proof.Machine
end

