-- ==== Sys2Proof/Machine/Fp.lean ====
section
/-! DEFINITION. The floating-point formats, exact values, rounding and conversion (08 R148 to R157). -/

namespace Sys2Proof.Machine

/-! ## Formats (08 R148) -/

/-- How a format uses its largest exponent. -/
inductive Special where
  | ieee    -- infinities and NaNs
  | e4m3    -- one NaN pattern per sign, no infinity
  | fp4     -- neither
  deriving DecidableEq, Repr

/-- A signed binary format. -/
structure Fmt where
  ebits : Nat
  mbits : Nat
  bias : Nat
  special : Special
  /-- FLUSH governs it (08 R153). -/
  flushes : Bool
  deriving DecidableEq, Repr

def fmtFp64 : Fmt := { ebits := 11, mbits := 52, bias := 1023, special := .ieee, flushes := true }
def fmtFp32 : Fmt := { ebits := 8, mbits := 23, bias := 127, special := .ieee, flushes := true }
def fmtFp16 : Fmt := { ebits := 5, mbits := 10, bias := 15, special := .ieee, flushes := true }
def fmtBf16 : Fmt := { ebits := 8, mbits := 7, bias := 127, special := .ieee, flushes := true }
def fmtE5m2 : Fmt := { ebits := 5, mbits := 2, bias := 15, special := .ieee, flushes := false }
def fmtE4m3 : Fmt := { ebits := 4, mbits := 3, bias := 7, special := .e4m3, flushes := false }
def fmtFp4 : Fmt := { ebits := 2, mbits := 1, bias := 1, special := .fp4, flushes := false }

/-- The format of a tag, when it is a signed binary one (08 R145). -/
def fmtOf : Nat → Option Fmt
  | 9 => some fmtFp16
  | 10 => some fmtBf16
  | 11 => some fmtFp32
  | 12 => some fmtFp64
  | 13 => some fmtE4m3
  | 14 => some fmtE5m2
  | 15 => some fmtFp4
  | _ => none

/-- The place of the sign bit. -/
def Fmt.signBit (f : Fmt) : Nat := f.ebits + f.mbits

/-- The largest finite pattern without its sign. -/
def Fmt.maxFinite (f : Fmt) : Nat :=
  match f.special with
  | .ieee => (2 ^ f.ebits - 1) * 2 ^ f.mbits - 1
  | .e4m3 => 0x7E
  | .fp4 => 0x7

/-- The canonical NaN (08 R149); FP4 has none, and +0 stands for it (08 R155). -/
def Fmt.nan (f : Fmt) : Nat :=
  match f.special with
  | .ieee => (2 ^ f.ebits - 1) * 2 ^ f.mbits + 2 ^ (f.mbits - 1)
  | .e4m3 => 0x7F
  | .fp4 => 0

/-! ## Exact values -/

/-- What a pattern encodes: a NaN, an infinity, or ± man × 2^exp. -/
inductive FV where
  | nan (signalling : Bool)
  | inf (neg : Bool)
  | fin (neg : Bool) (man : Nat) (exp : Int)
  deriving DecidableEq, Repr

/-- The value of a pattern; `daz` reads subnormals as zero of their sign (08 R153). -/
def Fmt.decode (f : Fmt) (daz : Bool) (x : Nat) : FV :=
  let neg := bitAt x f.signBit
  let e := bitsAt x f.mbits f.ebits
  let m := bitsAt x 0 f.mbits
  let top := e == 2 ^ f.ebits - 1
  if f.special = .ieee && top then
    (if m = 0 then .inf neg else .nan (!(bitAt m (f.mbits - 1))))
  else if f.special = .e4m3 && top && m == 7 then .nan false
  else if e = 0 then
    .fin neg (if daz && f.flushes then 0 else m) (1 - (f.bias : Int) - f.mbits)
  else .fin neg (2 ^ f.mbits + m) ((e : Int) - f.bias - f.mbits)

/-- The value of an E8M0 byte (08 R148). -/
def decodeE8m0 (x : Nat) : FV := if x = 255 then .nan false else .fin false 1 ((x : Int) - 127)

def FV.isZero : FV → Bool
  | .fin _ m _ => m == 0
  | _ => false

def FV.isNan : FV → Bool
  | .nan _ => true
  | _ => false

def FV.isSnan : FV → Bool
  | .nan s => s
  | _ => false

def FV.sign : FV → Bool
  | .fin n _ _ => n
  | .inf n => n
  | .nan _ => false

def FV.negate : FV → FV
  | .nan s => .nan s
  | .inf n => .inf (!n)
  | .fin n m e => .fin (!n) m e

/-! ## Rounding (08 R150 to R153) -/

/-- Whether the magnitude goes up to the next multiple: `q` is the quotient kept, `above` and `tie` place the part
dropped against one half. -/
def roundsUp (rm : Nat) (neg : Bool) (odd above tie inexact : Bool) : Bool :=
  match rm with
  | 0 => above || (tie && odd)
  | 1 => false
  | 2 => neg && inexact
  | 3 => !neg && inexact
  | _ => above || tie

/-- `man` × 2^(−sh) rounded to an integer; `sticky` says that a part below `man` was dropped. -/
def roundShift (rm : Nat) (neg : Bool) (man : Nat) (sh : Int) (sticky : Bool) : Nat × Bool :=
  if sh ≤ 0 then
    let q := man * 2 ^ (-sh).toNat
    (if roundsUp rm neg (q % 2 == 1) false false sticky then q + 1 else q, sticky)
  else
    let n := sh.toNat
    let q := man / 2 ^ n
    let r := man % 2 ^ n
    let half := 2 ^ (n - 1)
    let inexact := r != 0 || sticky
    let above := half < r || (r == half && sticky)
    let tie := r == half && !sticky
    (if roundsUp rm neg (q % 2 == 1) above tie inexact then q + 1 else q, inexact)

/-- The sign placed on a pattern. -/
def Fmt.signed (f : Fmt) (neg : Bool) (x : Nat) : Nat := if neg then x + 2 ^ f.signBit else x

/-- The pattern of an overflow (08 R151). -/
def Fmt.overflow (f : Fmt) (rm : Nat) (neg : Bool) : Nat :=
  let toInf := match rm with
    | 0 => true
    | 1 => false
    | 2 => neg
    | 3 => !neg
    | _ => true
  if f.special = .ieee && toInf then f.signed neg (f.maxFinite + 1) else f.signed neg f.maxFinite

/-- ± `man` × 2^`exp`, not zero, rounded into a format: the pattern and the flags. `sticky` says that the exact
magnitude lies strictly between `man` and `man` + 1; a caller that sets it gives `man` at least two bits more than the
format keeps. `ftz` flushes tiny results (08 R153). -/
def Fmt.round (f : Fmt) (rm : Nat) (ftz neg : Bool) (man : Nat) (exp : Int) (sticky : Bool) : Nat × Flags :=
  if man = 0 then (f.signed neg 0, 0)
  else
    let lead : Int := (Nat.log2 man : Int) + exp
    let emin : Int := 1 - (f.bias : Int)
    let qn : Int := lead - f.mbits
    let free := roundShift rm neg man (qn - exp) sticky
    let tiny := lead < emin && (lead < emin - 1 || free.1 < 2 ^ (f.mbits + 1))
    let q : Int := max qn (emin - f.mbits)
    let r := roundShift rm neg man (q - exp) sticky
    if tiny && ftz && f.flushes then (f.signed neg 0, orF fUnderflow fInexact)
    else
      let big := 2 ^ (f.mbits + 1) ≤ r.1
      let n := if big then r.1 / 2 else r.1
      let q := if big then q + 1 else q
      let pat : Nat :=
        if n < 2 ^ f.mbits then n
        else ((q + f.mbits + f.bias).toNat) * 2 ^ f.mbits + (n - 2 ^ f.mbits)
      if f.maxFinite < pat then (f.overflow rm neg, orF fOverflow fInexact)
      else (f.signed neg pat, if r.2 then (if tiny then orF fUnderflow fInexact else fInexact) else 0)

/-- An exact value delivered in a format (08 R149 to R155): a NaN becomes the canonical one; an infinity that the
format cannot hold becomes its largest value and raises invalid. -/
def Fmt.deliver (f : Fmt) (rm : Nat) (ftz : Bool) (v : FV) (extra : Flags) : Nat × Flags :=
  match v with
  | .nan s =>
    (f.nan, orF extra (if s || f.special = .fp4 then fInvalid else 0))
  | .inf n =>
    if f.special = .ieee then (f.signed n (f.maxFinite + 1), extra) else (f.signed n f.maxFinite, orF extra fInvalid)
  | .fin n m e =>
    let r := f.round rm ftz n m e false
    (r.1, orF extra r.2)

/-! ## Exact arithmetic -/

/-- A signed dyadic number: m × 2^e. -/
def dyadic (neg : Bool) (m : Nat) : Int := if neg then -(m : Int) else m

/-- An exact product, with the invalid flag of 0 × ∞ (08 R154). -/
def mulFV (a b : FV) : FV × Flags :=
  match a, b with
  | .nan s, .nan t => (.nan false, if s || t then fInvalid else 0)
  | .nan s, _ => (.nan false, if s then fInvalid else 0)
  | _, .nan s => (.nan false, if s then fInvalid else 0)
  | .inf m, .inf n => (.inf (m != n), 0)
  | .inf m, .fin n x _ => if x = 0 then (.nan false, fInvalid) else (.inf (m != n), 0)
  | .fin n x _, .inf m => if x = 0 then (.nan false, fInvalid) else (.inf (m != n), 0)
  | .fin m x e, .fin n y g => (.fin (m != n) (x * y) (e + g), 0)

/-- The exact sum of two finite values, the zero's sign by 08 R150. -/
def addFin (rm : Nat) (m : Bool) (x : Nat) (e : Int) (n : Bool) (y : Nat) (g : Int) : FV :=
  let lo := min e g
  let v : Int := dyadic m (x * 2 ^ (e - lo).toNat) + dyadic n (y * 2 ^ (g - lo).toNat)
  if v = 0 then (if x = 0 && y = 0 && m == n then .fin m 0 lo else .fin (rm == 2) 0 lo)
  else .fin (v < 0) v.natAbs lo

/-- An exact sum, with the invalid flag of ∞ − ∞. -/
def addFV (rm : Nat) (a b : FV) : FV × Flags :=
  match a, b with
  | .nan s, .nan t => (.nan false, if s || t then fInvalid else 0)
  | .nan s, _ => (.nan false, if s then fInvalid else 0)
  | _, .nan s => (.nan false, if s then fInvalid else 0)
  | .inf m, .inf n => if m = n then (.inf m, 0) else (.nan false, fInvalid)
  | .inf m, .fin _ _ _ => (.inf m, 0)
  | .fin _ _ _, .inf m => (.inf m, 0)
  | .fin m x e, .fin n y g => (addFin rm m x e n y g, 0)

/-- The exact sum of finite values. A zero's sign is that of adding them one by one. -/
def sumFin (rm : Nat) : List FV → FV
  | [] => .fin false 0 0
  | [v] => v
  | v :: r => (addFV rm v (sumFin rm r)).1

/-- The exact sum of a list of values, all together (08 R167). Invalid is raised by a signalling NaN and by infinities
of both signs, wherever they stand (08 R154). -/
def sumFV (rm : Nat) (l : List FV) : FV × Flags :=
  let pos := l.any (· == .inf false)
  let neg := l.any (· == .inf true)
  let flags : Flags := if l.any FV.isSnan || (pos && neg) then fInvalid else 0
  if l.any FV.isNan || (pos && neg) then (.nan false, flags)
  else if pos then (.inf false, flags)
  else if neg then (.inf true, flags)
  else (sumFin rm l, flags)

/-- A result of exact arithmetic delivered: a NaN operand that signals has raised invalid already. -/
def Fmt.result (f : Fmt) (rm : Nat) (ftz : Bool) (r : FV × Flags) : Nat × Flags := f.deliver rm ftz r.1 r.2

/-- A quotient rounded once (08 R154 for the special cases). -/
def Fmt.div (f : Fmt) (rm : Nat) (ftz : Bool) (a b : FV) : Nat × Flags :=
  match a, b with
  | .nan s, .nan t => (f.nan, if s || t then fInvalid else 0)
  | .nan s, _ => (f.nan, if s then fInvalid else 0)
  | _, .nan s => (f.nan, if s then fInvalid else 0)
  | .inf _, .inf _ => (f.nan, fInvalid)
  | .inf m, .fin n _ _ => f.deliver rm ftz (.inf (m != n)) 0
  | .fin m _ _, .inf n => (f.signed (m != n) 0, 0)
  | .fin m x e, .fin n y g =>
    if y = 0 then
      (if x = 0 then (f.nan, fInvalid) else f.deliver rm ftz (.inf (m != n)) fDivZero)
    else if x = 0 then (f.signed (m != n) 0, 0)
    else
      let k := Nat.log2 y + 72
      let q := x * 2 ^ k / y
      f.round rm ftz (m != n) q (e - g - k) (x * 2 ^ k % y != 0)

/-- The integer square root of a number below 4^n, one result bit at a time from the top. -/
def isqrtGo : Nat → Nat → Nat → Nat
  | 0, _, r => r
  | n + 1, x, r => let t := r + 2 ^ n; if t * t ≤ x then isqrtGo n x t else isqrtGo n x r

def isqrt (x : Nat) : Nat := isqrtGo (Nat.log2 x / 2 + 1) x 0

/-- A significand and an even exponent for the same value. -/
def evenExp (m : Nat) (e : Int) : Nat × Int := if e % 2 = 0 then (m, e) else (2 * m, e - 1)

/-- A square root rounded once (08 R158). -/
def Fmt.sqrt (f : Fmt) (rm : Nat) (ftz : Bool) : FV → Nat × Flags
  | .nan s => (f.nan, if s then fInvalid else 0)
  | .inf n => if n then (f.nan, fInvalid) else f.deliver rm ftz (.inf false) 0
  | .fin n m e =>
    if m = 0 then (f.signed n 0, 0)
    else if n then (f.nan, fInvalid)
    else
      let p := evenExp m e
      let x := p.1 * 2 ^ 144
      let r := isqrt x
      f.round rm ftz false r ((p.2 - 144) / 2) (r * r != x)

/-- A reciprocal square root rounded once (08 R158). -/
def Fmt.rsqrt (f : Fmt) (rm : Nat) (ftz : Bool) : FV → Nat × Flags
  | .nan s => (f.nan, if s then fInvalid else 0)
  | .inf n => if n then (f.nan, fInvalid) else (0, 0)
  | .fin n m e =>
    if m = 0 then f.deliver rm ftz (.inf n) fDivZero
    else if n then (f.nan, fInvalid)
    else
      let p := evenExp m e
      let k := 144 + Nat.log2 p.1
      let r := isqrt (2 ^ (2 * k) / p.1)
      f.round rm ftz false r (-(p.2 / 2) - k) (r * r * p.1 != 2 ^ (2 * k))

/-! ## Comparison and selection -/

/-- The order of two values that are not NaN: less, equal or greater, with ±0 equal. -/
def cmpFV (a b : FV) : Ordering :=
  match a, b with
  | .inf m, .inf n => if m = n then .eq else if m then .lt else .gt
  | .inf m, _ => if m then .lt else .gt
  | _, .inf n => if n then .gt else .lt
  | .fin m x e, .fin n y g =>
    let lo := min e g
    compare (dyadic m (x * 2 ^ (e - lo).toNat)) (dyadic n (y * 2 ^ (g - lo).toNat))
  | _, _ => .eq

/-- Whether the first of two numbers orders below the second, with −0 below +0 (06 R115). -/
def lessFV (a b : FV) : Bool :=
  match cmpFV a b with
  | .lt => true
  | .gt => false
  | .eq => a.isZero && b.isZero && a.sign && !b.sign

/-- Which operand a minimum or maximum selects: the first, the second, or neither when both are NaN. -/
inductive Pick where
  | first | second | nan
  deriving DecidableEq, Repr

/-- Selection by 06 R115: one NaN gives way to the other operand; a signalling NaN raises invalid. -/
def pickFV (max_ : Bool) (a b : FV) : Pick × Flags :=
  let fl := if a.isSnan || b.isSnan then fInvalid else 0
  if a.isNan && b.isNan then (.nan, fl)
  else if a.isNan then (.second, fl)
  else if b.isNan then (.first, fl)
  else if max_ then (if lessFV a b then .second else .first, fl)
  else (if lessFV b a then .second else .first, fl)

/-- Comparisons of 06 R115 and 09 R181: 0 less, 1 equal, 2 less or equal, 3 unordered. -/
def compareFV (op : Nat) (a b : FV) : Bool × Flags :=
  let un := a.isNan || b.isNan
  let sn := a.isSnan || b.isSnan
  match op with
  | 0 => (!un && cmpFV a b == .lt, if un then fInvalid else 0)
  | 1 => (!un && cmpFV a b == .eq, if sn then fInvalid else 0)
  | 2 => (!un && cmpFV a b != .gt, if un then fInvalid else 0)
  | _ => (un, if sn then fInvalid else 0)

/-! ## Conversions (08 R155 to R157) -/

/-- A value rounded to an integer in a range (08 R156). -/
def toInt (rm : Nat) (lo hi : Int) (v : FV) : Int × Flags :=
  match v with
  | .nan _ => (0, fInvalid)
  | .inf n => (if n then lo else hi, fInvalid)
  | .fin n m e =>
    let r := roundShift rm n m (-e) false
    let x := dyadic n r.1
    if x < lo then (lo, fInvalid) else if hi < x then (hi, fInvalid)
    else (x, if r.2 then fInexact else 0)

/-- The exact value of an integer. -/
def ofInt (x : Int) : FV := .fin (x < 0) x.natAbs 0

/-- A conversion to E8M0 (08 R157). -/
def toE8m0 (v : FV) : Nat × Flags :=
  match v with
  | .nan _ => (0xFF, fInvalid)
  | .inf _ => (0xFE, orF fOverflow fInexact)
  | .fin _ m e =>
    if m = 0 then (0, fUnderflow)
    else
      let k : Int := (Nat.log2 m : Int) + e
      if k < -127 then (0, orF fUnderflow fInexact)
      else if 127 < k then (0xFE, orF fOverflow fInexact)
      else ((k + 127).toNat, if m = 2 ^ Nat.log2 m then 0 else fInexact)

end Sys2Proof.Machine
end

