-- ==== Sys2Proof/Machine/Operands.lean ====
section
/-! DEFINITION. Vector operands: tags, elements, masks, active elements, the destination policies, trimming and trapping
(03 R31, R41; 07 R121 to R130; 08 R145, R146; 19 R310). -/

namespace Sys2Proof.Machine

/-! ## Tags (08 R145) -/

def tagMsk : Nat := 18
def tagShp : Nat := 19
def tagChk : Nat := 20
def tagPsn : Nat := 21

/-- The width in bytes of an element of a tag (07 R121). A shape record's elements are I64; PSN-tagged contents are
handled by the byte (log entry 22). -/
def tagWidth : Nat → Nat
  | 1 | 2 | 13 | 14 | 15 | 16 | 21 => 1
  | 3 | 4 | 9 | 10 | 17 => 2
  | 5 | 6 | 11 => 4
  | 7 | 8 | 12 | 19 => 8
  | _ => 0

def isInt (t : Nat) : Bool := 1 ≤ t && t ≤ 8

/-- Signed integer tags I8, I16, I32 and I64. -/
def isSignedTag (t : Nat) : Bool := isInt t && t % 2 == 1

def isFloat (t : Nat) : Bool := 9 ≤ t && t ≤ 14

/-- Tags packed as one bit per element. -/
def isBits (t : Nat) : Bool := t == tagMsk || t == tagChk

/-! ## Registers -/

/-- Bytes of storage of each register under a declaration code (07 R121). -/
def regBytes (decl : Nat) : Nat := 2 ^ 22 / 2 ^ (decl + 2)

/-- The number of declared registers (07 R120). -/
def Vec.nregs (v : Vec) : Nat := 2 ^ (v.decl + 2)

def Thread.vreg (t : Thread) (n : Nat) : VReg := Map.getD n VReg.reset t.vregs

def Thread.setVreg (t : Thread) (n : Nat) (v : VReg) : Thread := { t with vregs := Map.put n v t.vregs }

/-- A register as an operand: a replayed instruction reads it as it stood at issue. -/
def Thread.source (t : Thread) (n : Nat) : VReg :=
  match t.replay with
  | some r => Map.getD n VReg.reset r.regs
  | none => t.vreg n

def State.vreg (s : State) (r : BitVec 7) : VReg := s.me.source r.toNat

/-- A register as a destination. -/
def State.dst (s : State) (r : BitVec 7) : VReg := s.me.vreg r.toNat

def State.vtag (s : State) (r : BitVec 7) : Nat := (s.vreg r).tag

def State.setVreg (s : State) (r : BitVec 7) (v : VReg) : State := s.modMe (fun t => t.setVreg r.toNat v)

def zeroByte (_ : Nat) : Byte := 0

/-- The bytes of a register. -/
def VReg.byte (v : VReg) (i : Nat) : Byte := cellGet zeroByte v.bytes i

/-- Position e in a width of w bytes (07 R121). -/
def VReg.elem (v : VReg) (w e : Nat) : Nat := leNat ((List.range w).map (fun i => v.byte (e * w + i)))

/-- Bit e of a packed register. -/
def VReg.bit (v : VReg) (e : Nat) : Bool := (v.byte (e / 8)).getLsbD (e % 8)

/-- An element in the width of a tag; a bit of a packed one. -/
def VReg.read (v : VReg) (tag e : Nat) : Nat :=
  if isBits tag then b2n (v.bit e) else if tag = 15 then v.elem 1 e % 16 else v.elem (tagWidth tag) e

/-- One byte written, unless it lies beyond the register's storage (07 R121). -/
def VReg.setByte (lim : Nat) (v : VReg) (i : Nat) (b : Byte) : VReg :=
  if i < lim then { v with bytes := cellSet zeroByte v.bytes i b } else v

def VReg.setBytes (lim : Nat) (v : VReg) (i : Nat) : List Byte → VReg
  | [] => v
  | b :: r => (v.setByte lim i b).setBytes lim (i + 1) r

/-- An element written in the width of a tag. -/
def VReg.write (lim : Nat) (v : VReg) (tag e x : Nat) : VReg :=
  if isBits tag then
    let b := v.byte (e / 8)
    let m : Byte := BitVec.ofNat 8 (2 ^ (e % 8))
    v.setByte lim (e / 8) (if x % 2 = 1 then b ||| m else b &&& ~~~m)
  else v.setBytes lim (e * tagWidth tag) (leBytes (tagWidth tag) (if tag = 15 then x % 16 else x))

def VReg.writeAll (lim : Nat) (v : VReg) (tag : Nat) : List (Nat × Nat) → VReg
  | [] => v
  | p :: r => (v.write lim tag p.1 p.2).writeAll lim tag r

/-- The executing thread's storage limit. -/
def State.vlim (s : State) : Nat := regBytes s.me.vec.decl

/-- The tag a register receives at issue (07 R126). -/
def State.setTag (s : State) (r : BitVec 7) (tag : Nat) : State := s.setVreg r { s.dst r with tag := tag }

/-- Elements written to a register in the width of a tag. -/
def State.writeElems (s : State) (r : BitVec 7) (tag : Nat) (l : List (Nat × Nat)) : State :=
  s.setVreg r ((s.dst r).writeAll s.vlim tag l)

/-! ## Issue checks (03 R41) -/

/-- Encoding checks of a vector instruction: a user thread, and registers that are declared (03 R27, R40). -/
def vecIssue (s : State) (regs : List (BitVec 7)) (k : Unit → Out) : Out :=
  if s.sup || regs.any (fun r => s.me.vec.nregs ≤ r.toNat) then instrFault s 0x10 else k ()

/-- A tag check: cause 0x12 when it fails. -/
def tagCheck (s : State) (ok : Bool) (k : Unit → Out) : Out := if ok then k () else instrFault s 0x12

/-- An instruction that writes vector register d waits, its issue checks passed, while a live copy command uses d as its
chunk mask (03 R41, 11 R234). -/
def chunkWait (s : State) (d : BitVec 7) (k : Unit → Out) : Out :=
  if s.me.cmds.any (fun c => c.id == d.toNat) then
    .next (s.modMe (fun t => { t with status := .engineWait t.cmds.length }))
  else k ()

/-- The tag check of an instruction that writes vector register d, and then its wait. -/
def tagWrite (s : State) (d : BitVec 7) (ok : Bool) (k : Unit → Out) : Out := tagCheck s ok fun _ => chunkWait s d k

/-- A masked instruction needs v0 tagged MSK (07 R124). -/
def maskOk (s : State) (m : Bool) : Bool := !m || s.vtag 0 == tagMsk

/-! ## Active elements (07 R124) -/

/-- Whether an element is selected by the mask. -/
def selected (s : State) (m : Bool) (e : Nat) : Bool := !m || (s.vreg 0).bit e

/-- The element a replay starts at. -/
def startElem (t : Thread) : Nat := if t.replay.isSome then t.vec.es else 0

/-- The active elements, ascending. -/
def activeElems (s : State) (m : Bool) : List Nat :=
  let t := s.me
  (List.range t.vec.al).filter (fun e => startElem t ≤ e && selected s m e)

/-! ## Policies (07 R125) -/

/-- The positions below VL that an instruction does not write, when AL ends at `al`: z sets them to 0. Positions that a
replay finds completed are written ones. -/
def zeroOthers (s : State) (r : BitVec 7) (tag : Nat) (m z : Bool) (al : Nat) (also : Nat → Bool) : State :=
  if z then
    s.writeElems r tag (((List.range s.me.vec.vl).filter
      (fun e => !(e < al && selected s m e && also e))).map (fun e => (e, 0)))
  else s

/-! ## Trimming and trapping (07 R127, R128) -/

/-- The first fault of an instruction: its element, the fault, and the hint pages of further faulting elements. -/
structure EltFault where
  elem : Nat
  flt : Flt
  hints : List Nat
  deriving DecidableEq, Repr

/-- Elements checked in order: the first that stops. -/
def firstStop (chk : Nat → Option Stop) : List Nat → Option (Nat × Stop)
  | [] => none
  | e :: r =>
    match chk e with
    | some x => some (e, x)
    | none => firstStop chk r

/-- Further faulting pages other than the first fault's, in element order, at most four (19 R310). -/
def hintPages (chk : Nat → Option Stop) (first : Flt) (after : List Nat) : List Nat :=
  let pages := after.filterMap (fun e =>
    match chk e with
    | some (.flt f) => if f.va.map vpnOf = first.va.map vpnOf then none else f.va.map vpnOf
    | _ => none)
  pages.eraseDups.take 4

/-- What the checks of an instruction's elements say. -/
inductive Verdict where
  | clean
  | wait
  | fault (f : EltFault)
  deriving DecidableEq, Repr

def judge (chk : Nat → Option Stop) (act : List Nat) : Verdict :=
  match firstStop chk act with
  | none => .clean
  | some (_, .wait) => .wait
  | some (e, .flt f) => .fault { elem := e, flt := f, hints := hintPages chk f (act.filter (e < ·)) }

/-- A notice record of the executing thread (07 R127, 19 R312). -/
def postNotice (s : State) (cause : Nat) (va : Option Word) (elem : Nat) (hints : List Nat) (map : Option Nat) : State :=
  let t := s.me
  let core := coreOfKey s.cur
  let o := ownerOf s t.ctx cause map
  let r : Record :=
    { cause := cause, kind := 0, level := (s.ctxAt o.1).depth, deleg := o.2, pcres := false,
      misslvl := missLevel s t.ctx cause map,
      nested := false, ctx := t.ctx, core := core, thread := slotOfKey s.cur, token := 0, va := recordVa s va, pc := t.curPc,
      elem := elem, cmd := 0, sect := 0, chunk := 0, hints := hints, orig := (0, 0) }
  (s.post core o.1 { record := r, resume := t.curPc, mstep := 0 }).bump

/-- The instruction leaves the scalar side: the next one follows while it waits to be replayed. -/
def Thread.passBy (t : Thread) (w : BitVec 32) (regs : Map VReg) : Thread :=
  match t.replay with
  | some _ => t
  | none =>
    let r := some { word := w, pc := t.curPc, regs := regs, rows := [] }
    match t.vec.loop with
    | some l => { t with replay := r, vec := { t.vec with loop := some { l with next := l.next + 1 } } }
    | none => { t with replay := r, pc := t.pc + 4 }

/-- A trap of an instruction that the scalar side has passed: PCRES = 0, and the release replays it (07 R127, 19
R315). -/
def vectorTrap (s : State) (regs : Map VReg) (cause : Nat) (va : Option Word) (elem : Nat) (hints : List Nat)
    (map : Option Nat) : State :=
  let pc := s.me.curPc
  let steps := s.execSteps
  let s := s.modMe (fun t => t.passBy s.word regs)
  takeTrap s s.cur { cause := cause, va := va, elem := elem, hints := hints, map := map, pcres := false, pc := pc,
                     resume := pc, steps := steps }

/-- The bound of a fault at element f (07 R127). -/
def boundOf (v : Vec) (f : Nat) : Nat := f / 2 ^ v.gran * 2 ^ v.gran

/-- Whether a fault at an element trims rather than traps (07 R127). -/
def trims (v : Vec) (f : Nat) : Bool := !v.freeze && 0 < boundOf v f

/-- What a forced pre-emption makes of a verdict: its request is an element fault with cause 0x21 at the element where
it stops the instruction, unless an element below faults (07 R131). -/
def stopVerdict (t : Thread) (v : Verdict) : Verdict :=
  match t.stop with
  | none => v
  | some b =>
    let request : Verdict := .fault { elem := b, flt := { cause := 0x21, va := none, map := none }, hints := [] }
    if t.vec.freeze || t.vec.al ≤ b then v
    else match v with
      | .clean => request
      | .fault f => if f.elem < b then v else request
      | .wait => v

/-- What has been put in flight since a thread stood otherwise. -/
def Thread.raisedSince (t before : Thread) : List Flight := t.flights.take (t.flights.length - before.flights.length)

/-- Flags that an instruction which stops has raised so far are kept with its replay; none of them has reached FPFLAGS
(07 R130). -/
def holdFlags (before : Thread) (s : State) : State :=
  s.modMe (fun t => { t with
    fpflags := before.fpflags, flights := before.flights
    replay := t.replay.map (fun r => { r with
      flags := r.flags ||| flightFlags (t.raisedSince before)
      can := (r.can ++ (t.raisedSince before).flatMap Flight.can).eraseDups }) })

/-- An instruction brought to its end by its verdict. `issue` is what happens at issue, a tag written; `commit n`
performs the active elements below n; `close n` sets the other positions when the final AL is n. A trim lowers AL and
writes a notice for a memory cause; a trap leaves ES at the fault (07 R127), rounded down to a unit of `u` elements.
`onTrap` gives the cause under which a fault traps. While memory is not ready, nothing happens. -/
def settleBy (u : Nat) (onTrap : Nat → Nat) (s : State) (issue : State → State) (v : Verdict)
    (commit close : Nat → State → State) : Out :=
  match stopVerdict s.me v with
  | .wait => .next s
  | .clean => .next (close s.me.vec.al (commit s.me.vec.al (issue s))).retire
  | .fault f =>
    let s := s.meets f.flt
    let before := s.me
    if trims before.vec f.elem then
      let b := boundOf before.vec f.elem
      let s := commit b (issue s)
      let s := s.modVec (fun v => { v with al := b, cause := f.flt.cause })
      let s := s.tally (fun c => { c with trims := (c.trims + 1) % 2 ^ 64 })
      let s := if memoryCause f.flt.cause then
          postNotice s f.flt.cause f.flt.va f.elem f.hints f.flt.map else s
      .next (close b s).retire
    else
      let es := f.elem / u * u
      let s := commit es (issue s)
      let s := s.modVec (fun v => { v with es := es })
      .next (holdFlags before (vectorTrap s before.vregs (onTrap f.flt.cause) f.flt.va f.elem f.hints f.flt.map))

/-- The same for an instruction whose elements stand alone. -/
def settleVec (s : State) (issue : State → State) (v : Verdict) (commit close : Nat → State → State) : Out :=
  settleBy 1 id s issue v commit close

/-- What a forced pre-emption asks of an instruction without elements of its own, answered before its effect: AL is trimmed
where the request stands, and no record is written (07 R131; log entry 40). -/
def State.answer (s : State) : State :=
  match s.me.stop with
  | none => s
  | some b =>
    if s.me.vec.freeze || s.me.vec.al ≤ b then s
    else (s.modVec (fun v => { v with al := b, cause := 0x21 })).tally (fun c => { c with trims := (c.trims + 1) % 2 ^ 64 })

/-- Elements completed, counted (23 R351). -/
def countElems (n : Nat) (s : State) : State := s.tally (fun c => { c with elems := (c.elems + n) % 2 ^ 64 })

/-- The fault that a PSN-tagged source raises at every active element (08 R146). -/
def psnFault : Flt := { cause := 4, va := none, map := none }

/-! ## Element-wise computation -/

/-- What an element-wise instruction writes, and how it treats the elements it does not. -/
structure Dest where
  d : BitVec 7
  tag : Nat
  m : Bool
  z : Bool
  deriving DecidableEq, Repr

/-- An element-wise computation: `f e` is the result of element e with its exceptions. A PSN-tagged source faults every
active element; an enabled exception is an element fault with cause 0x07 (07 R130). -/
def elementwise (s : State) (o : Dest) (psn : Bool) (f : Nat → Nat × Flags) : Out :=
  let en := s.me.enables
  let act := activeElems s o.m
  let res := act.map (fun e => (e, f e))
  let chk : Nat → Option Stop := fun e =>
    if psn then some (.flt psnFault)
    else if trapsOn en (f e).2 then some (.flt { cause := 7, va := none, map := none }) else none
  let commit : Nat → State → State := fun n s =>
    let done := res.filter (fun p => p.1 < n)
    countElems done.length
      ((s.writeElems o.d o.tag (done.map (fun p => (p.1, p.2.1)))).raise [.vreg o.d.toNat] (done.foldl (fun a p => orF a p.2.2) 0))
  settleVec s (fun s => s.setTag o.d o.tag) (judge chk act) commit (fun n s => zeroOthers s o.d o.tag o.m o.z n (fun _ => true))

end Sys2Proof.Machine
end

