-- ==== Sys2Proof/Machine/ScalarMem.lean ====
section
/-! DEFINITION. Scalar loads and stores, atomics and cache maintenance (06 R109 to R114). -/

namespace Sys2Proof.Machine

/-- The size of a width value: 1, 2, 4 or 8 bytes (06 R109). -/
def widthSize (w : Nat) : Nat := 2 ^ (w % 4)

/-- A loaded value widened: widths 4 to 6 zero-extend, the others sign-extend. -/
def widen (w x : Nat) : Word := if 4 ≤ w then BitVec.ofNat 64 x else sext64 (8 * widthSize w) x

/-- A load into a register. -/
def loadTo (d : BitVec 7) (va : Word) (w : Nat) (s : State) : Out :=
  match loadScalar s va (widthSize w) with
  | .error e => stopAt s e
  | .ok (x, s) => s.finish d (widen w x)

/-- A store of a register's low bytes. -/
def storeFrom (d : BitVec 7) (va : Word) (w : Nat) (s : State) : Out :=
  match storeScalar s va (widthSize w) (s.rd d).toNat with
  | .error e => stopAt s e
  | .ok s => .next s.retire

/-- The address of a register and a scaled signed offset. -/
def offsetAddr (s : State) (a : BitVec 7) (w : Nat) (k : BitVec 8) : Word :=
  s.rd a + k.signExtend 64 * BitVec.ofNat 64 (widthSize w)

/-- The address of a register and a scaled register. -/
def indexAddr (s : State) (a b : BitVec 7) (w : Nat) : Word := s.rd a + s.rd b * BitVec.ofNat 64 (widthSize w)

def execLd (d a : BitVec 7) (w : BitVec 3) (k : BitVec 8) (s : State) : Out :=
  if w = 7 then instrFault s 0x10 else loadTo d (offsetAddr s a w.toNat k) w.toNat s

def execSt (d a : BitVec 7) (w : BitVec 2) (k : BitVec 8) (s : State) : Out :=
  storeFrom d (offsetAddr s a w.toNat k) w.toNat s

def execLdx (d a b : BitVec 7) (w : BitVec 3) (s : State) : Out :=
  if w = 7 then instrFault s 0x10 else loadTo d (indexAddr s a b w.toNat) w.toNat s

def execStx (d a b : BitVec 7) (w : BitVec 2) (s : State) : Out := storeFrom d (indexAddr s a b w.toNat) w.toNat s

/-! ## Atomics (06 R112, R113) -/

/-- Every check of an atomic of `n` bytes. `onHost` says that a PCIe AtomicOp carries the variant; an AtomicOp that
completes with an error may have performed, and then `perform` gives the state in which it has. -/
def checkAtomic (s : State) (e : Env) (va : Word) (n : Nat) (onHost : Bool) : Except Stop Place := do
  let p ← locate s e .both va n n
  if p.pas.any (s.poisonAtHome e.key) then .error (.flt (s.poisonFlt va p.pas))
  else if p.tier = 2 && !onHost then .error (.flt { cause := 6, va := some va, map := none }) else .ok p

/-- A line leaves the L1 of a thread: its poison there and its fill go with it (10 R219, 17 R303). No L1 holds a line of
the scratchpad, the host or a peer (10 R208). -/
def dropLine (s : State) (key : Nat) (pas : List Nat) : State :=
  match pas with
  | [] => s
  | pa :: _ =>
    if isSpad pa || uncachedPa pa then s
    else (s.clearL1 key pa).modCore (s.l1Of (coreOfKey key) pa) (fun c =>
      { c with l1Fills := Map.del (pa / 128) c.l1Fills })

/-- The thread's own stores that perform before an atomic of its does: those to the atomic's bytes, and, under the
strengthening mode, every older send, for stores perform in program order (17 R303). `older` says which sends are. -/
def State.beforeAtomic (s : State) (key : Nat) (pas : List Nat) (older : Pend → Bool) : State :=
  if s.rev1 key then
    s.settleNow key (pas ++ ((s.thread key).pend.filter (fun p => uncachedPa p.pa && older p)).map (·.pa))
  else s.settle key pas

/-- One read-modify-write at a home: the old bytes, and the state after it. The thread's L1 holds the line no longer (06
R112). -/
def atomicAt (s : State) (key : Nat) (p : Place) (f : Nat → Nat) : Nat × State :=
  let s := (s.beforeAtomic key p.pas (fun _ => true)).beforeHome key
  let r := s.readHome key p.pas
  let old := leNat r.1
  (old, dropLine (r.2.writeAtomic key .atomic (isSpad (p.pas.headD 0)) p.pas (leBytes p.pas.length (f old))) key p.pas)

/-- A scalar atomic: `f` gives the new value from the old. A link error traps with cause 0x05 and leaves it open whether
the host performed the atomic (06 R113). -/
def scalarAtomic (d : BitVec 7) (va : Word) (n : Nat) (onHost : Bool) (f : Nat → Nat) (s : State) : Out :=
  match checkAtomic s (s.env s.cur) va n onHost with
  | .error e => stopAt s e
  | .ok p =>
    let r := atomicAt s s.cur p f
    if p.pas.any s.linkError then
      let t := if p.tier = 2 && Config.failedAtomicPerforms s.fresh then r.2 else s
      stopAt t.bump (.flt { cause := 5, va := some va, map := none })
    else
      (r.2.tally (fun c => { c with bytesRead := (c.bytesRead + n) % 2 ^ 64,
                                    bytesWritten := (c.bytesWritten + n) % 2 ^ 64 })).finish d (sext64 (8 * n) r.1)

/-- A 64-bit atomic with operand gb. -/
def amo64 (onHost : Bool) (f : Word → Word → Word) (d a b : BitVec 7) (s : State) : Out :=
  let y := s.rd b
  scalarAtomic d (s.rd a) 8 onHost (fun o => (f (BitVec.ofNat 64 o) y).toNat) s

/-- A 32-bit atomic with operand gb[31:0]. -/
def amo32 (onHost : Bool) (f : BitVec 32 → BitVec 32 → BitVec 32) (d a b : BitVec 7) (s : State) : Out :=
  let y := (s.rd b).setWidth 32
  scalarAtomic d (s.rd a) 4 onHost (fun o => (f (BitVec.ofNat 32 o) y).toNat) s

def execAmoadd (d a b : BitVec 7) (s : State) : Out := amo64 true (fun o y => o + y) d a b s

def execAmoswap (d a b : BitVec 7) (s : State) : Out := amo64 true (fun _ y => y) d a b s

def execAmocas (d a b : BitVec 7) (s : State) : Out :=
  let x := s.rd d
  amo64 true (fun o y => if o = x then y else o) d a b s

def execAmoand (d a b : BitVec 7) (s : State) : Out := amo64 false (fun o y => o &&& y) d a b s

def execAmoor (d a b : BitVec 7) (s : State) : Out := amo64 false (fun o y => o ||| y) d a b s

def execAmoxor (d a b : BitVec 7) (s : State) : Out := amo64 false (fun o y => o ^^^ y) d a b s

def execAmomin (d a b : BitVec 7) (s : State) : Out := amo64 false (fun o y => if o.slt y then o else y) d a b s

def execAmomax (d a b : BitVec 7) (s : State) : Out := amo64 false (fun o y => if o.slt y then y else o) d a b s

def execAmominn (d a b : BitVec 7) (s : State) : Out := amo64 false (fun o y => if o.ult y then o else y) d a b s

def execAmomaxn (d a b : BitVec 7) (s : State) : Out := amo64 false (fun o y => if o.ult y then y else o) d a b s

def execAmoaddW (d a b : BitVec 7) (s : State) : Out := amo32 true (fun o y => o + y) d a b s

def execAmoswapW (d a b : BitVec 7) (s : State) : Out := amo32 true (fun _ y => y) d a b s

def execAmocasW (d a b : BitVec 7) (s : State) : Out :=
  let x := (s.rd d).setWidth 32
  amo32 true (fun o y => if o = x then y else o) d a b s

def execAmoandW (d a b : BitVec 7) (s : State) : Out := amo32 false (fun o y => o &&& y) d a b s

def execAmoorW (d a b : BitVec 7) (s : State) : Out := amo32 false (fun o y => o ||| y) d a b s

def execAmoxorW (d a b : BitVec 7) (s : State) : Out := amo32 false (fun o y => o ^^^ y) d a b s

/-! ## Cache maintenance (06 R114) -/

/-- The 128-byte line that contains an address. -/
def lineOf (va : Word) : Word := va &&& ~~~127#64

/-- The line of the executing thread's L1 that `cache.flush` or `cache.inval` names: its bytes' homes, none for an
uncached, write-combining, host, peer or window page, which they leave alone. -/
def l1Line (s : State) (key : Nat) (va : Word) : Except Stop (List Nat) :=
  if inWindow va then .ok []
  else
    let e := s.env key
    match transOf s e.ctx e.features (lineOf va) with
    | .error .wait => .error .wait
    | .error (.at_ m) =>
      .error (.flt { cause := 1, va := some va, map := if canonical va then some m else none })
    | .error (.unread c h) => .error (.flt { cause := c, va := some va, map := none, host := h })
    | .ok t =>
      if s.waitsAt t.pa then .error .wait
      else if t.tier ≤ 1 && t.cache = 0 then .ok ((List.range 128).map (fun i => t.pa + i))
      else .ok []

/-- `cache.flush`: the dirty bytes of a line in the thread's L1 reach their homes. -/
def flushLine (s : State) (key : Nat) (va : Word) : Except Stop State := (l1Line s key va).map (settleLine s key)

/-- `cache.inval`: the line is written back and then leaves the L1. -/
def invalLine (s : State) (key : Nat) (va : Word) : Except Stop State :=
  (l1Line s key va).map (fun pas => dropLine (settleLine s key pas) key pas)

/-- An instruction on a line of the L1. -/
def cacheLine (r : Except Stop State) (s : State) : Out :=
  match r with
  | .error e => stopAt s e
  | .ok s => .next s.retire

def execCacheFlush (a : BitVec 7) (s : State) : Out := cacheLine (flushLine s s.cur (s.rd a)) s

def execCacheInval (a : BitVec 7) (s : State) : Out := cacheLine (invalLine s s.cur (s.rd a)) s

/-- 0 stored to the 128 bytes of a line; the store clears poison (10 R220). A fault records the line's address (log entry
81). -/
def execCacheZero (a : BitVec 7) (s : State) : Out :=
  let va := lineOf (s.rd a)
  match checkWrite s (s.env s.cur) va 128 1 with
  | .error e => stopAt s e
  | .ok p =>
    let s := (s.store s.cur p.pas p.pas (List.replicate 128 0)).afterStore s.cur
    .next (s.tally (fun c => { c with bytesWritten := (c.bytesWritten + 128) % 2 ^ 64 })).retire

/-- A fetch into L1 changes nothing but timing and reports nothing. -/
def execCachePref (_a : BitVec 7) (s : State) : Out := .next s.retire

end Sys2Proof.Machine
end

