-- ==== Sys2Proof/Machine/Sync.lean ====
section
/-! DEFINITION. Phase consistency: `phase`, barriers, waits and `vacq` (17 R286 to R302). -/

namespace Sys2Proof.Machine

/-! ## phase (17 R297) -/

def execPhase (s_ : BitVec 2) (s : State) : Out := afterMarkers s fun _ => .next (s.phase s.cur s_.toNat).retire

/-! ## Barriers (17 R298 to R300) -/

/-- A barrier that refuses an arrival: the cause and the barrier's address (log entry 29). -/
def badBarrier (va : Word) : Stop := .flt { cause := 0x13, va := some va, map := none }

/-- PHASE and ARRIVED after n arrivals: the phase rises each time the arrivals reach EXPECTED. -/
def arrivals (phase expected arrived n : Nat) : Nat × Nat :=
  ((phase + (arrived + n) / expected) % 2 ^ 32, (arrived + n) % expected)

/-- Whether an arrival is refused (17 R299). -/
def refusesArrival (expected arrived n : Nat) : Bool := n == 0 || 65535 < n || expected == 0 || expected ≤ arrived

/-- What an arrival writes to a barrier's bytes, by offset: PHASE where it rises, then ARRIVED; nothing where it is
refused. -/
def barrierWrites (old : List Byte) (n : Nat) : List (Nat × List Byte) :=
  let phase := leNat (old.take 4)
  let expected := leNat ((old.drop 4).take 2)
  let arrived := leNat ((old.drop 8).take 2)
  let x := arrivals phase expected arrived n
  if refusesArrival expected arrived n then []
  else (if x.1 = phase then [] else [(0, leBytes 4 x.1)]) ++ [(8, leBytes 2 x.2)]

/-- The environment of a thread under an older value of SWZ. -/
def State.envUnder (s : State) (key : Nat) (swz : Word) : Env :=
  { s.env key with spad := (s.env key).spad.map (fun p => { p with swz := swz }) }

/-- The update of a barrier by a thread, after its publication: one atomic at the home of PHASE to ARRIVED. Under the
strengthening mode the thread's sends older than its `arrive` perform before it (17 R303). -/
def updateBarrier (s : State) (key : Nat) (e : Env) (va n : Word) : Except Stop State :=
  match checkAtomic s e va 32 false with
  | .error e => .error e
  | .ok p =>
    match checkLink s va p with
    | .error e => .error e
    | .ok _ =>
      let s := (s.beforeAtomic key p.pas (fun p => p.behind == 0)).beforeHome key
      let r := s.readHome key (p.pas.take 10)
      let expected := leNat ((r.1.drop 4).take 2)
      let arrived := leNat ((r.1.drop 8).take 2)
      if refusesArrival expected arrived n.toNat then .error (badBarrier va)
      else
        let phase := leNat (r.1.take 4)
        let x := arrivals phase expected arrived n.toNat
        let spad := isSpad (p.pas.headD 0)
        let s := if x.1 = phase then r.2 else r.2.writeAtomic key .counted spad (p.pas.take 4) (leBytes 4 x.1)
        .ok (s.writeAtomic key .counted false ((p.pas.drop 8).take 2) (leBytes 2 x.2))

/-- A pending store with one marker fewer before it. -/
def Pend.passed (p : Pend) : Pend := { p with behind := p.behind - 1 }

/-- Whether a thread is stalled on a trap. -/
def Thread.isTrapped (t : Thread) : Bool := match t.status with
  | .trapped _ => true
  | _ => false

/-- The trap of a thread's oldest marker: in the leading element, at the `arrive`; the marker stays to fire again when the
trap is released (17 R300). -/
def trapMarker (s : State) (key : Nat) (m : Marker) (f : Flt) : State :=
  let s := (s.meets f).modThread key (fun t =>
    { t with vec := { t.vec with es := 0 }, markers := t.markers.modifyHead (fun m => { m with stalled := true }) })
  takeTrap s key { cause := f.cause, va := f.va, elem := 0, hints := [], map := f.map, pcres := false, pc := m.pc,
                   resume := m.pc }

/-- A thread's oldest marker fires, doing all of 17 R299 under the SWZ of its `arrive` (10 R206). Its publication is of
the stores older than it, once; while the barrier's memory is not ready the boundary is not complete. A fault that it
meets is a trap; on a thread that is stalled already, on a younger instruction, it waits for that one's release (17
R300; log entry 76). -/
def fireMarker (s : State) (key : Nat) : State :=
  match (s.thread key).markers with
  | [] => s
  | m :: rest =>
    let s := s.publishMarkerAt key 0
    match updateBarrier s key (s.envUnder key m.swz) m.addr m.count with
    | .ok s => s.modThread key (fun t => { t with markers := rest, pend := t.pend.map Pend.passed })
    | .error .wait => s
    | .error (.flt f) => if (s.thread key).isTrapped then s else trapMarker s key m f

/-- Whether a thread's older instructions have retired, so that its markers may fire: a replay would be an older one, and
a trap is of a younger one unless the oldest marker has raised it (17 R300). -/
def Thread.markersDue (t : Thread) : Bool :=
  match t.markers with
  | [] => false
  | m :: _ => t.replay.isNone && t.status != .off && !(t.isTrapped && m.stalled)

/-- Markers fire one after another until none is left or one does not fire. -/
def fireMarkers (s : State) (key : Nat) : Nat → State
  | 0 => s
  | n + 1 => if (s.thread key).markersDue then fireMarkers (fireMarker s key) key n else s

/-- All of a thread's markers. -/
def State.fireAll (s : State) (key : Nat) : State := fireMarkers s key (s.thread key).markers.length

/-- On a user thread a marker enters the queue and FREEZE counts as set (17 R300). -/
def execArrive (a b : BitVec 7) (s_ : BitVec 2) (s : State) : Out :=
  let va := s.rd a
  let n := s.rd b
  if s.sup then
    let s := s.publish s.cur s_.toNat
    match updateBarrier s s.cur (s.env s.cur) va n with
    | .ok s => .next s.retire
    | .error e => stopAt s e
  else
    let m : Marker := { scope := s_.toNat, addr := va, count := n, pc := s.me.curPc, swz := s.me.swz }
    .next (s.modMe (fun t => { t with markers := t.markers ++ [m], vec := { t.vec with freeze := true } })).retire

/-! ## Waits (17 R301) -/

/-- The size and alignment of the object that a wait names. -/
def waitSize (kind : Nat) : Nat := if kind = 1 then 8 else 32

/-- The fields that a wait reads, as offset and size: PHASE, the word, or LANDED and with a count of 0 BEXP. -/
def waitFields (kind : Nat) (val : Word) : List (Nat × Nat) :=
  match kind with
  | 0 => [(0, 4)]
  | 1 => [(0, 8)]
  | _ => if val = 0 then [(16, 8), (24, 8)] else [(16, 8)]

/-- Every check of a wait (06 R110): where the object lies, and the poison and the link of what it reads at the home. -/
def checkWait (s : State) (e : Env) (kind : Nat) (va val : Word) : Except Stop Place := do
  let p ← locate s e .read va (waitSize kind) (waitSize kind)
  checkHome s va ((waitFields kind val).flatMap (fun f => (p.pas.drop f.1).take f.2))
  .ok p

/-- A field read at its home. -/
def homeField (s : State) (key : Nat) (pas : List Nat) (off n : Nat) : Nat × State :=
  let r := s.readHome key ((pas.drop off).take n)
  (leNat r.1, r.2)

/-- One repetition of a wait: whether its condition holds, with the observations made. Kind 0 is `waitb`, 1 `waitv`,
2 `waitc`. -/
def pollWait (s : State) (key kind : Nat) (va val : Word) : Except Stop (Bool × State) :=
  match checkWait s (s.env key) kind va val with
  | .error e => .error e
  | .ok p =>
    let s := s.beforeHome key
    match kind with
    | 0 =>
      let r := homeField s key p.pas 0 4
      .ok (r.1 != val.toNat % 2 ^ 32, r.2)
    | 1 =>
      let r := homeField s key p.pas 0 8
      .ok (r.1 != val.toNat, r.2)
    | _ =>
      let r := homeField s key p.pas 16 8
      if val = 0 then
        let q := homeField r.2 key p.pas 24 8
        .ok (q.1 ≤ r.1, q.2)
      else .ok (val.toNat ≤ r.1, r.2)

/-- A wait of the executing thread is looked at once: it ends with its acquire, or the thread stays not ready. -/
def tryWait (s : State) (kind : Nat) (va val : Word) (scope : Nat) : Out :=
  match pollWait s s.cur kind va val with
  | .error .wait => .next (s.modMe (fun t => { t with status := .waiting kind va val scope }))
  | .error (.flt f) => .next (trapAt ((s.meets f).modMe (fun t => { t with status := .ready })) f.cause f.va 0 f.map)
  | .ok (true, s) => .next ((s.acquire s.cur scope).modMe (fun t => { t with status := .ready })).retire
  | .ok (false, s) => .next (s.modMe (fun t => { t with status := .waiting kind va val scope }))

def execWaitb (a b : BitVec 7) (s_ : BitVec 2) (s : State) : Out := tryWait s 0 (s.rd a) (s.rd b) s_.toNat

def execWaitv (a b : BitVec 7) (s_ : BitVec 2) (s : State) : Out := tryWait s 1 (s.rd a) (s.rd b) s_.toNat

def execWaitc (a b : BitVec 7) (s_ : BitVec 2) (s : State) : Out := tryWait s 2 (s.rd a) (s.rd b) s_.toNat

/-! ## vacq (17 R302) -/

/-- The bits set in a packed register, ascending. -/
def VReg.setBits (v : VReg) : List Nat :=
  v.bytes.flatMap (fun p => ((List.range 8).filter (fun i => p.2.getLsbD i)).map (fun i => 8 * p.1 + i))

/-- Whether a store is a command's in some of its chunks. -/
def Undo.inChunks (e : Undo) (serial : Nat) (chunks : List Nat) : Bool :=
  match e.chunk with
  | some c => c.1 == serial && chunks.contains c.2
  | none => false

/-- The home times of a command's stores in some of its chunks. -/
def State.chunkStores (s : State) (serial : Nat) (chunks : List Nat) : List Nat :=
  (s.hist.filter (fun e => e.inChunks serial chunks)).map (·.time)

/-- Later stores to a command's bytes that an acquire of its chunks takes in their place: free ones among those of other
agents that have reached the home, but for what only `vacq` of another command takes (17 R294, R302; log entry 75). -/
def State.laterStores (s : State) (key serial : Nat) (chunks : List Nat) : List Nat :=
  let t := s.thread key
  (s.hist.filter (fun e =>
    e.who != .thread key && !(t.ownChunk e) && Config.acquireTakes s.fresh e.time &&
    s.hist.any (fun c => c.pa == e.pa && c.time < e.time && c.inChunks serial chunks))).map (·.time)

/-- The model marks a chunk as it completes, so no complete chunk is unmarked and nothing is waited for. The chunks'
bytes enter the snapshot, and the thread's boundaries publish them (17 R288, R294); a byte may take a later value of its
home order instead (17 R302). -/
def execVacq (a : BitVec 7) (s : State) : Out :=
  vecIssue s [a] fun _ =>
    tagCheck s (s.vtag a == tagChk) fun _ =>
      match Map.find a.toNat s.me.lastCmd with
      | none => .next s.answer.retire
      | some n =>
        let chunks := (s.vreg a).setBits
        let new := s.chunkStores n chunks
        let all_ := new ++ s.laterStores s.cur n chunks
        .next (s.answer.bump.modMe (fun t => { t with
          snap := all_.filter (fun x => !(t.snap.contains x)) ++ t.snap
          carry := new.filter (fun x => !(t.carry.contains x)) ++ t.carry })).retire

end Sys2Proof.Machine
end

