-- ==== Sys2Proof/Machine/Ring.lean ====
section
/-! DEFINITION. Rings (11 R239, R240). -/

namespace Sys2Proof.Machine

/-- A ring descriptor (11 R239). -/
structure RingDesc where
  slotSize : Nat
  slots : Nat
  base : Word
  free : Nat
  filled : Nat
  rid : Nat
  reserved : Nat
  wpos : Nat
  rpos : Nat
  deriving DecidableEq, Repr

def RingDesc.ofBytes (l : List Byte) : RingDesc :=
  { slotSize := bytesField l 0 4, slots := bytesField l 4 4, base := BitVec.ofNat 64 (bytesField l 8 8), free := bytesField l 16 4,
    filled := bytesField l 20 4, rid := bytesField l 24 2, reserved := bytesField l 26 2, wpos := bytesField l 28 2, rpos := bytesField l 30 2 }

/-- Whether a descriptor breaks R239 or R240 in a context that holds `rings` rings; `baseOk` says that its BASE lies
in a tier that R239 allows. -/
def RingDesc.bad (r : RingDesc) (rings : Nat) (baseOk : Bool) : Bool :=
  r.slotSize % 64 != 0 || r.slotSize < 64 || 1048576 < r.slotSize || r.slots == 0 || 65536 < r.slots ||
  r.base.toNat % 64 != 0 || !baseOk || r.reserved != 0 || r.slots ≤ r.wpos || r.slots ≤ r.rpos ||
  r.slots < r.free + r.filled || rings ≤ r.rid

/-- The scope of a ring (11 R239). -/
def RingDesc.scope (r : RingDesc) : Nat := if inWindow r.base then 0 else 2

/-- The address of a slot. -/
def RingDesc.slotAddr (r : RingDesc) (pos : Nat) : Word := r.base + BitVec.ofNat 64 (pos * r.slotSize)

/-- Slots taken by a writer, with the address handed out, when enough are free. -/
def RingDesc.takeFree (r : RingDesc) (n : Nat) : Option (Word × RingDesc) :=
  if n ≤ r.free then some (r.slotAddr r.wpos, { r with free := r.free - n, wpos := (r.wpos + n) % r.slots }) else none

/-- Slots taken by a reader. -/
def RingDesc.takeFilled (r : RingDesc) (n : Nat) : Option (Word × RingDesc) :=
  if n ≤ r.filled then some (r.slotAddr r.rpos, { r with filled := r.filled - n, rpos := (r.rpos + n) % r.slots })
  else none

def RingDesc.take_ (r : RingDesc) (write : Bool) (n : Nat) : Option (Word × RingDesc) :=
  if write then r.takeFree n else r.takeFilled n

/-- Slots released by a writer (they are filled) or by a reader (they are free); none where that would exceed SLOTS. -/
def RingDesc.release (r : RingDesc) (write : Bool) (n : Nat) : Option RingDesc :=
  if r.slots < r.free + r.filled + n then none
  else if write then some { r with filled := r.filled + n } else some { r with free := r.free + n }

/-- Whether BASE lies in HBM, LPDDR6 or the window range (11 R239). -/
def ringBaseOk (s : State) (e : Env) (base : Word) : Except Stop Bool :=
  if inWindow base then .ok true
  else match transOf s e.ctx e.features base with
    | .error .wait => .error .wait
    | .error (.at_ _) => .ok false
    | .error (.unread c h) => .error (.flt { cause := c, va := some base, map := none, host := h })
    | .ok t => .ok (t.tier ≤ 1)

/-- A descriptor reached as a one-element access that reads and writes it (11 R240). -/
def ringPlace (s : State) (e : Env) (va : Word) : Except Stop Place := do
  let p ← checkAtomic s e va 32 false
  checkLink s va p
  .ok p

/-- A refusal of a ring handle: cause 0x13 with the descriptor's address (log entry 29). -/
def badRing (va : Word) : Stop := .flt { cause := 0x13, va := some va, map := none }

/-- A descriptor's checks: its contents at the home against R239 and R240. A descriptor in a peer window is none. -/
def ringDesc (s : State) (e : Env) (va : Word) (p : Place) : Except Stop RingDesc :=
  let r := RingDesc.ofBytes (p.pas.map s.home)
  match ringBaseOk s e r.base with
  | .error x => .error x
  | .ok ok =>
    if p.tier = 3 || r.bad (s.ctxAt e.ctx).budget.rings ok then .error (badRing va) else .ok r

/-- The fields that a ring instruction writes, as their offset and bytes: an acquire writes its counter and its
position, a release its counter (11 R240). `filled` says that the counter is FILLED. -/
def RingDesc.fields (r : RingDesc) (acquire filled : Bool) : List (Nat × List Byte) :=
  (if filled then [(20, leBytes 4 r.filled)] else [(16, leBytes 4 r.free)]) ++
  (if !acquire then [] else if filled then [(30, leBytes 2 r.rpos)] else [(28, leBytes 2 r.wpos)])

/-- A changed descriptor written at its home as one atomic of an agent; a release is a count that a later acquire of its
slots observes. -/
def writeRing (s : State) (who : Agent) (p : Place) (r : RingDesc) (acquire filled : Bool) : State :=
  (r.fields acquire filled).foldl (fun s f =>
    let pas := (p.pas.drop f.1).take f.2.length
    let kind : StoreKind := if acquire then .atomic else .counted
    match who with
    | .thread key => s.writeAtomic key kind (isSpad (p.pas.headD 0) && f.2.length == 4) pas f.2
    | _ => s.writeHome who kind (isSpad (p.pas.headD 0) && f.2.length == 4) pas f.2) s

/-! ## Requests (11 R240) -/

/-- Whether no earlier request waits at a counter. -/
def ringTurn (s : State) (pa : Nat) (write : Bool) (who : Sum Nat Nat) : Bool :=
  match s.rings.find? (fun r => r.pa == pa && r.write == write) with
  | none => true
  | some r => r.who == who

/-- The requests of an asker forgotten. -/
def dropRequests (s : State) (who : Sum Nat Nat) : State := { s with rings := s.rings.filter (fun r => r.who != who) }

/-- A request that waits joins its counter's requests. -/
def joinRing (s : State) (pa : Nat) (write : Bool) (who : Sum Nat Nat) : State :=
  if s.rings.any (fun r => r.who == who) then s
  else { s with rings := s.rings ++ [{ pa := pa, write := write, who := who }] }

/-! ## The instructions -/

/-- The executing thread's access to a descriptor: where it lies, what it holds, and the state in which the thread's own
bytes of it, and under the strengthening mode its older sends (17 R303), are at their homes and its read of it is an
observation. -/
def openRing (s : State) (va : Word) : Except Stop (Place × RingDesc × State) :=
  let e := s.env s.cur
  match ringPlace s e va with
  | .error x => .error x
  | .ok p =>
    let s := ((s.beforeAtomic s.cur p.pas (fun _ => true)).beforeHome s.cur)
    match ringDesc s e va p with
    | .error x => .error x
    | .ok r => .ok (p, r, (s.readHome s.cur p.pas).2)

/-- A ring acquire of the executing thread: it takes its slots, or it waits in the order of the requests. -/
def tryRing (s : State) (write : Bool) (va n : Word) (d : BitVec 7) : Out :=
  let who : Sum Nat Nat := .inl s.cur
  let stay (s : State) : State := s.modMe (fun t => { t with status := .ringWait write va n d })
  let stop (x : Stop) : Out :=
    match x with
    | .wait => .next (stay s)
    | .flt f => .next (trapAt ((dropRequests s who).meets f) f.cause f.va 0 f.map)
  match openRing s va with
  | .error x => stop x
  | .ok (p, r, t) =>
    if n = 0 || r.slots < n.toNat then stop (badRing va)
    else
      let pa := p.pas.headD 0
      match (if ringTurn t pa write who then r.take_ write n.toNat else none) with
      | none => .next (stay (joinRing t pa write who))
      | some (addr, r') =>
        let t := writeRing (dropRequests t who) (.thread t.cur) p r' true (!write)
        let t := (t.acquire t.cur r.scope).modMe (fun t => { t with status := .ready })
        t.finish d addr

/-- A ring release: publish, then raise the counter. -/
def releaseRing (s : State) (write : Bool) (va n : Word) : Out :=
  userOnly s fun _ => afterMarkers s fun _ =>
    match openRing s va with
    | .error x => stopAt s x
    | .ok (p, r, t) =>
      if n = 0 || r.slots < n.toNat then stopAt s (badRing va)
      else match r.release write n.toNat with
        | none => stopAt s (badRing va)
        | some r' =>
          let t := t.publish t.cur r.scope
          .next (writeRing t (.thread t.cur) p r' false write).retire

def execRacqr (d a b : BitVec 7) (s : State) : Out := userOnly s fun _ => tryRing s false (s.rd a) (s.rd b) d

def execRrelr (a b : BitVec 7) (s : State) : Out := releaseRing s false (s.rd a) (s.rd b)

def execRacqw (d a b : BitVec 7) (s : State) : Out := userOnly s fun _ => tryRing s true (s.rd a) (s.rd b) d

def execRrelw (a b : BitVec 7) (s : State) : Out := releaseRing s true (s.rd a) (s.rd b)

end Sys2Proof.Machine
end

