-- ==== Sys2Proof/Machine/Control.lean ====
section
/-! DEFINITION. Jumps, branches, the window, hints, coordinates and probes (06 R96, R107, R108, R117 to R119). -/

namespace Sys2Proof.Machine

/-- A jump target: the instruction's own address plus four times a signed displacement (03 R26). -/
def relTarget (s : State) {n : Nat} (disp : BitVec n) : Word := s.me.curPc + (disp.signExtend 64 <<< 2)

def execJ (disp : BitVec 25) (s : State) : Out := .next (s.jump (relTarget s disp))

def execJal (disp : BitVec 25) (s : State) : Out :=
  .next ((s.wr 15 (s.me.curPc + 4)).jump (relTarget s disp))

/-- A jump to a register's value; a target that is no multiple of 4 traps with cause 0x03 (06 R107). -/
def jumpTo (target : Word) (s : State) (k : State → State) : Out :=
  if target.toNat % 4 ≠ 0 then .next (trapAt s 3 (some target) 0 none) else .next ((k s).jump target)

def execJr (a : BitVec 7) (s : State) : Out := jumpTo (s.rd a) s id

def execJalr (d a : BitVec 7) (s : State) : Out := jumpTo (s.rd a) s (fun s => s.wr d (s.me.curPc + 4))

/-- A conditional branch (06 R107). -/
def branch (c : Bool) (disp : BitVec 15) (s : State) : Out := .next (if c then s.jump (relTarget s disp) else s.retire)

def execBeqz (a : BitVec 7) (disp : BitVec 15) (s : State) : Out := branch (s.rd a == 0) disp s

def execBnez (a : BitVec 7) (disp : BitVec 15) (s : State) : Out := branch (s.rd a != 0) disp s

def execBltz (a : BitVec 7) (disp : BitVec 15) (s : State) : Out := branch ((s.rd a).toInt < 0) disp s

def execBgez (a : BitVec 7) (disp : BitVec 15) (s : State) : Out := branch (0 ≤ (s.rd a).toInt) disp s

def execBgtz (a : BitVec 7) (disp : BitVec 15) (s : State) : Out := branch (0 < (s.rd a).toInt) disp s

def execBlez (a : BitVec 7) (disp : BitVec 15) (s : State) : Out := branch ((s.rd a).toInt ≤ 0) disp s

/-- A branch on vector state reads it once every older instruction that can change AL or ITX has finished (06 R108, 07
R133). -/
def branchVec (c : Bool) (disp : BitVec 15) (s : State) : Out := userOnly s fun _ => branch c disp (s.settled [.length])

def execBtrim (disp : BitVec 15) (s : State) : Out := branchVec (s.me.vec.al < s.me.vec.vl) disp s

def execBdone (disp : BitVec 15) (s : State) : Out := branchVec s.me.vec.itx disp s

/-! ## The window (06 R96, 03 R30) -/

/-- A window base that WB may hold. -/
def validWb (x : Int) : Bool := 0 ≤ x && x ≤ 384 && x % 16 == 0

def execWinb (n : BitVec 10) (s : State) : Out :=
  let x : Int := (s.me.wb : Int) + 16 * n.toInt
  if validWb x then .next (s.modMe (fun t => { t with wb := x.toNat })).retire else instrFault s 0x10

def execWinba (n : BitVec 10) (s : State) : Out :=
  let x : Int := 16 * (n.toNat : Int)
  if validWb x then .next (s.modMe (fun t => { t with wb := x.toNat })).retire else instrFault s 0x10

/-! ## Hints (06 R118) -/

/-- The user threads of a core that are ready. -/
def readyUsers (s : State) (core : Nat) : List Nat :=
  (List.range 4).filter (fun k => (s.thread (threadKey core k)).status == .ready)

def execHintYield (s : State) : Out :=
  let s := s.retire
  if s.sup then .next s
  else
    let core := coreOfKey s.cur
    let others := (readyUsers s core).filter (· != slotOfKey s.cur)
    .next (s.modMe (fun t => { t with status := .yield (s.cycle core + 64) others }))

def execHintPause (n : BitVec 16) (s : State) : Out :=
  let s := s.retire
  .next (s.modMe (fun t => { t with status := .pause (s.cycle (coreOfKey s.cur) + n.toNat) }))

/-- A fetch into the instruction cache changes nothing but timing. -/
def execHintPrefi (_disp : BitVec 16) (s : State) : Out := .next s.retire

/-! ## Coordinates (06 R117) -/

def execCoord (d : BitVec 7) (which : BitVec 3) (s : State) : Out :=
  let core := coreOfKey s.cur
  let user (f : Task → Word) : Out :=
    userOnly s (fun _ => s.finish d ((s.me.task.map f).getD 0))
  match which.toNat with
  | 0 => user (fun t => BitVec.ofNat 64 (t.k % t.tasks))
  | 1 => user (fun t => BitVec.ofNat 64 t.crew)
  | 2 => user (fun t => t.handle)
  | 3 => user (fun t => BitVec.ofNat 64 (t.k / t.tasks))
  | 4 => s.finish d (BitVec.ofNat 64 core)
  | 5 => s.finish d (BitVec.ofNat 64 (core / 4))
  | 6 => s.finish d (BitVec.ofNat 64 (s.ctxAt s.me.ctx).depth)
  | _ => instrFault s 0x10

/-! ## Probes (06 R119) -/

/-- The probe word of a translation. -/
def probeWord : Except Miss Trans → Word
  | .error (.at_ m) => BitVec.ofNat 64 (m * 2 ^ 9)
  | .error _ => 0
  | .ok t => BitVec.ofNat 64 (1 + 2 * b2n t.rDeny.isNone + 4 * b2n t.wDeny.isNone + 8 * b2n t.xDeny.isNone +
      16 * t.tier + 64 * t.cache + 4096 * b2n t.large + 65536 * t.key)

/-- A probe's word; one whose walk meets poison or a link error in a table is open, for the manual states no result there
(log entry 73). -/
def probeAnswer (n : Nat) (t : Except Miss Trans) : Word :=
  match t with
  | .error (.unread _ _) => Config.openWord n
  | t => probeWord t

/-- A probe of an address in a context; while a table's memory is not ready the instruction waits (23 R347). Poison that
host data brings to the walk is counted (10 R219). -/
def probeIn (s : State) (d : BitVec 7) (ctx features : Nat) (va : Word) : Out :=
  let t := transOf s ctx features va
  match t with
  | .error .wait => .next s
  | .error (.unread c h) =>
    (s.meets { cause := c, va := some va, map := none, host := h }).bump.finish d (probeAnswer s.fresh t)
  | _ => s.finish d (probeWord t)

def execProbe (d a : BitVec 7) (s : State) : Out :=
  let e := s.env s.cur
  probeIn s d e.ctx e.features (s.rd a)

def execProbec (d a b : BitVec 7) (s : State) : Out :=
  supOnly s (fun _ =>
    let id := (s.rd b).toNat
    if !(s.inSubtree s.me.ctx id) then instrFault s 0x11
    else if !(s.live id) then instrFault s 0x13
    else probeIn s d id s.features (s.rd a))

end Sys2Proof.Machine
end

