-- ==== Sys2Proof/Machine/Creg.lean ====
section
/-! DEFINITION. The control registers and crd, cwr and cxchg (03 R45, R46; 04 R48; 05 R90; 06 R97 to R99; 07 R120;
10 R205, R206; 12 R251; 15 R274; 19 R313, R314; 23 R350). -/

namespace Sys2Proof.Machine

def w64 (n : Nat) : Word := BitVec.ofNat 64 n

/-! ## Reading -/

/-- The working lanes of a lane group; a group has 16 lanes (05 R87). -/
def workingLanes (c : Core) (g : Nat) : Nat := 16 - popCount 16 (Map.getD g 0 c.retired)

/-- Groups with at least one working lane, as a mask (05 R90). -/
def workMask (c : Core) : Nat := ((List.range 16).map (fun g => if 0 < workingLanes c g then 2 ^ g else 0)).sum

/-- LANEMAP of a thread: without a grant it has no working lanes in one (05 R90). -/
def laneMap (s : State) (key : Nat) : Word :=
  let c := s.coreAt (coreOfKey key)
  let t := s.thread key
  let lanes := if t.vec.grant = 0 then 0 else t.vec.lanes
  let own := if isSupervisor key then 0 else t.vec.grant + lanes * 2 ^ 32
  w64 (own + workMask c * 2 ^ 16 + c.gated * 2 ^ 48)

def Vec.vstat (v : Vec) : Nat :=
  v.cause + 256 * b2n v.freeze + 512 * b2n v.itx + 1024 * b2n v.more + 2048 * b2n v.starved

def Vec.vtype (v : Vec) : Nat := v.fmt + v.flush * 2 ^ 5 + v.gran * 2 ^ 7 + v.decl * 2 ^ 11

def Vec.loopst (v : Vec) : Nat :=
  match v.loop with
  | none => 0
  | some l => l.len + (l.next % 32) * 2 ^ 6 + b2n l.par * 2 ^ 11 + 2 ^ 12

/-- ITSTAT (15 R274). -/
def Thread.itstat (t : Thread) : Nat :=
  (t.iters.map (fun p => 2 ^ p.1 + (if bitAt p.2.st 0 then 2 ^ (8 + p.1) else 0) +
    (if bitAt p.2.st 1 then 2 ^ (16 + p.1) else 0))).sum

/-- SPWIN of a thread (10 R205). -/
def Thread.spwin (t : Thread) : Nat :=
  match t.task with
  | none => 0
  | some k => k.spad + k.rank * 2 ^ 24 + k.spBase * 2 ^ 32

def HRegs.ecause (h : HRegs) : Nat := h.cause + b2n h.remove * 2 ^ 62 + b2n h.keep * 2 ^ 63

def MxRegs.mxcur (m : MxRegs) : Nat := m.k0 + m.j0 * 2 ^ 32

/-- A register that only user threads have, read or written by one: 0x10 on a supervisor thread (06 R97). -/
def userReg (sup : Bool) (v : Except Nat α) : Except Nat α := if sup then .error 0x10 else v

/-- A register of supervisor threads: 0x11 on a user thread. -/
def supReg (sup : Bool) (v : Except Nat α) : Except Nat α := if sup then v else .error 0x11

/-- The value of a control register for the executing thread, or the cause of the refusal. -/
def cread (s : State) (n : Nat) : Except Nat Word :=
  let t := s.me
  let sup := s.sup
  let root := s.rootSup
  let c := s.ctxAt t.ctx
  match n with
  | 0x000 => userReg sup (.ok (w64 t.vec.vtype))
  | 0x001 => userReg sup (.ok (w64 t.vec.vl))
  | 0x002 => userReg sup (.ok (w64 t.vec.al))
  | 0x003 => userReg sup (.ok (w64 t.vec.es))
  | 0x004 => userReg sup (.ok (w64 t.vec.vstat))
  | 0x005 => .ok t.fpcr
  | 0x006 => .ok t.fpflags
  | 0x007 => .ok (w64 t.wb)
  | 0x008 => userReg sup (.ok (w64 t.vec.maxvl))
  | 0x009 => userReg sup (.ok (w64 t.vec.loopst))
  | 0x00A => userReg sup (.ok ((t.vec.loop.map (·.pc)).getD 0))
  | 0x010 => .ok (w64 c.id)
  | 0x011 => .ok (w64 c.depth)
  | 0x012 => .ok (w64 c.budget.keys.length)
  | 0x013 => .ok (w64 c.count)
  | 0x020 => supReg sup (.ok (c.fqbase + w64 c.fqlog2))
  | 0x021 => supReg sup (.ok (w64 c.fqhead))
  | 0x022 => supReg sup (.ok (w64 (c.fqtail + c.dropped * 2 ^ 32)))
  | 0x023 => supReg sup (.ok c.deleg)
  | 0x024 => supReg sup (.ok t.h.epc)
  | 0x025 => supReg sup (.ok (w64 t.h.ecause))
  | 0x026 => supReg sup (.ok c.exitvec)
  | 0x027 => supReg sup (.ok c.trapvec)
  | 0x028 => supReg sup (.ok (w64 t.h.mstep))
  | 0x029 => supReg sup (.ok (b2w c.rev1))
  | 0x02A => supReg sup (.ok (c.imgbase + w64 c.imgcount))
  | 0x030 => .ok t.swz
  | 0x031 => .ok (w64 t.spwin)
  | 0x040 => .ok (laneMap s s.cur)
  | 0x044 => if root then .ok (w64 (s.bwClass + Map.getD s.bwClass 16 s.bwWeights * 2 ^ 16)) else .error 0x11
  | 0x050 => .ok (w64 (s.cycle (coreOfKey s.cur)))
  | 0x051 => .ok (w64 s.ns)
  | 0x052 => if root then .ok (w64 s.mgmt.ready) else .error 0x11
  | 0x053 => if root then .ok (w64 s.mgmt.failed) else .error 0x11
  | 0x054 => if root then .ok (w64 s.peerSel) else .error 0x11
  | 0x055 =>
    if root then .ok (w64 ((s.port s.peerSel).inCount * 2 ^ 16 + (s.port s.peerSel).inBase * 2 ^ 40)) else .error 0x11
  | 0x060 => .ok c.recbase
  | 0x061 => .ok (w64 c.budget.records)
  | 0x062 => userReg sup (.ok (w64 t.mx.mxcur))
  | 0x063 => userReg sup (.ok t.mx.mref0)
  | 0x064 => userReg sup (.ok t.mx.mref1)
  | 0x070 => userReg sup (.ok (w64 t.itstat))
  | _ => .error 0x10

/-- A read of FQTAIL has the effect of an acquire at scope p that takes every record counted (19 R313). A read of AL,
ES, VSTAT or FPFLAGS has waited for the older instructions that can change the register (06 R99), and so has one of MXCUR,
MREF0 or MREF1 for an older `mrx` (12 R251). -/
def creadEffect (s : State) (n : Nat) : State :=
  if n = 0x022 then s.acquireWith s.cur 2 (s.ctxAt s.me.ctx).fqstores
  else if n = 0x002 then s.settled [.length]
  else if n = 0x003 then s.settled [.steps]
  else if n = 0x004 then s.settled [.status]
  else if n = 0x006 then s.flagsSettled
  else if n = 0x062 || n = 0x063 || n = 0x064 then s.settled [.mx]
  else s

/-! ## Writing -/

/-- The step count of the served record's deprecated instruction, whether its fault is still held or released already; 0
when it is none (19 R313). -/
def HRegs.steps (h : HRegs) : Nat := (h.served.map (·.steps)).getD 0

/-- A written value that keeps its field's limits, or 0x10 (06 R98). -/
def guardWrite (bad : Bool) (s : State) : Except Nat State := if bad then .error 0x10 else .ok s

/-- FQBASE of the root (19 R314). -/
def writeFqbase (s : State) (v : Word) : Except Nat State :=
  let lg := bitsAt v.toNat 0 5
  guardWrite (bitsAt v.toNat 5 7 != 0 || (v != 0 && !(6 ≤ lg && lg ≤ 16)))
    (s.modCtx 0 (fun c => { c with fqbase := v &&& ~~~0xFFF#64, fqlog2 := lg, fqhead := 0, fqtail := 0, fqstores := [] }))

/-- FQHEAD (19 R313). -/
def writeFqhead (s : State) (v : Word) : Except Nat State :=
  let c := s.ctxAt s.me.ctx
  guardWrite (2 ^ 32 ≤ v.toNat || c.fqsize < (c.fqtail + 2 ^ 32 - v.toNat) % 2 ^ 32)
    (s.setCtx { c with fqhead := v.toNat })

/-- ECAUSE: only KEEP and REMOVE take the written value (19 R313). -/
def writeEcause (s : State) (v : Word) : Except Nat State :=
  guardWrite (bitsAt v.toNat 8 54 != 0 || bitsAt v.toNat 62 2 == 3)
    (s.modMe (fun t => { t with h := { t.h with keep := bitAt v.toNat 63, remove := bitAt v.toNat 62 } }))

/-- FPFLAGS: the sticky flags are replaced; flags of older instructions still in flight, any of those raised since the
thread last waited for them, are ORed into the written value (06 R99). Those may be in flight still at a later write. -/
def writeFpflags (s : State) (v : Word) : Except Nat State :=
  guardWrite (32 ≤ v.toNat) (
    if s.me.flights.isEmpty then s.modMe (fun t => { t with fpflags := v })
    else (s.modMe (fun t => t.overtake v (Config.openWord s.fresh))).bump)

/-- BWCLS: the weight of the named class (05 R90). -/
def writeBwcls (s : State) (v : Word) : Except Nat State :=
  let cls := bitsAt v.toNat 0 6
  guardWrite (bitsAt v.toNat 6 10 != 0 || bitsAt v.toNat 27 37 != 0)
    { s with bwClass := cls, bwWeights := Map.put cls (min (bitsAt v.toNat 16 11) 1024) s.bwWeights }

/-- A control register written by the executing thread, or the cause of the refusal. -/
def cwrite (s : State) (n : Nat) (v : Word) : Except Nat State :=
  let sup := s.sup
  let root := s.rootSup
  let x := v.toNat
  let setC (f : Context → Context) : State := s.modCtx s.me.ctx f
  let setT (f : Thread → Thread) : State := s.modMe f
  if n ≤ 0x004 || n = 0x008 || n = 0x009 || n = 0x00A then .error (if sup then 0x10 else 0x11)
  else match n with
  | 0x005 =>
    guardWrite (4 < bitsAt x 0 3 || bitsAt x 3 5 != 0 || bitsAt x 13 51 != 0) (setT (fun t => { t with fpcr := v }))
  | 0x006 => writeFpflags s v
  | 0x007 => guardWrite (x % 16 != 0 || 384 < x) (setT (fun t => { t with wb := x }))
  | 0x010 | 0x011 | 0x012 | 0x013 => .error 0x11
  | 0x020 => if root then writeFqbase s v else .error 0x11
  | 0x021 => supReg sup (writeFqhead s v)
  | 0x022 | 0x023 => .error 0x11
  | 0x024 => supReg sup (guardWrite (x % 4 != 0) (setT (fun t => { t with h := { t.h with epc := v } })))
  | 0x025 => supReg sup (writeEcause s v)
  | 0x026 => supReg sup (guardWrite (x % 4 != 0) (setC (fun c => { c with exitvec := v })))
  | 0x027 => supReg sup (guardWrite (x % 4 != 0) (setC (fun c => { c with trapvec := v })))
  | 0x028 =>
    supReg sup (guardWrite (2 ^ 16 ≤ x || (x != 0 && s.me.h.steps ≤ x))
      (setT (fun t => { t with h := { t.h with mstep := x } })))
  | 0x029 =>
    supReg sup (guardWrite (2 ≤ x || (x == 1 && !(bitAt s.mgmt.accepted 1))) (setC (fun c => { c with rev1 := x == 1 })))
  | 0x02A =>
    supReg sup (guardWrite (bitsAt x 16 7 != 0)
      (setC (fun c => { c with imgbase := v &&& ~~~0x7FFFFF#64, imgcount := bitsAt x 0 16 })))
  | 0x030 =>
    guardWrite (bitsAt x 29 35 != 0 || 6 ≤ bitsAt x 26 3 || bitsAt x 0 13 < bitsAt x 13 13)
      (setT (fun t => { t with swz := v }))
  | 0x031 => .error 0x11
  | 0x040 => .error 0x11
  | 0x044 => if root then writeBwcls s v else .error 0x11
  | 0x050 | 0x051 | 0x052 | 0x053 => .error 0x11
  | 0x054 => if root then guardWrite (16 ≤ x) { s with peerSel := x } else .error 0x11
  | 0x055 =>
    if root then guardWrite (bitsAt x 0 16 != 0)
      (s.setPort s.peerSel { s.port s.peerSel with inBase := bitsAt x 40 24, inCount := bitsAt x 16 24 })
    else .error 0x11
  | 0x060 => supReg sup (guardWrite (x % 64 != 0) (setC (fun c => { c with recbase := v })))
  | 0x061 => .error 0x11
  | 0x062 =>
    userReg sup (guardWrite (bitsAt x 21 11 != 0 || bitsAt x 32 7 != 0 || bitsAt x 52 12 != 0 ||
        1048576 < bitsAt x 0 21)
      (setT (fun t => { t with mx := { t.mx with k0 := bitsAt x 0 21, j0 := bitsAt x 32 20 } })))
  | 0x063 => userReg sup (.ok (setT (fun t => { t with mx := { t.mx with mref0 := v } })))
  | 0x064 => userReg sup (.ok (setT (fun t => { t with mx := { t.mx with mref1 := v } })))
  | 0x070 => .error (if sup then 0x10 else 0x11)
  | _ => .error 0x10

/-! ## The instructions (06 R98) -/

def execCrd (d : BitVec 7) (c : BitVec 11) (s : State) : Out :=
  match cread s c.toNat with
  | .error e => instrFault s e
  | .ok v => (creadEffect s c.toNat).finish d v

def execCwr (a : BitVec 7) (c : BitVec 11) (s : State) : Out :=
  match cwrite s c.toNat (s.rd a) with
  | .error e => instrFault s e
  | .ok t => .next t.retire

/-- Exchange: the write's right decides the cause; the operand is read, and the destination named, under the window
before the exchange. The read has its effect, the wait for older instructions, before the write. -/
def execCxchg (d a : BitVec 7) (c : BitVec 11) (s : State) : Out :=
  match cwrite (creadEffect s c.toNat) c.toNat (s.rd a) with
  | .error e => instrFault s e
  | .ok t =>
    match cread s c.toNat with
    | .error e => instrFault s e
    | .ok v =>
      let t := if d = 0 then t else t.modMe (fun x => { x with regs := Map.put (s.me.regIndex d) v x.regs })
      .next t.retire

/-- A register write that is a step of its own: it changes what `cwr` changes and leaves the PC. -/
def cwriteStep (s : State) (r : Except Nat State) : Out :=
  match r with
  | .error e => instrFault s e
  | .ok t => .next t

def execFqbaseWrite (v : Word) (s : State) : Out := cwriteStep s (cwrite s 0x020 v)

def execFqheadWrite (v : Word) (s : State) : Out := cwriteStep s (cwrite s 0x021 v)

def execFqtailRead (d : BitVec 7) (s : State) : Out :=
  match cread s 0x022 with
  | .error e => instrFault s e
  | .ok v => .next ((creadEffect s 0x022).wr d v)

def execEcauseWrite (v : Word) (s : State) : Out := cwriteStep s (cwrite s 0x025 v)

def execFpflagsWrite (v : Word) (s : State) : Out := cwriteStep s (cwrite s 0x006 v)

def execBwclsWrite (v : Word) (s : State) : Out := cwriteStep s (cwrite s 0x044 v)

end Sys2Proof.Machine
end

