-- ==== Sys2Proof/Machine/Fetch.lean ====
section
/-! DEFINITION. Instruction fetch (06 R94, R95). -/

namespace Sys2Proof.Machine

/-- What a thread fetches of a byte: the code of its last acquiring boundary, and its own stores up to its last
`phase`, whatever has put them at their homes (06 R95). -/
def Thread.fetches (t : Thread) (key : Nat) (e : Undo) : Bool :=
  if e.who == .thread key then e.time ≤ t.phaseAt else t.snap.contains e.time

/-- One byte of code as a thread fetches it. -/
def State.codeByte (s : State) (key pa : Nat) : Byte := (viewAt ((s.thread key).fetches key) pa (s.home pa) s.hist).1

/-- The home of a code word, or the fetch's failure (06 R94). -/
def fetchPlace (s : State) (key : Nat) (va : Word) : Except Stop Nat :=
  let e := s.env key
  if inWindow va then .error (.flt { cause := 2, va := some va, map := none })
  else if !(canonical va) then .error (.flt { cause := 1, va := some va, map := none })
  else match transOf s e.ctx e.features va with
    | .error .wait => .error .wait
    | .error (.at_ m) => .error (.flt { cause := 1, va := some va, map := some m })
    | .error (.unread c h) => .error (.flt { cause := c, va := some va, map := none, host := h })
    | .ok t =>
      match t.xDeny with
      | some m => .error (.flt { cause := 2, va := some va, map := some m })
      | none =>
        if 2 ≤ t.tier then .error (.flt { cause := 2, va := some va, map := none })
        else if s.waitsAt t.pa then .error .wait
        else if (List.range 4).any (fun i => s.failedAt (t.pa + i) || s.poisonedAt (t.pa + i)) then
          .error (.flt { cause := 4, va := some va, map := none })
        else .ok t.pa

/-- The word at an address. -/
def fetchWord (s : State) (key : Nat) (va : Word) : Except Stop (BitVec 32) :=
  match fetchPlace s key va with
  | .error e => .error e
  | .ok pa =>
    .ok (s.codeByte key (pa + 3) ++ s.codeByte key (pa + 2) ++ s.codeByte key (pa + 1) ++ s.codeByte key pa)

end Sys2Proof.Machine
end

