-- ==== Sys2Proof/Machine/VState.lean ====
section
/-! DEFINITION. Strips, grants, loops and the vector state instructions (05 R87, R88; 07 R122 to R144). -/

namespace Sys2Proof.Machine

/-! ## Grants (05 R87, R88) -/

/-- The working groups of a core, as a mask: a working lane, and not gated or marked. -/
def workingGroups (c : Core) : Nat := Nat.land (workMask c) (2 ^ 16 - 1 - c.gated % 2 ^ 16)

/-- The user slots of a core that hold a placed task. A removed task counts no longer (05 R87). -/
def placedSlots (s : State) (core : Nat) : List Nat :=
  (List.range 4).filter (fun k => (s.thread (threadKey core k)).task.any (fun x => !x.removed))

/-- The target of a thread (05 R87). A removed task, which counts no longer, takes as its place the number of counted
threads below it (log entry 103). -/
def grantTarget (s : State) (key : Nat) : Nat :=
  let core := coreOfKey key
  let w := popCount 16 (workingGroups (s.coreAt core))
  let slots := placedSlots s core
  let n := max 1 slots.length
  let j := (slots.filter (· < slotOfKey key)).length
  max 1 (w / n + (if j < w % n then 1 else 0))

/-- Working groups of a core that no user thread holds. -/
def freeGroups (s : State) (core : Nat) : List Nat :=
  let held := (List.range 4).foldl (fun a k => Nat.lor a (s.thread (threadKey core k)).vec.grant) 0
  (List.range 16).filter (fun g => bitAt (workingGroups (s.coreAt core)) g && !(bitAt held g))

/-- The maximum vector length of a grant (05 R88). -/
def maxVl (lanes decl w : Nat) : Nat := min 65536 (lanes * (16384 / (2 ^ (decl + 2) * w)))

/-- A thread's grant released; L stays what the last strip opening left (07 R142). -/
def Vec.release (v : Vec) : Vec := { v with grant := 0 }

/-- The grant renegotiated for a count; none while no working group is free (05 R88). -/
def renegotiate (s : State) (count : Nat) : Option State :=
  let s := s.modVec Vec.release
  if count = 0 then some (s.modVec (fun v => { v with maxvl := 0, lanes := 0 }))
  else
    let core := coreOfKey s.cur
    let free := freeGroups s core
    if free.isEmpty then none
    else
      let target := grantTarget s s.cur
      let take := free.take target
      let lanes := (take.map (workingLanes (s.coreAt core))).sum
      let v := s.me.vec
      let w := if v.fmt = 0 then Config.unsetWidth else tagWidth v.fmt
      some (s.modVec (fun v =>
        { v with grant := (take.map (2 ^ ·)).sum, lanes := lanes, maxvl := maxVl lanes v.decl w,
                 starved := take.length < target }))

/-- A strip opened on a grant: VL and what follows it (07 R122). -/
def Vec.open_ (v : Vec) (count : Nat) : Vec :=
  let g := 2 ^ v.gran
  let m := min count v.maxvl
  let vl := if m < g then m else m / g * g
  { v with vl := vl, al := vl, es := 0, cause := 0, freeze := false }

/-! ## setvl and vdecl (07 R122, R123) -/

def execSetvl (d a : BitVec 7) (g : BitVec 4) (f : BitVec 2) (t : BitVec 5) (s : State) : Out :=
  if s.sup || t = 0 || 17 < t.toNat then instrFault s 0x10
  else
    let count := (s.rd a).toNat
    let s := s.modVec (fun v => { v with gran := g.toNat, flush := f.toNat, fmt := t.toNat })
    match renegotiate s count with
    | none => .next (s.modMe (fun t => { t with vec := t.vec.release, status := .laneWait }))
    | some s =>
      let s := s.flagsSettled.modVec (fun v => v.open_ count)
      s.finish d (w64 s.me.vec.vl)

/-- A register under a new declaration: only the positions it still stores (07 R123). -/
def VReg.keep (v : VReg) (lim : Nat) : VReg := { v with bytes := v.bytes.filter (fun p => p.1 < lim) }

def execVdecl (c : BitVec 3) (s : State) : Out :=
  if s.sup || 5 < c.toNat then instrFault s 0x10
  else
    let both := min s.me.vec.nregs (2 ^ (c.toNat + 2))
    let lim := regBytes c.toNat
    .next (s.flagsSettled.modMe (fun t => { t with
      vregs := (t.vregs.filter (fun p => p.1 < both)).map (fun p => (p.1, p.2.keep lim))
      vec := { t.vec.release with decl := c.toNat, vl := 0, al := 0, es := 0, maxvl := 0, freeze := false,
                                  cause := 0 } })).retire

/-! ## Loops (07 R134 to R136) -/

/-- Whether a word may stand in a loop body (07 R134). -/
def bodyWord (w : BitVec 32) : Bool :=
  let op := w.toNat / 2 ^ 25
  let fn2 := w.toNat % 4
  op == 0x33 || op == 0x2B || op == 0x2D || (op == 0x34 && fn2 != 2) || op == 0x35 || op == 0x36 || op == 0x3A ||
  op == 0x3D || op == 0x3F || (op == 0x3C && (fn2 == 0 || fn2 == 2)) || (0x40 ≤ op && op ≤ 0x6E) ||
  (0x70 ≤ op && op ≤ 0x73)

/-- The body of a loop, fetched and checked word by word. -/
def fetchBody (s : State) (at_ : Word) : Nat → Except (Sum Stop Unit) (List (BitVec 32))
  | 0 => .ok []
  | n + 1 =>
    match fetchWord s s.cur at_ with
    | .error e => .error (.inl e)
    | .ok w =>
      if !(bodyWord w) then .error (.inr ())
      else (fetchBody s (at_ + 4) n).map (fun r => w :: r)

/-- A loop opened: its body is captured, and its first strip opens at the thread's next turn. -/
def openLoop (par : Bool) (a : BitVec 7) (n : BitVec 6) (s : State) : Out :=
  if s.sup || n = 0 || 32 < n.toNat then instrFault s 0x10
  else
    let pc := s.me.curPc
    match fetchBody s (pc + 4) n.toNat with
    | .error (.inl .wait) => .next s
    | .error (.inl (.flt f)) => .next (trapAt s f.cause f.va 0 f.map)
    | .error (.inr _) => instrFault s 0x10
    | .ok body =>
      if s.rd a = 0 then .next (s.jump (pc + w64 (4 * (n.toNat + 1))))
      else .next (s.modMe (fun t => { t with
        cnt := { t.cnt with retired := (t.cnt.retired + 1) % 2 ^ 64 }
        vec := { t.vec with loop := some { par := par, next := 0, len := n.toNat, pc := pc, reg := a, body := body,
                                           open_ := false } } }))

def execLoop (a : BitVec 7) (n : BitVec 6) (s : State) : Out := openLoop false a n s

/-- The strips of `loop.p` are run one after another, which its declaration allows, a false one too (07 R138; log entry
82). -/
def execLoopP (a : BitVec 7) (n : BitVec 6) (s : State) : Out := openLoop true a n s

/-- A bump's effect: gd ← ga + (AL << s) (07 R136). -/
def applyBump (s : State) (w : BitVec 32) : State :=
  if w.toNat / 2 ^ 25 = 0x33 then
    s.wr (w.extractLsb' 18 7) (s.rd (w.extractLsb' 11 7) + (w64 s.me.vec.al <<< (w.toNat % 16)))
  else s

/-- The open loop of the executing thread at a strip's edge: the next strip opens, or a strip ends, or the loop does;
none when a body word issues. The strip ends once every word of its body has retired (07 R135). Its bumps take effect in
the order of the body, so a later one reads what an earlier one has written (07 R136; log entry 104). -/
def loopEdge (s : State) (l : Loop) : Option State :=
  if !l.open_ then
    let count := (s.rd l.reg).toNat
    if count = 0 then
      some (s.modMe (fun t => { t with pc := l.pc + w64 (4 * (l.len + 1)), vec := { t.vec with loop := none } }))
    else match renegotiate s count with
      | none => some (s.modMe (fun t => { t with vec := t.vec.release, status := .laneWait }))
      | some s =>
        some (s.flagsSettled.modVec (fun v => { v.open_ count with loop := some { l with next := 0, open_ := true } }))
  else if l.len ≤ l.next then
    let s := l.body.foldl applyBump s
    let s := s.wr l.reg (s.rd l.reg - w64 s.me.vec.al)
    some (s.flagsSettled.modVec (fun v => { v with loop := some { l with next := 0, open_ := false } }))
  else none

/-- Outside a loop AL is read once every older instruction that can change it has finished (07 R133). -/
def execBump (d a : BitVec 7) (k : BitVec 4) (s : State) : Out :=
  if s.sup then instrFault s 0x10
  else if s.me.vec.loop.isSome then .next s.retire
  else (s.settled [.length]).finish d (s.rd a + (w64 s.me.vec.al <<< k.toNat))

/-! ## Moves (07 R139) -/

/-- An instruction that raises no element fault: it writes its active elements and closes by policy. -/
def plainElems (s : State) (o : Dest) (f : Nat → Nat) : Out :=
  let act := activeElems s o.m
  settleVec s (fun s => s.setTag o.d o.tag) .clean
    (fun n s =>
      let l := act.filter (· < n)
      countElems l.length (s.writeElems o.d o.tag (l.map (fun e => (e, f e)))))
    (fun n s => zeroOthers s o.d o.tag o.m o.z n (fun _ => true))

def execVmv (d a : BitVec 7) (m z : Bool) (s : State) : Out :=
  vecIssue s [d, a] fun _ =>
    let tag := s.vtag a
    tagWrite s d (tag != 0 && maskOk s m) fun _ =>
      let v := s.vreg a
      plainElems s { d := d, tag := tag, m := m, z := z } (fun e => v.read tag e)

/-- The low bits of a register as an element of a tag. -/
def lowBits (w x : Nat) : Nat := x % 2 ^ (8 * w)

def execVsplat (d a : BitVec 7) (m z : Bool) (s : State) : Out :=
  vecIssue s [d] fun _ =>
    let tag := s.me.vec.fmt
    tagWrite s d (tag != 0 && maskOk s m) fun _ =>
      let x := lowBits (tagWidth tag) (s.rd a).toNat
      plainElems s { d := d, tag := tag, m := m, z := z } (fun _ => x)

/-- An element widened to a register: I formats sign-extend, every other pattern zero-extends (07 R139). -/
def extendElem (tag x : Nat) : Word := if isSignedTag tag then sext64 (8 * tagWidth tag) x else w64 x

/-- AL and the element are read once what can change them has finished (07 R133). -/
def execVext (d a b : BitVec 7) (s : State) : Out :=
  vecIssue s [a] fun _ =>
    let tag := s.vtag a
    tagCheck s (tag != 0 && tag != tagShp && tag != tagChk && tag != tagPsn) fun _ =>
      let i := (s.rd b).toNat
      (s.settled (elemsRead a false)).finish d (if s.me.vec.al ≤ i then 0 else extendElem tag ((s.vreg a).read tag i))

def execVins (d a b : BitVec 7) (s : State) : Out :=
  vecIssue s [d] fun _ =>
    let tag := s.vtag d
    tagWrite s d (tag != 0 && tag < 18) fun _ =>
      let i := (s.rd b).toNat
      let x := lowBits (tagWidth tag) (s.rd a).toNat
      let s := s.answer
      .next (if i < s.me.vec.al then s.writeElems d tag [(i, x)] else s).retire

/-! ## Tags and shapes (07 R140, R141) -/

/-- A register with every position of another, of elements of `w` bytes, under a tag; its bytes beyond them stay (07 R121,
R140). -/
def VReg.takePositions (v : VReg) (w : Nat) (src : VReg) (tag : Nat) : VReg :=
  { tag := tag, bytes := src.bytes.filter (fun p => p.1 < 65536 * w) ++ v.bytes.filter (fun p => 65536 * w ≤ p.1) }

/-- The bytes are copied as they are: a high nibble that they held before FP4 reads again under another tag (08 R160; log
entry 105). -/
def execVretag (d a : BitVec 7) (t : BitVec 5) (s : State) : Out :=
  let lit := t.toNat
  if lit = 0 || 21 < lit then instrFault s 0x10
  else vecIssue s [d, a] fun _ =>
    let tag := s.vtag a
    tagWrite s d (tag != 0 && tag < 18 && lit < 18 && tagWidth tag == tagWidth lit) fun _ =>
      .next (s.answer.setVreg d ((s.dst d).takePositions (tagWidth tag) (s.vreg a) lit)).retire

def execVtagq (d a : BitVec 7) (s : State) : Out := vecIssue s [a] fun _ => s.finish d (w64 (s.vtag a))

/-- A pattern of 64 bits read as signed. -/
def toS64 (x : Nat) : Int := (BitVec.ofNat 64 x).toInt

/-- A shape record from its 16 elements, when it is valid (07 R141). -/
def parseShape (l : List Nat) : Option Shape :=
  let at_ (i : Nat) : Nat := l.getD i 0
  let r := at_ 1
  let fmt := at_ 2
  let w := tagWidth fmt
  let ext := (List.range 5).map (fun i => at_ (3 + i))
  let str := (List.range 5).map (fun i => toS64 (at_ (8 + i)))
  let okExt := (List.range 5).all (fun i => if i < r then 1 ≤ ext.getD i 0 && ext.getD i 0 ≤ 2 ^ 32 else ext.getD i 0 == 0)
  let okStr := (List.range 5).all (fun i => if i < r then str.getD i 0 % w == 0 else str.getD i 0 == 0)
  if canonical (BitVec.ofNat 64 (at_ 0)) && 1 ≤ r && r ≤ 5 && 1 ≤ fmt && fmt ≤ 17 && okExt && okStr &&
      (ext.take r).foldl (· * ·) 1 ≤ 2 ^ 40 && at_ 13 == 0 && at_ 14 == 0 && at_ 15 == 0 then
    some { base := BitVec.ofNat 64 (at_ 0), rank := r, fmt := fmt, ext := ext.take r, strides := str.take r }
  else none

/-- The 16 elements of a register that holds, or may hold, a shape record. -/
def shapeElems (v : VReg) : List Nat := (List.range 16).map (fun i => v.elem 8 i)

def execVshape (d a : BitVec 7) (s : State) : Out :=
  vecIssue s [d, a] fun _ =>
    let l := shapeElems (s.vreg a)
    tagWrite s d (s.vtag a == 7 && (parseShape l).isSome) fun _ =>
      .next ((s.answer.setTag d tagShp).writeElems d tagShp ((List.range 16).map (fun i => (i, l.getD i 0)))).retire

/-! ## Lengths and masks (07 R142 to R144) -/

def execVmaxvl (d : BitVec 7) (s : State) : Out := vecIssue s [] fun _ => s.finish d (w64 s.me.vec.maxvl)

def execVlanes (d : BitVec 7) (s : State) : Out := vecIssue s [] fun _ => s.finish d (w64 s.me.vec.lanes)

/-- A logical form over masks: bits below AL, the others unchanged. A forced pre-emption may trim it (07 R131). -/
def maskOp (d : BitVec 7) (srcs : List (BitVec 7)) (f : Nat → Bool) (s : State) : Out :=
  vecIssue s (d :: srcs) fun _ =>
    tagWrite s d (srcs.all (fun r => s.vtag r == tagMsk)) fun _ =>
      let l := (List.range s.me.vec.al).map (fun e => (e, b2n (f e)))
      settleVec s (fun s => s.setTag d tagMsk) .clean
        (fun n s => s.writeElems d tagMsk (l.filter (fun p => p.1 < n))) (fun _ s => s)

def execMand (d a b : BitVec 7) (s : State) : Out := maskOp d [a, b] (fun e => (s.vreg a).bit e && (s.vreg b).bit e) s

def execMor (d a b : BitVec 7) (s : State) : Out := maskOp d [a, b] (fun e => (s.vreg a).bit e || (s.vreg b).bit e) s

def execMxor (d a b : BitVec 7) (s : State) : Out := maskOp d [a, b] (fun e => (s.vreg a).bit e != (s.vreg b).bit e) s

def execMnot (d a : BitVec 7) (s : State) : Out := maskOp d [a] (fun e => !((s.vreg a).bit e)) s

/-- A result computed from the set bits among the active elements, once what can change AL, the register and
the mask has finished (07 R133). -/
def maskQuery (d a : BitVec 7) (m : Bool) (f : List Nat → Word) (s : State) : Out :=
  vecIssue s [a] fun _ =>
    tagCheck s (s.vtag a == tagMsk && maskOk s m) fun _ =>
      (s.settled (elemsRead a m)).finish d (f ((activeElems s m).filter (fun e => (s.vreg a).bit e)))

def execMpopc (d a : BitVec 7) (m : Bool) (s : State) : Out := maskQuery d a m (fun l => w64 l.length) s

def execMfirst (d a : BitVec 7) (m : Bool) (s : State) : Out :=
  maskQuery d a m (fun l => (l.head?.map w64).getD (-1)) s

def execMlast (d a : BitVec 7) (m : Bool) (s : State) : Out :=
  maskQuery d a m (fun l => (l.getLast?.map w64).getD (-1)) s

end Sys2Proof.Machine
end

