-- ==== Sys2Proof/Machine/VInt.lean ====
section
/-! DEFINITION. The vector integer families and `vaddr` (08 R147; 09 R170 to R179, R196). -/

namespace Sys2Proof.Machine

/-! ## Tag agreement (08 R146, 09 R170) -/

/-- The tag that sources agree on: PSN agrees with any tag, and stands when every source is PSN. -/
def joinTags : List Nat → Option Nat
  | [] => some tagPsn
  | t :: r =>
    match joinTags r with
    | none => none
    | some u => if t = tagPsn then some u else if u = tagPsn || u = t then some t else none

/-- A result tag derived from the sources' tag; PSN stays. -/
def derived (f : Nat → Nat) (t : Nat) : Nat := if t = tagPsn then tagPsn else f t

/-- Whether an operand carries one tag, or PSN. -/
def tagOrPsn (t want : Nat) : Bool := t == want || t == tagPsn

/-- An element-wise instruction whose sources `regs` agree on a tag that `ok` accepts. `res` gives the destination's
tag, and `f tag e` the result of element e. -/
def ewise (d : BitVec 7) (regs : List (BitVec 7)) (m z : Bool) (ok : Nat → Bool) (res : Nat → Nat)
    (f : Nat → Nat → Nat × Flags) (s : State) : Out :=
  vecIssue s (d :: regs) fun _ =>
    match joinTags (regs.map s.vtag) with
    | none => instrFault s 0x12
    | some t =>
      tagWrite s d ((t == tagPsn || ok t) && maskOk s m) fun _ =>
        elementwise s { d := d, tag := res t, m := m, z := z } (regs.any (fun r => s.vtag r == tagPsn)) (f t)

/-! ## Integers of a width (08 R147) -/

/-- A pattern of w bytes read as signed. -/
def signedOf (w x : Nat) : Int := if 2 * (x % 2 ^ (8 * w)) < 2 ^ (8 * w) then (x % 2 ^ (8 * w) : Nat) else (x % 2 ^ (8 * w) : Nat) - (2 ^ (8 * w) : Nat)

/-- A number wrapped to w bytes. -/
def wrapTo (w : Nat) (v : Int) : Nat := (v % (2 ^ (8 * w) : Nat)).toNat

/-- A number brought into a range. -/
def clampInt (lo hi v : Int) : Int := if v < lo then lo else if hi < v then hi else v

def minOf (signed : Bool) (w : Nat) : Int := if signed then -((2 ^ (8 * w - 1) : Nat) : Int) else 0

def maxOf (signed : Bool) (w : Nat) : Int :=
  if signed then ((2 ^ (8 * w - 1) : Nat) : Int) - 1 else ((2 ^ (8 * w) : Nat) : Int) - 1

/-- An element read in a signedness. -/
def numOf (signed : Bool) (w x : Nat) : Int := if signed then signedOf w x else (x : Int)

/-- A binary integer operation on vectors: `op w x y` is a number that wraps. -/
def intBin (ok : Nat → Bool) (op : Nat → Nat → Nat → Int) (d a b : BitVec 7) (m z : Bool) (s : State) : Out :=
  ewise d [a, b] m z ok id (fun t e => (wrapTo (tagWidth t) (op (tagWidth t) ((s.vreg a).read t e) ((s.vreg b).read t e)), 0)) s

/-- The same with a scalar in place of vb. -/
def intBinX (ok : Nat → Bool) (op : Nat → Nat → Nat → Int) (d a b : BitVec 7) (m z : Bool) (s : State) : Out :=
  ewise d [a] m z ok id (fun t e =>
    (wrapTo (tagWidth t) (op (tagWidth t) ((s.vreg a).read t e) (lowBits (tagWidth t) (s.rd b).toNat)), 0)) s

/-- A unary integer operation. -/
def intUn (ok : Nat → Bool) (res : Nat → Nat) (op : Nat → Nat → Int) (d a : BitVec 7) (m z : Bool) (s : State) : Out :=
  ewise d [a] m z ok (derived res) (fun t e => (wrapTo (tagWidth (res t)) (op t ((s.vreg a).read t e)), 0)) s

/-- An integer compare of two vectors, tagged MSK. -/
def intCmp (op : Nat → Nat → Nat → Bool) (d a b : BitVec 7) (m z : Bool) (s : State) : Out :=
  ewise d [a, b] m z isInt (fun _ => tagMsk)
    (fun t e => (b2n (op (tagWidth t) ((s.vreg a).read t e) ((s.vreg b).read t e)), 0)) s

/-- An integer compare with a scalar. -/
def intCmpX (op : Nat → Nat → Nat → Bool) (d a b : BitVec 7) (m z : Bool) (s : State) : Out :=
  ewise d [a] m z isInt (fun _ => tagMsk)
    (fun t e => (b2n (op (tagWidth t) ((s.vreg a).read t e) (lowBits (tagWidth t) (s.rd b).toNat)), 0)) s

/-! ## Arithmetic and logic (09 R173) -/

def opAdd (_ x y : Nat) : Int := (x : Int) + y
def opSub (_ x y : Nat) : Int := (x : Int) - y

def execVadd (d a b : BitVec 7) (m z : Bool) (s : State) : Out := intBin isInt opAdd d a b m z s
def execVaddX (d a b : BitVec 7) (m z : Bool) (s : State) : Out := intBinX isInt opAdd d a b m z s
def execVsub (d a b : BitVec 7) (m z : Bool) (s : State) : Out := intBin isInt opSub d a b m z s
def execVsubX (d a b : BitVec 7) (m z : Bool) (s : State) : Out := intBinX isInt opSub d a b m z s

def execVand (d a b : BitVec 7) (m z : Bool) (s : State) : Out := intBin isInt (fun _ x y => (Nat.land x y : Int)) d a b m z s
def execVor (d a b : BitVec 7) (m z : Bool) (s : State) : Out := intBin isInt (fun _ x y => (Nat.lor x y : Int)) d a b m z s
def execVxor (d a b : BitVec 7) (m z : Bool) (s : State) : Out := intBin isInt (fun _ x y => (Nat.xor x y : Int)) d a b m z s
def execVandn (d a b : BitVec 7) (m z : Bool) (s : State) : Out :=
  intBin isInt (fun w x y => (Nat.land x (2 ^ (8 * w) - 1 - y) : Int)) d a b m z s

def execVmul (d a b : BitVec 7) (m z : Bool) (s : State) : Out := intBin isInt (fun _ x y => (x : Int) * y) d a b m z s
def execVmulh (d a b : BitVec 7) (m z : Bool) (s : State) : Out :=
  intBin isInt (fun w x y => signedOf w x * signedOf w y / (2 ^ (8 * w) : Nat)) d a b m z s
def execVmulhn (d a b : BitVec 7) (m z : Bool) (s : State) : Out :=
  intBin isInt (fun w x y => ((x * y / 2 ^ (8 * w) : Nat) : Int)) d a b m z s

def execVmacc (d a b : BitVec 7) (m z : Bool) (s : State) : Out :=
  ewise d [a, b, d] m z isInt id (fun t e =>
    (wrapTo (tagWidth t) (((s.vreg d).read t e : Int) + (s.vreg a).read t e * (s.vreg b).read t e), 0)) s

def execVmaccX (d a b : BitVec 7) (m z : Bool) (s : State) : Out :=
  ewise d [a, d] m z isInt id (fun t e =>
    (wrapTo (tagWidth t) (((s.vreg d).read t e : Int) +
      (s.vreg a).read t e * (lowBits (tagWidth t) (s.rd b).toNat : Nat)), 0)) s

def execVmin (d a b : BitVec 7) (m z : Bool) (s : State) : Out :=
  intBin isInt (fun w x y => min (signedOf w x) (signedOf w y)) d a b m z s
def execVmax (d a b : BitVec 7) (m z : Bool) (s : State) : Out :=
  intBin isInt (fun w x y => max (signedOf w x) (signedOf w y)) d a b m z s
def execVminn (d a b : BitVec 7) (m z : Bool) (s : State) : Out := intBin isInt (fun _ x y => (min x y : Nat)) d a b m z s
def execVmaxn (d a b : BitVec 7) (m z : Bool) (s : State) : Out := intBin isInt (fun _ x y => (max x y : Nat)) d a b m z s

/-- Unsigned integer tags N8, N16, N32 and N64. -/
def isUnsignedTag (t : Nat) : Bool := isInt t && t % 2 == 0

/-- A saturating form. -/
def satOp (signed sub : Bool) (w x y : Nat) : Int :=
  let a := numOf signed w x
  let b := numOf signed w y
  clampInt (minOf signed w) (maxOf signed w) (if sub then a - b else a + b)

def execVaddsat (d a b : BitVec 7) (m z : Bool) (s : State) : Out := intBin isSignedTag (satOp true false) d a b m z s
def execVsubsat (d a b : BitVec 7) (m z : Bool) (s : State) : Out := intBin isSignedTag (satOp true true) d a b m z s
def execVaddsatn (d a b : BitVec 7) (m z : Bool) (s : State) : Out := intBin isUnsignedTag (satOp false false) d a b m z s
def execVsubsatn (d a b : BitVec 7) (m z : Bool) (s : State) : Out := intBin isUnsignedTag (satOp false true) d a b m z s

/-- Division by 08 R147. -/
def divOp (signed : Bool) (w x y : Nat) : Int := if y = 0 then -1 else (numOf signed w x).tdiv (numOf signed w y)
def remOp (signed : Bool) (w x y : Nat) : Int := if y = 0 then x else (numOf signed w x).tmod (numOf signed w y)

def execVdiv (d a b : BitVec 7) (m z : Bool) (s : State) : Out := intBin isInt (divOp true) d a b m z s
def execVdivn (d a b : BitVec 7) (m z : Bool) (s : State) : Out := intBin isInt (divOp false) d a b m z s
def execVrem (d a b : BitVec 7) (m z : Bool) (s : State) : Out := intBin isInt (remOp true) d a b m z s
def execVremn (d a b : BitVec 7) (m z : Bool) (s : State) : Out := intBin isInt (remOp false) d a b m z s

def execVabs (d a : BitVec 7) (m z : Bool) (s : State) : Out :=
  intUn isSignedTag id (fun t x => (signedOf (tagWidth t) x).natAbs) d a m z s
def execVneg (d a : BitVec 7) (m z : Bool) (s : State) : Out := intUn isInt id (fun _ x => -(x : Int)) d a m z s

/-- Leading zero bits of a b-bit pattern. -/
def leadZeros (b x : Nat) : Nat := if x = 0 then b else b - 1 - Nat.log2 x

def execVclz (d a : BitVec 7) (m z : Bool) (s : State) : Out :=
  intUn isInt id (fun t x => (leadZeros (8 * tagWidth t) x : Nat)) d a m z s
def execVpopc (d a : BitVec 7) (m z : Bool) (s : State) : Out :=
  intUn isInt id (fun t x => (popCount (8 * tagWidth t) x : Nat)) d a m z s

/-! ## Shifts (09 R174) -/

def sllOp (w x y : Nat) : Int := (x * 2 ^ (y % (8 * w)) : Nat)
def srlOp (w x y : Nat) : Int := (x / 2 ^ (y % (8 * w)) : Nat)
def sraOp (w x y : Nat) : Int := signedOf w x / (2 ^ (y % (8 * w)) : Nat)
def rorOp (w x y : Nat) : Int := (x / 2 ^ (y % (8 * w)) + x * 2 ^ (8 * w - y % (8 * w)) : Nat)

def execVsll (d a b : BitVec 7) (m z : Bool) (s : State) : Out := intBin isInt sllOp d a b m z s
def execVsrl (d a b : BitVec 7) (m z : Bool) (s : State) : Out := intBin isInt srlOp d a b m z s
def execVsra (d a b : BitVec 7) (m z : Bool) (s : State) : Out := intBin isInt sraOp d a b m z s
def execVror (d a b : BitVec 7) (m z : Bool) (s : State) : Out := intBin isInt rorOp d a b m z s

/-- A shift whose amount is gb modulo the element's width in bits: all of gb counts (09 R174). -/
def shiftX (op : Nat → Nat → Nat → Int) (d a b : BitVec 7) (m z : Bool) (s : State) : Out :=
  ewise d [a] m z isInt id (fun t e =>
    (wrapTo (tagWidth t) (op (tagWidth t) ((s.vreg a).read t e) (s.rd b).toNat), 0)) s

def execVsllX (d a b : BitVec 7) (m z : Bool) (s : State) : Out := shiftX sllOp d a b m z s
def execVsrlX (d a b : BitVec 7) (m z : Bool) (s : State) : Out := shiftX srlOp d a b m z s
def execVsraX (d a b : BitVec 7) (m z : Bool) (s : State) : Out := shiftX sraOp d a b m z s
def execVrorX (d a b : BitVec 7) (m z : Bool) (s : State) : Out := shiftX rorOp d a b m z s

/-! ## Compares (09 R175) -/

def cmpEq (_ x y : Nat) : Bool := x == y
def cmpNe (_ x y : Nat) : Bool := x != y
def cmpLt (w x y : Nat) : Bool := signedOf w x < signedOf w y
def cmpLtn (_ x y : Nat) : Bool := x < y

def execVseq (d a b : BitVec 7) (m z : Bool) (s : State) : Out := intCmp cmpEq d a b m z s
def execVsne (d a b : BitVec 7) (m z : Bool) (s : State) : Out := intCmp cmpNe d a b m z s
def execVslt (d a b : BitVec 7) (m z : Bool) (s : State) : Out := intCmp cmpLt d a b m z s
def execVsltn (d a b : BitVec 7) (m z : Bool) (s : State) : Out := intCmp cmpLtn d a b m z s
def execVseqX (d a b : BitVec 7) (m z : Bool) (s : State) : Out := intCmpX cmpEq d a b m z s
def execVsneX (d a b : BitVec 7) (m z : Bool) (s : State) : Out := intCmpX cmpNe d a b m z s
def execVsltX (d a b : BitVec 7) (m z : Bool) (s : State) : Out := intCmpX cmpLt d a b m z s
def execVsltnX (d a b : BitVec 7) (m z : Bool) (s : State) : Out := intCmpX cmpLtn d a b m z s

/-! ## Widths (09 R176) -/

def execVwiden (d a : BitVec 7) (m z : Bool) (s : State) : Out :=
  intUn (fun t => isSignedTag t && t != 7) (· + 2) (fun t x => signedOf (tagWidth t) x) d a m z s
def execVwidenn (d a : BitVec 7) (m z : Bool) (s : State) : Out :=
  intUn (fun t => isUnsignedTag t && t != 8) (· + 2) (fun _ x => (x : Int)) d a m z s
def execVnarrow (d a : BitVec 7) (m z : Bool) (s : State) : Out :=
  intUn (fun t => isInt t && 2 < t) (· - 2) (fun _ x => (x : Int)) d a m z s
def execVnarrowsat (d a : BitVec 7) (m z : Bool) (s : State) : Out :=
  intUn (fun t => isInt t && 2 < t) (· - 2) (fun t x =>
    clampInt (minOf (isSignedTag t) (tagWidth (t - 2))) (maxOf (isSignedTag t) (tagWidth (t - 2)))
      (numOf (isSignedTag t) (tagWidth t) x)) d a m z s

/-! ## Merge (09 R177) -/

/-- Tags that moves accept: Int, F, F8, FP4, E8M0 and CB2. -/
def isData (t : Nat) : Bool := 1 ≤ t && t ≤ 17

def execVmerge (d a b : BitVec 7) (z : Bool) (s : State) : Out :=
  vecIssue s [d, a, b] fun _ =>
    tagCheck s (s.vtag 0 == tagMsk) fun _ =>
      ewise d [a, b] false z isData id
        (fun t e => (if (s.vreg 0).bit e then (s.vreg b).read t e else (s.vreg a).read t e, 0)) s

def execVmergeX (d a b : BitVec 7) (z : Bool) (s : State) : Out :=
  vecIssue s [d, a] fun _ =>
    tagCheck s (s.vtag 0 == tagMsk) fun _ =>
      ewise d [a] false z isData id
        (fun t e => (if (s.vreg 0).bit e then lowBits (tagWidth t) (s.rd b).toNat else (s.vreg a).read t e, 0)) s

/-! ## Dot products (09 R178) -/

/-- A source position; one at or above 65,536 reads 0. -/
def VReg.at_ (v : VReg) (tag p : Nat) : Nat := if 65536 ≤ p then 0 else v.read tag p

/-- An integer dot product of n positions for each element of vd. -/
def intDot (n src dst : Nat) (d a b : BitVec 7) (m z : Bool) (s : State) : Out :=
  vecIssue s [d, a, b] fun _ =>
    tagWrite s d (tagOrPsn (s.vtag a) src && tagOrPsn (s.vtag b) src && tagOrPsn (s.vtag d) dst && maskOk s m) fun _ =>
      let val (r : BitVec 7) (p : Nat) : Int := numOf (isSignedTag src) (tagWidth src) ((s.vreg r).at_ src p)
      elementwise s { d := d, tag := dst, m := m, z := z } ([a, b, d].any (fun r => s.vtag r == tagPsn)) (fun e =>
        (wrapTo 4 (((s.vreg d).read dst e : Int) + ((List.range n).map (fun j => val a (n * e + j) * val b (n * e + j))).sum),
         0))

def execVdot4 (d a b : BitVec 7) (m z : Bool) (s : State) : Out := intDot 4 1 5 d a b m z s
def execVdot4n (d a b : BitVec 7) (m z : Bool) (s : State) : Out := intDot 4 2 6 d a b m z s
def execVdot2 (d a b : BitVec 7) (m z : Bool) (s : State) : Out := intDot 2 3 5 d a b m z s

/-! ## Clamp and addresses (09 R179, R196) -/

def execVclamp (d a b : BitVec 7) (m z : Bool) (s : State) : Out :=
  let g := (s.rd b).toNat
  ewise d [a] m z isInt id (fun t e =>
    let sg := isSignedTag t
    let lo := numOf sg 4 (bitsAt g 0 32)
    let hi := numOf sg 4 (bitsAt g 32 32)
    let c := min (max (numOf sg (tagWidth t) ((s.vreg a).read t e)) lo) hi
    (wrapTo (tagWidth t) (clampInt (minOf sg (tagWidth t)) (maxOf sg (tagWidth t)) c), 0)) s

/-- The width of VTYPE.FMT; the manual gives none before a format is set (log entry 23). -/
def fmtWidth (v : Vec) : Nat := if v.fmt = 0 then Config.unsetWidth else tagWidth v.fmt

def execVaddr (d a b : BitVec 7) (m z : Bool) (s : State) : Out :=
  let base := (s.rd b).toNat
  let wf := fmtWidth s.me.vec
  ewise d [a] m z isInt (fun _ => 7)
    (fun t e => (wrapTo 8 ((base : Int) + numOf (isSignedTag t) (tagWidth t) ((s.vreg a).read t e) * wf), 0)) s

end Sys2Proof.Machine
end

