-- ==== Sys2Proof/Machine/VMem.lean ====
section
/-! DEFINITION. Vector memory instructions (11 R222 to R231). -/

namespace Sys2Proof.Machine

/-! ## Elements checked once -/

variable {α : Type}

/-- The hint pages of the checks after a first fault (19 R310). -/
def hintsAfter (first : Flt) (l : List (Nat × Except Stop α)) : List Nat :=
  let pages := l.filterMap (fun p =>
    match p.2 with
    | .error (.flt f) => if f.va.map vpnOf = first.va.map vpnOf then none else f.va.map vpnOf
    | _ => none)
  pages.eraseDups.take 4

/-- What the checks of the elements, in ascending order, say. -/
def verdictOf : List (Nat × Except Stop α) → Verdict
  | [] => .clean
  | (_, .ok _) :: r => verdictOf r
  | (_, .error .wait) :: _ => .wait
  | (e, .error (.flt f)) :: r => .fault { elem := e, flt := f, hints := hintsAfter f r }

/-- The elements that stop nowhere, with what their checks found. -/
def passed (l : List (Nat × Except Stop α)) : List (Nat × α) :=
  l.filterMap (fun p => match p.2 with
    | .ok x => some (p.1, x)
    | .error _ => none)

def passedBelow (n : Nat) (l : List (Nat × Except Stop α)) : List (Nat × α) := (passed l).filter (fun p => p.1 < n)

/-- A PSN-tagged register read as data faults every element with cause 0x04 (11 R222). -/
def psnElse (psn : Bool) (va : Word) (k : Except Stop α) : Except Stop α :=
  if psn then .error (.flt { psnFault with va := va }) else k

/-! ## Loads and stores (11 R222 to R225) -/

/-- The bytes that an element of the strip's format takes in memory, and its alignment: an FP4 element takes the
nibble of one byte. -/
def elemAlign (fmt : Nat) : Nat := if fmt = 15 then 1 else tagWidth fmt

/-- An element from the bytes at its address. -/
def fromBytes (fmt e x : Nat) : Nat := if fmt = 15 then bitsAt x (4 * (e % 2)) 4 else x

/-- The elements at some places, read in order. -/
def loadElems (fmt : Nat) (s : State) : List (Nat × Place) → List (Nat × Nat) × State
  | [] => ([], s)
  | (e, p) :: r =>
    let v := s.readBytes s.cur p.pas
    let q := loadElems fmt v.2 r
    ((e, fromBytes fmt e (leNat v.1)) :: q.1, q.2)

/-- Bytes read and written, counted (23 R351). -/
def countRead (n : Nat) (s : State) : State := s.tally (fun c => { c with bytesRead := (c.bytesRead + n) % 2 ^ 64 })
def countWritten (n : Nat) (s : State) : State := s.tally (fun c => { c with bytesWritten := (c.bytesWritten + n) % 2 ^ 64 })

/-- The checks of a load's elements. -/
def loadChecks (s : State) (psn : Bool) (addr : Nat → Word) (act : List Nat) : List (Nat × Except Stop Place) :=
  let w := tagWidth s.me.vec.fmt
  let al := elemAlign s.me.vec.fmt
  act.map (fun e => (e, psnElse psn (addr e) (checkRead s (s.env s.cur) (addr e) w al)))

/-- A load of the active elements `act`, each from its address; `also` says which positions the form can write. -/
def vecLoad (d : BitVec 7) (m z psn : Bool) (also : Nat → Bool) (addr : Nat → Word) (s : State) : Out :=
  let fmt := s.me.vec.fmt
  let res := loadChecks s psn addr ((activeElems s m).filter also)
  settleVec s (fun s => s.setTag d fmt) (verdictOf res)
    (fun n s =>
      let l := passedBelow n res
      let r := loadElems fmt (s.beforeRead s.cur (l.map (·.2))) l
      countElems l.length (countRead (l.length * tagWidth fmt) (r.2.writeElems d fmt r.1)))
    (fun n s => zeroOthers s d fmt m z n also)

/-- The format of a load must be set, and FP4 is for unit stride alone (11 R223). -/
def loadFmt (s : State) (fp4 : Bool) : Bool := s.me.vec.fmt != 0 && (fp4 || s.me.vec.fmt != 15)

/-- One element stored. -/
def storeElem (fmt : Nat) (v : VReg) (all : List Nat) (s : State) (e : Nat) (p : Place) : State :=
  let x := v.read fmt e
  if fmt = 15 then
    let pa := p.pas.headD 0
    let cur := (s.viewByte s.cur pa).1.toNat
    let new := if e % 2 = 0 then cur / 16 * 16 + x else cur % 16 + 16 * x
    s.store s.cur all p.pas [BitVec.ofNat 8 new]
  else s.store s.cur all p.pas (leBytes (tagWidth fmt) x)

def storeElems (fmt : Nat) (v : VReg) (all : List Nat) (s : State) : List (Nat × Place) → State
  | [] => s
  | (e, p) :: r => storeElems fmt v all (storeElem fmt v all s e p) r

/-- The elements at or above a bound that a repeatable store may have performed already: each on a free bit (07 R127,
log entry 20). -/
def early (s : State) (n : Nat) (l : List (Nat × Place)) : List (Nat × Place) :=
  l.filter (fun p => n ≤ p.1 && Config.freeBit (s.fresh + p.1))

/-- Elements stored: pending bytes, counted. -/
def commitStore (fmt : Nat) (v : VReg) (n : Nat) (res : List (Nat × Except Stop Place)) (ordered : Bool) (s : State) : State :=
  let done := passedBelow n res
  let beyond := (passed res).filter (fun p => n ≤ p.1)
  let l := if ordered || beyond.isEmpty then done else done ++ early s n beyond
  let s := if ordered || beyond.isEmpty then s else { s with fresh := s.fresh + 65536 }
  let s := (storeElems fmt v (l.flatMap (fun p => p.2.pas)) s l).afterStore s.cur
  let s := if ordered && !done.isEmpty then s.modVec (fun v => { v with freeze := true }) else s
  countElems done.length (countWritten (done.length * tagWidth fmt) s)

/-- A store of the active elements that `also` allows. `ordered` is the effectful form (11 R226). -/
def vecStore (d : BitVec 7) (m psn ordered : Bool) (also : Nat → Bool) (addr : Nat → Word) (s : State) : Out :=
  let fmt := s.me.vec.fmt
  let v := s.vreg d
  let bad := psn || v.tag == tagPsn
  let res := ((activeElems s m).filter also).map (fun e =>
    (e, psnElse bad (addr e) (checkWrite s (s.env s.cur) (addr e) (tagWidth fmt) (elemAlign fmt))))
  settleVec s id (verdictOf res) (fun n s => commitStore fmt v n res ordered s) (fun _ s => s)

/-- The data register of a store carries VTYPE.FMT (11 R223). -/
def storeTag (s : State) (d : BitVec 7) (fp4 : Bool) : Bool :=
  s.me.vec.fmt != 0 && tagOrPsn (s.vtag d) s.me.vec.fmt && (fp4 || s.me.vec.fmt != 15)

/-- An element index as an offset. -/
def wordOf (n : Nat) : Word := BitVec.ofNat 64 n

/-- A(e) of unit stride. -/
def unitAddr (s : State) (a b : BitVec 7) (e : Nat) : Word :=
  s.rd a + s.rd b + (if s.me.vec.fmt = 15 then wordOf (e / 2) else wordOf (e * tagWidth s.me.vec.fmt))

/-- A(e) of a stride. -/
def strideAddr (s : State) (base : Word) (a b : BitVec 7) (e : Nat) : Word := base + s.rd a + wordOf e * s.rd b

def everyElem (_ : Nat) : Bool := true

/-- Loads of unit stride and of a stride. -/
def loadForm (d : BitVec 7) (m z fp4 : Bool) (addr : Nat → Word) (s : State) : Out :=
  vecIssue s [d] fun _ =>
    tagWrite s d (loadFmt s fp4 && maskOk s m) fun _ => vecLoad d m z false everyElem addr s

/-- Stores of unit stride and of a stride. -/
def storeForm (d : BitVec 7) (m fp4 : Bool) (addr : Nat → Word) (s : State) : Out :=
  vecIssue s [d] fun _ =>
    tagCheck s (storeTag s d fp4 && maskOk s m) fun _ => vecStore d m false false everyElem addr s

def execVld (d a b : BitVec 7) (m z : Bool) (s : State) : Out := loadForm d m z true (unitAddr s a b) s
def execVldNt (d a b : BitVec 7) (m z : Bool) (s : State) : Out := loadForm d m z true (unitAddr s a b) s

/-- `vld.bc`: one read, which belongs to the lowest active element. -/
def execVldBc (d a b : BitVec 7) (m z : Bool) (s : State) : Out :=
  vecIssue s [d] fun _ =>
    tagWrite s d (loadFmt s false && maskOk s m) fun _ =>
      let fmt := s.me.vec.fmt
      let act := activeElems s m
      let va := s.rd a + s.rd b
      let res := loadChecks s false (fun _ => va) (act.take 1)
      settleVec s (fun s => s.setTag d fmt) (verdictOf res)
        (fun n s =>
          let l := passedBelow n res
          let r := loadElems fmt (s.beforeRead s.cur (l.map (·.2))) l
          let x := (r.1.headD (0, 0)).2
          let done := if l.isEmpty then [] else act.filter (· < n)
          countElems done.length (countRead (l.length * tagWidth fmt) (r.2.writeElems d fmt (done.map (fun e => (e, x))))))
        (fun n s => zeroOthers s d fmt m z n everyElem)

def execVst (d a b : BitVec 7) (m : Bool) (s : State) : Out := storeForm d m true (unitAddr s a b) s
def execVstNt (d a b : BitVec 7) (m : Bool) (s : State) : Out := storeForm d m true (unitAddr s a b) s
def execVlds (d a b : BitVec 7) (m z : Bool) (s : State) : Out := loadForm d m z false (strideAddr s 0 a b) s
def execVsts (d a b : BitVec 7) (m : Bool) (s : State) : Out := storeForm d m false (strideAddr s 0 a b) s

/-! ## Scratchpad by offset (11 R230) -/

/-- The local window's base. -/
def localBase : Word := BitVec.ofNat 64 windowBase

def execVldsp (d a b : BitVec 7) (m z : Bool) (s : State) : Out := loadForm d m z false (strideAddr s localBase a b) s
def execVstsp (d a b : BitVec 7) (m : Bool) (s : State) : Out := storeForm d m false (strideAddr s localBase a b) s

/-! ## Gather and scatter (11 R226) -/

/-- The tag of an offsets register: I64, N64 or PSN. -/
def offsetTag (t : Nat) : Bool := t == 7 || t == 8 || t == tagPsn

/-- A(e) of a gather. -/
def gatherAddr (s : State) (a b : BitVec 7) (e : Nat) : Word := s.rd a + wordOf ((s.vreg b).elem 8 e)

def gather (d a b : BitVec 7) (m z : Bool) (s : State) : Out :=
  vecIssue s [d, b] fun _ =>
    tagWrite s d (loadFmt s false && offsetTag (s.vtag b) && maskOk s m) fun _ =>
      vecLoad d m z (s.vtag b == tagPsn) everyElem (gatherAddr s a b) s

def scatter (ordered : Bool) (d a b : BitVec 7) (m : Bool) (s : State) : Out :=
  vecIssue s [d, b] fun _ =>
    tagCheck s (storeTag s d false && offsetTag (s.vtag b) && maskOk s m) fun _ =>
      vecStore d m (s.vtag b == tagPsn) ordered everyElem (gatherAddr s a b) s

def execVgather (d a b : BitVec 7) (m z : Bool) (s : State) : Out := gather d a b m z s
def execVgatherNt (d a b : BitVec 7) (m z : Bool) (s : State) : Out := gather d a b m z s
def execVscatter (d a b : BitVec 7) (m : Bool) (s : State) : Out := scatter false d a b m s
def execVscatterO (d a b : BitVec 7) (m : Bool) (s : State) : Out := scatter true d a b m s

/-! ## Vector atomics (11 R227, R228) -/

/-- Every check of an element of a vector atomic. -/
def checkElemAtomic (s : State) (va : Word) (w : Nat) (onHost : Bool) : Except Stop Place := do
  let p ← checkAtomic s (s.env s.cur) va w onHost
  checkLink s va p
  .ok p

/-- Elements performed in ascending order: their old values, and the state after them. -/
def amoElems (f : Nat → Nat → Nat) (s : State) : List (Nat × Place) → List (Nat × Nat) × State
  | [] => ([], s)
  | (e, p) :: r =>
    let x := atomicAt s s.cur p (f e)
    let q := amoElems f x.2 r
    ((e, x.1) :: q.1, q.2)

/-- The host may have performed the element whose AtomicOp completed with an error (11 R228). -/
def failedElem (f : Nat → Nat → Nat) (v : Verdict) (w : Nat) (onHost : Bool) (s : State) : State :=
  match v with
  | .fault x =>
    if x.flt.cause = 5 then
      match checkAtomic s (s.env s.cur) (x.flt.va.getD 0) w onHost with
      | .ok p =>
        if p.tier = 2 && Config.failedAtomicPerforms s.fresh then (atomicAt s s.cur p (f x.elem)).2.bump else s.bump
      | .error _ => s
    else s
  | _ => s

/-- A vector atomic: `op tag old x` gives the new value. -/
def vecAmo (ok : Nat → Bool) (onHost : Bool) (op : Nat → Nat → Nat → Nat) (d a b : BitVec 7) (m z : Bool) (s : State) : Out :=
  vecIssue s [d, b] fun _ =>
    let fmt := s.me.vec.fmt
    tagWrite s d (ok fmt && tagOrPsn (s.vtag d) fmt && offsetTag (s.vtag b) && maskOk s m) fun _ =>
      let w := tagWidth fmt
      let psn := s.vtag d == tagPsn || s.vtag b == tagPsn
      let before := s.me
      let v := s.vreg d
      let addr := gatherAddr s a b
      let f (e old : Nat) : Nat := op fmt old (v.read fmt e)
      let res := (activeElems s m).map (fun e => (e, psnElse psn (addr e) (checkElemAtomic s (addr e) w onHost)))
      let vd := verdictOf res
      settleVec s (fun s => s.setTag d fmt) vd
        (fun n s =>
          let l := passedBelow n res
          let r := amoElems f s l
          let s := r.2.writeElems d fmt r.1
          let s := if l.isEmpty then s else s.modVec (fun v => { v with freeze := true })
          failedElem f (stopVerdict before vd) w onHost
            (countElems l.length (countRead (l.length * w) (countWritten (l.length * w) s))))
        (fun n s => zeroOthers s d fmt m z n everyElem)

/-- I32, N32, I64 and N64. -/
def amoTag (t : Nat) : Bool := 5 ≤ t && t ≤ 8

/-- An integer operation on patterns of a tag. -/
def amoInt (op : Nat → Int → Int → Int) (t old x : Nat) : Nat :=
  wrapTo (tagWidth t) (op t (numOf (isSignedTag t) (tagWidth t) old) (numOf (isSignedTag t) (tagWidth t) x))

def execVamoadd (d a b : BitVec 7) (m z : Bool) (s : State) : Out :=
  vecAmo amoTag true (amoInt (fun _ o x => o + x)) d a b m z s
def execVamomin (d a b : BitVec 7) (m z : Bool) (s : State) : Out :=
  vecAmo amoTag false (amoInt (fun _ o x => min o x)) d a b m z s
def execVamomax (d a b : BitVec 7) (m z : Bool) (s : State) : Out :=
  vecAmo amoTag false (amoInt (fun _ o x => max o x)) d a b m z s
def execVamoswap (d a b : BitVec 7) (m z : Bool) (s : State) : Out :=
  vecAmo amoTag true (fun _ _ x => x) d a b m z s
def execVamoand (d a b : BitVec 7) (m z : Bool) (s : State) : Out :=
  vecAmo amoTag false (fun _ o x => Nat.land o x) d a b m z s
def execVamoor (d a b : BitVec 7) (m z : Bool) (s : State) : Out :=
  vecAmo amoTag false (fun _ o x => Nat.lor o x) d a b m z s
def execVamoxor (d a b : BitVec 7) (m z : Bool) (s : State) : Out :=
  vecAmo amoTag false (fun _ o x => Nat.xor o x) d a b m z s

/-- FP32 addition with one RNE rounding, no flush and no flag. -/
def amoFadd (_ old x : Nat) : Nat := (fmtFp32.result 0 false (addFV 0 (fmtFp32.decode false old) (fmtFp32.decode false x))).1

def execVamofadd (d a b : BitVec 7) (m z : Bool) (s : State) : Out := vecAmo (· == 11) false amoFadd d a b m z s

/-! ## Tensor loads and stores (11 R229) -/

/-- The offset of element e of a shape. -/
def shapeOffset : List Nat → List Int → Nat → Int
  | x :: xs, k :: ks, e => ((e % x : Nat) : Int) * k + shapeOffset xs ks (e / x)
  | _, _, _ => 0

/-- The number of elements of a shape. -/
def Shape.count (sh : Shape) : Nat := sh.ext.foldl (· * ·) 1

/-- A(e) of a shape. -/
def Shape.addr (sh : Shape) (e : Nat) : Word := sh.base + BitVec.ofInt 64 (shapeOffset sh.ext sh.strides e)

/-- The shape record that a register tagged SHP holds, when its format is the strip's and not FP4. -/
def stripShape (s : State) (a : BitVec 7) : Option Shape :=
  if s.vtag a = tagShp then
    (parseShape (shapeElems (s.vreg a))).filter (fun sh => sh.fmt == s.me.vec.fmt && sh.fmt != 15)
  else none

def execTld (d a : BitVec 7) (m z : Bool) (s : State) : Out :=
  vecIssue s [d, a] fun _ =>
    match stripShape s a with
    | none => instrFault s 0x12
    | some sh => tagWrite s d (maskOk s m) fun _ => vecLoad d m z false (· < sh.count) sh.addr s

def execTst (d a : BitVec 7) (m : Bool) (s : State) : Out :=
  vecIssue s [d, a] fun _ =>
    match stripShape s a with
    | none => instrFault s 0x12
    | some sh =>
      tagCheck s (storeTag s d false && maskOk s m) fun _ => vecStore d m false false (· < sh.count) sh.addr s

/-! ## Prefetch, probe and cache maintenance (11 R231) -/

/-- A fetch into L1 changes nothing but timing and reports nothing. -/
def execVpref (_a _b : BitVec 7) (m : Bool) (s : State) : Out :=
  vecIssue s [] fun _ =>
    tagCheck s (maskOk s m) fun _ => settleVec s id .clean (fun _ s => s) (fun _ s => s)

/-- Accesses that have met poison of host data, counted (10 R219). -/
def meetsAll (n : Nat) (s : State) : State := if n = 0 then s else s.count 0x106 n

/-- The probe word of each active element's address, tagged N64; while a table's memory is not ready the instruction
waits. Poison that host data brings to an element's walk is counted (10 R219). -/
def execVprobe (d a b : BitVec 7) (m z : Bool) (s : State) : Out :=
  vecIssue s [d] fun _ =>
    tagWrite s d (maskOk s m) fun _ =>
      let e := s.env s.cur
      let act := activeElems s m
      let t (i : Nat) := transOf s e.ctx e.features (strideAddr s 0 a b i)
      if act.any (fun i => match t i with
          | .error .wait => true
          | _ => false) then .next s
      else
        let open_ := act.any (fun i => match t i with
          | .error (.unread _ _) => true
          | _ => false)
        settleVec (if open_ then { s with fresh := s.fresh + 65536 } else s) (fun s => s.setTag d 8) .clean
          (fun n s' =>
            let l := act.filter (· < n)
            countElems l.length (meetsAll (l.filter (fun i => match t i with
              | .error (.unread _ h) => h
              | _ => false)).length
              (s'.writeElems d 8 (l.map (fun i => (i, (probeAnswer (s.fresh + i) (t i)).toNat))))))
          (fun n s => zeroOthers s d 8 m z n (fun _ => true))

/-- Lines treated in order, for the elements that pass. -/
def lineElems (act : State → Nat → Word → Except Stop State) (addr : Nat → Word) (s : State) : List Nat → State
  | [] => s
  | e :: r =>
    match act s s.cur (addr e) with
    | .ok t => lineElems act addr t r
    | .error _ => lineElems act addr s r

/-- `vflush` and `vinval`: the scalar form's action on the line of each active element. They use no element format (11
R223; log entry 84). -/
def vecLines (act : State → Nat → Word → Except Stop State) (a b : BitVec 7) (m : Bool) (s : State) : Out :=
  vecIssue s [] fun _ =>
    tagCheck s (maskOk s m) fun _ =>
      let addr := strideAddr s 0 a b
      let res := (activeElems s m).map (fun e => (e, act s s.cur (addr e)))
      let ok := (passed res).map (·.1)
      settleVec s id (verdictOf res)
        (fun n s => let l := ok.filter (· < n); countElems l.length (lineElems act addr s l)) (fun _ s => s)

def execVflush (a b : BitVec 7) (m : Bool) (s : State) : Out := vecLines flushLine a b m s
def execVinval (a b : BitVec 7) (m : Bool) (s : State) : Out := vecLines invalLine a b m s

end Sys2Proof.Machine
end

