-- ==== Sys2Proof/Machine/Copy.lean ====
section
/-! DEFINITION. The copy engine: xcopy, xquery, xcancel, and its steps (11 R232 to R238, R241). -/

namespace Sys2Proof.Machine

/-! ## Division of the work (11 R232) -/

/-- Elements of a chunk. -/
def Command.chunkElems (c : Command) : Nat := 4096 / c.width

/-- Elements of a sector. -/
def Command.sectElems (c : Command) : Nat := 256 / c.width

/-- A count divided, rounded up. -/
def ceilDiv (n d : Nat) : Nat := (n + d - 1) / d

/-- Chunks of a command. -/
def Command.chunks (c : Command) : Nat := ceilDiv c.count c.chunkElems

/-- The end of a chunk's elements. -/
def Command.chunkEnd (c : Command) (k : Nat) : Nat := min ((k + 1) * c.chunkElems) c.count

/-- Sectors of a chunk. -/
def Command.sectors (c : Command) (k : Nat) : Nat := ceilDiv (c.chunkEnd k - k * c.chunkElems) c.sectElems

/-- First element of a sector. -/
def Command.sectStart (c : Command) (k j : Nat) : Nat := k * c.chunkElems + j * c.sectElems

/-- The elements of a sector. -/
def Command.sectRange (c : Command) (k j : Nat) : List Nat :=
  let lo := c.sectStart k j
  (List.range (min (lo + c.sectElems) (c.chunkEnd k) - lo)).map (lo + ·)

def Command.doneMask (c : Command) (k : Nat) : Nat := Map.getD k 0 c.done

def Command.missMask (c : Command) (k : Nat) : Nat := Map.getD k 0 c.missing

/-- The mask of all sectors of a chunk. -/
def Command.allMask (c : Command) (k : Nat) : Nat := 2 ^ c.sectors k - 1

/-! ## xcopy (11 R234) -/

/-- A barrier or ring address that xcopy refuses. -/
def badHandle (x : Nat) : Bool :=
  x != 0 && (x % 32 != 0 || !(canonical (BitVec.ofNat 64 x) || inWindow (BitVec.ofNat 64 x)))

/-- The format checks of xcopy over its two records. -/
def copyShapes (s : State) (a b : BitVec 7) (ring : Nat) : Option (Shape × Shape) :=
  if s.vtag a != tagShp || s.vtag b != tagShp then none
  else match parseShape (shapeElems (s.vreg a)), parseShape (shapeElems (s.vreg b)) with
    | some x, some y =>
      let w := tagWidth x.fmt
      if x.count != y.count || w != tagWidth y.fmt || x.fmt == 15 || y.fmt == 15 ||
          65536 < ceilDiv x.count (4096 / w) || (ring != 0 && (y.rank != 1 || y.strides.headD 0 != (w : Int)))
      then none else some (x, y)
    | _, _ => none

/-- The command starts: what an accepted xcopy does after its waits. The command reads every store that the thread made
before, sends included (11 R238). -/
def startCopy (s : State) (d : BitVec 7) (x y : Shape) (barrier ring : Nat) : State :=
  let s := (s.settleAll s.cur).phase s.cur 2
  let c : Command :=
    { serial := s.fresh, id := d.toNat, pc := s.me.curPc, src := x, dst := y, barrier := BitVec.ofNat 64 barrier,
      ring := BitVec.ofNat 64 ring, count := x.count, width := tagWidth x.fmt,
      spad := (s.me.spadEnv s.cur).getD { core := coreOfKey s.cur, crew := 0, base := 0, size := 0, swz := 0 }
      done := [], missing := [], why := [], full := [], slots := [] }
  let v := s.dst d
  let s := s.setVreg d { tag := tagChk, bytes := v.bytes.filter (fun p => 8192 ≤ p.1) }
  (s.modMe (fun t => { t with
    cmds := t.cmds ++ [c], lastCmd := Map.put d.toNat c.serial t.lastCmd, mine := if ring = 0 then c.serial :: t.mine else t.mine
    vec := { t.vec with freeze := true } })).bump

def execXcopy (d a b : BitVec 7) (s : State) : Out :=
  vecIssue s [d, a, b] fun _ =>
    let v := s.vreg b
    let barrier := v.elem 8 16
    let ring := v.elem 8 17
    if badHandle barrier || badHandle ring then instrFault s 0x13
    else match copyShapes s a b ring with
      | none => instrFault s 0x12
      | some (x, y) =>
        if 16 ≤ s.me.cmds.length || s.me.cmds.any (fun c => c.id == d.toNat) then
          .next (s.modMe (fun t => { t with status := .engineWait t.cmds.length }))
        else afterMarkers s fun _ => .next (startCopy s.answer d x y barrier ring).retire

/-! ## A thread's commands -/

/-- A command of a thread, changed in place. -/
def modCommand (s : State) (key serial : Nat) (f : Command → Command) : State :=
  s.modThread key (fun t => { t with cmds := t.cmds.map (fun c => if c.serial = serial then f c else c) })

/-- The command ends: its replay records and its ring requests are discarded (11 R236, R237). -/
def endCommand (s : State) (key serial : Nat) : State :=
  let s := s.modThread key (fun t => { t with cmds := t.cmds.filter (fun c => c.serial != serial) })
  let s := dropRequests s (.inr serial)
  { s with held := s.held.filter (fun h => match h.by_ with
      | .engine n _ => n != serial
      | _ => true) }

/-- Every command of a thread cancelled (11 R236, R237). -/
def cancelAll (s : State) (key : Nat) : State :=
  (s.thread key).cmds.foldl (fun s c => endCommand s key c.serial) s

/-- Whether a command holds a replay record. -/
def holdsReplay (s : State) (serial : Nat) : Bool :=
  s.held.any (fun h => match h.by_ with
    | .engine n _ => n == serial
    | _ => false)

/-- What xquery answers (11 R237). -/
def queryWord (s : State) (c : Command) : Nat :=
  (if holdsReplay s c.serial then 2 else 1) + c.full.length * 2 ^ 2 + c.chunks * 2 ^ 19

/-- The command that a register value names. -/
def State.command (s : State) (id : Nat) : Option Command := s.me.cmds.find? (fun c => c.id == id)

def execXquery (d a : BitVec 7) (s : State) : Out :=
  userOnly s fun _ =>
    let id := (s.rd a).toNat
    if 127 < id then instrFault s 0x13
    else s.finish d (((s.command id).map (fun c => BitVec.ofNat 64 (queryWord s c))).getD 0)

def execXcancel (d a : BitVec 7) (s : State) : Out :=
  userOnly s fun _ =>
    let id := (s.rd a).toNat
    if 127 < id then instrFault s 0x13
    else match s.command id with
      | none => s.finish d 0
      | some c => (endCommand s s.cur c.serial).finish d (BitVec.ofNat 64 c.full.length)

/-! ## The engine (11 R234, R235, R241) -/

/-- The engine reads and writes as no thread does: no pending store of a thread, and no L1, stands before a home. -/
def engineKey : Nat := 5

/-- The engine's accesses for a thread's command: the thread's context, and the scratchpad as it stood at issue. -/
def engineEnv (s : State) (key : Nat) (c : Command) : Env :=
  let e := s.env key
  { key := engineKey, ctx := e.ctx, features := e.features, spad := e.spad.map (fun _ => c.spad) }

/-- The bytes of an element located one by one: the engine makes no alignment check (11 R235). -/
def locateBytes (s : State) (e : Env) (need : Need) (va : Word) : Nat → Except Stop (List Nat)
  | 0 => .ok []
  | n + 1 =>
    match locate s e need va 1 1 with
    | .error (.flt f) => .error (.flt f)
    | .error .wait => .error .wait
    | .ok p => (locateBytes s e need (va + 1) n).map (fun r => p.pas ++ r)

/-- A fault of any byte of an element carries the element's address. -/
def atElem (va : Word) : Except Stop α → Except Stop α
  | .error (.flt f) => .error (.flt { f with va := va })
  | x => x

/-- One side of an element checked. -/
def checkSide (s : State) (e : Env) (need : Need) (va : Word) (w : Nat) : Except Stop (List Nat) :=
  atElem va do
    let pas ← locateBytes s e need va w
    if need == .read && pas.any s.poisonHome then .error (.flt (s.poisonFlt va pas))
    else if pas.any s.linkError then .error (.flt { cause := 5, va := some va, map := none })
    else .ok pas

/-- The destination address of an element: the record's, or its place in the ring chunk's slot. -/
def destAddr (c : Command) (k e : Nat) : Word :=
  match Map.find k c.slots with
  | some slot => slot + BitVec.ofNat 64 ((e - k * c.chunkElems) * c.width)
  | none => c.dst.addr e

/-- An element's source and destination bytes. -/
def checkElem (s : State) (env : Env) (c : Command) (k e : Nat) : Except Stop (List Nat × List Nat) := do
  let src ← checkSide s env .read (c.src.addr e) c.width
  let dst ← checkSide s env .write (destAddr c k e) c.width
  .ok (src, dst)

/-- The elements of a sector checked in order: those before the first that stops, and why it stops. -/
def checkSector (s : State) (env : Env) (c : Command) (k : Nat) :
    List Nat → List (List Nat × List Nat) × Option (Nat × Stop)
  | [] => ([], none)
  | e :: r =>
    match checkElem s env c k e with
    | .error x => ([], some (e, x))
    | .ok p => let q := checkSector s env c k r; (p :: q.1, q.2)

/-- What the engine reads of a source byte: its home, but for the issuing thread's stores that are still pending
(11 R238). -/
def State.sourceByte (s : State) (key pa : Nat) : Byte :=
  let me := Agent.thread key
  (viewAt (fun e => e.who != me || e.kind != .plain || s.pubs.any (fun p => p.who == me && p.stores.contains e.time))
    pa (s.home pa) s.hist).1

/-- Elements copied: source bytes at their homes to destination bytes at theirs. A ring chunk is published by the slot's
release, others enter a snapshot through `vacq` (17 R294). -/
def copyElems (key : Nat) (who : Agent) (chunk : Nat × Nat) (all : List Nat) :
    State → List (List Nat × List Nat) → State
  | s, [] => s
  | s, (src, dst) :: r =>
    let s := (dst.zip (src.map (s.sourceByte key))).foldl
      (fun s p => s.perform who .plain (some chunk) (isSpad p.1 && wholeIn all p.1) p.1 p.2) s
    copyElems key who chunk all s r

/-- The sector's bytes added to the barrier's LANDED, an atomic at its home (11 R234). A link error leaves open whether
the host performed it (06 R113). -/
def landBytes (s : State) (env : Env) (who : Agent) (c : Command) (n : Nat) : Except (Stop × State) State :=
  if c.barrier = 0 then .ok s
  else
    let va := c.barrier + 16
    match checkAtomic s env va 8 true with
    | .error x => .error (x, s)
    | .ok p =>
      let old := leNat (p.pas.map s.home)
      let t := s.writeHome who .atomic (isSpad (p.pas.headD 0)) p.pas (leBytes 8 (old + n))
      if p.pas.any s.linkError then
        .error (.flt { cause := 5, va := some va, map := none },
          (if p.tier = 2 && Config.failedAtomicPerforms s.fresh then t else s).bump)
      else .ok t

/-- The engine record of a chunk (11 R235). -/
def postEngine (s : State) (key : Nat) (c : Command) (k : Nat) (f : SectFault) : State :=
  let core := coreOfKey key
  let ctx := (s.thread key).ctx
  let o := ownerOf s ctx f.cause f.map
  let n := nextToken s core 7 c.id k
  let r : Record :=
    { cause := f.cause, kind := 2, level := (s.ctxAt o.1).depth, deleg := o.2, pcres := false,
      misslvl := missLevel s ctx f.cause f.map, nested := false, ctx := ctx, core := core, thread := 7, token := n.1,
      va := f.va, pc := c.pc, elem := f.elem, cmd := c.id, sect := c.missMask k, chunk := k, hints := [], orig := (0, 0) }
  let e : Entry := { record := r, resume := c.pc, mstep := 0 }
  let s := s.modCore core (fun x => { x with seq := n.2 })
  let s := { s with held := { token := n.1, entry := e, by_ := .engine c.serial k } :: s.held }
  s.post core o.1 e

/-- A chunk's record is written when each of its sectors is complete or missing. -/
def reportChunk (s : State) (key serial k : Nat) : State :=
  match (s.thread key).cmds.find? (fun c => c.serial == serial) with
  | none => s
  | some c =>
    if c.missMask k != 0 && Nat.lor (c.doneMask k) (c.missMask k) == c.allMask k then
      match Map.find k c.why with
      | some f => postEngine s key c k f
      | none => s
    else s

/-- A sector left missing. -/
def Command.miss (c : Command) (k mask : Nat) (f : SectFault) : Command :=
  { c with
    missing := Map.put k (Nat.lor (c.missMask k) mask) c.missing
    why := match Map.find k c.why with
      | some g => if g.elem ≤ f.elem then c.why else Map.put k f c.why
      | none => Map.put k f c.why }

/-- Sectors of a chunk made missing, and the chunk reported. -/
def missSectors (s : State) (key serial k mask : Nat) (f : SectFault) : State :=
  reportChunk (modCommand s key serial (fun c => c.miss k mask f)) key serial k

/-- A chunk is complete: its bit is set, and the command ends with its last chunk. -/
def markChunk (s : State) (key serial k : Nat) : State :=
  let t := s.thread key
  match t.cmds.find? (fun c => c.serial == serial) with
  | none => s
  | some c =>
    let v := t.vreg c.id
    let v := if v.tag = tagChk then v.write (regBytes t.vec.decl) tagChk k 1 else v
    let s := s.setThread key (t.setVreg c.id v)
    let s := modCommand s key serial (fun c => { c with full := c.full ++ [k], slots := Map.del k c.slots })
    if c.full.length + 1 = c.chunks then endCommand s key serial else s

/-- The descriptor of a ring command as the engine reads it. -/
def engineRing (s : State) (env : Env) (c : Command) : Except Stop (Place × RingDesc) := do
  let p ← ringPlace s env c.ring
  let r ← ringDesc s env c.ring p
  if r.slotSize < 4096 then .error (badRing c.ring) else .ok (p, r)

/-- The fault of a chunk whose descriptor cannot be used (11 R235). -/
def ringFault (c : Command) (k : Nat) (f : Flt) : SectFault :=
  { cause := f.cause, va := c.ring, elem := k * c.chunkElems, map := f.map }

/-- Ring chunks released in ascending order while the lowest open one is copied (11 R241). -/
def releaseSlots (s : State) (key serial : Nat) : Nat → State
  | 0 => s
  | n + 1 =>
    match (s.thread key).cmds.find? (fun c => c.serial == serial) with
    | none => s
    | some c =>
      let k := c.full.length
      if c.doneMask k != c.allMask k || (Map.find k c.slots).isNone then s
      else match engineRing s (engineEnv s key c) c with
        | .error .wait => s
        | .error (.flt f) =>
          missSectors (modCommand (s.meets f) key serial (fun c => { c with done := Map.del k c.done })) key serial k
            (c.allMask k) (ringFault c k f)
        | .ok (p, r) =>
          match r.release true 1 with
          | none =>
            missSectors (modCommand s key serial (fun c => { c with done := Map.del k c.done })) key serial k
              (c.allMask k) { cause := 0x13, va := c.ring, elem := k * c.chunkElems, map := none }
          | some r' =>
            let who : Agent := .engine (coreOfKey key / 4)
            let s := writeRing (s.published who r.scope (s.chunkStores serial [k])) who p r' false true
            releaseSlots (markChunk s key serial k) key serial n

/-- A sector complete, and what follows for its chunk. -/
def sectorDone (s : State) (key serial k j : Nat) : State :=
  let s := modCommand s key serial (fun c => { c with done := Map.put k (setBit (c.doneMask k) j) c.done })
  match (s.thread key).cmds.find? (fun c => c.serial == serial) with
  | none => s
  | some c =>
    if c.ring ≠ 0 then
      if c.doneMask k = c.allMask k then releaseSlots s key serial c.chunks else reportChunk s key serial k
    else if c.doneMask k = c.allMask k then markChunk s key serial k
    else reportChunk s key serial k

/-- The elements below a fault whose bytes the engine wrote all the same: free (11 R235, log entry 20). -/
def writtenPart (s : State) (l : List (List Nat × List Nat)) : List (List Nat × List Nat) :=
  ((List.range l.length).zip l).filterMap (fun p => if Config.freeBit (s.fresh + p.1) then some p.2 else none)

/-- One sector performed, whole or left missing. -/
def doSector (s : State) (key : Nat) (c : Command) (k j : Nat) : State :=
  let env := engineEnv s key c
  let who : Agent := .engine (coreOfKey key / 4)
  let chunk := (c.serial, k)
  let q := checkSector s env c k (c.sectRange k j)
  let part : State :=
    let l := writtenPart s q.1
    let t := copyElems key who chunk (l.flatMap (·.2)) s l
    { t with fresh := t.fresh + q.1.length }
  match q.2 with
  | some (_, .wait) => s
  | some (e, .flt f) =>
    missSectors (part.meets f) key c.serial k (2 ^ j) { cause := f.cause, va := f.va.getD 0, elem := e, map := f.map }
  | none =>
    let full := copyElems key who chunk (q.1.flatMap (·.2)) s q.1
    match landBytes full env who c (q.1.length * c.width) with
    | .ok s => sectorDone s key c.serial k j
    | .error (.wait, _) => s
    | .error (.flt f, t) =>
      missSectors (t.meets f) key c.serial k (2 ^ j) { cause := f.cause, va := f.va.getD 0, elem := c.sectStart k j, map := f.map }

/-- COPY_SECTOR: a sector that is neither complete nor missing, of a chunk that holds its slot if it needs one. Named
again, a complete sector of a ring command lets a release that waited for memory be tried again (11 R241). -/
def execCopySector (core slot cmd chunk sector : Nat) (s : State) : Out :=
  let key := threadKey core slot
  match (s.thread key).cmds.find? (fun c => c.id == cmd) with
  | none => .next s
  | some c =>
    if c.ring ≠ 0 && bitAt (c.doneMask chunk) sector then .next (releaseSlots s key c.serial c.chunks)
    else if c.chunks ≤ chunk || c.sectors chunk ≤ sector || bitAt (c.doneMask chunk) sector ||
        bitAt (c.missMask chunk) sector || (c.ring ≠ 0 && (Map.find chunk c.slots).isNone)
    then .next s
    else .next (doSector s key c chunk sector)

/-- The ring chunk that needs a slot next: the lowest that is not released and holds none. While that one is missing none
does, for chunks are taken in ascending order (11 R241). -/
def Command.nextSlot (c : Command) : Option Nat :=
  ((List.range c.chunks).find? (fun k => c.full.length ≤ k && (Map.find k c.slots).isNone)).filter
    (fun k => c.missMask k == 0)

/-- RING_SLOT_ACQUIRE: one slot as `racqw` with count 1, or the request waits (11 R241). -/
def execRingSlotAcquire (core slot cmd : Nat) (s : State) : Out :=
  let key := threadKey core slot
  match (s.thread key).cmds.find? (fun c => c.id == cmd && c.ring != 0) with
  | none => .next s
  | some c =>
    match c.nextSlot with
    | none => .next s
    | some k =>
      let who : Sum Nat Nat := .inr c.serial
      match engineRing s (engineEnv s key c) c with
      | .error .wait => .next s
      | .error (.flt f) => .next (missSectors ((dropRequests s who).meets f) key c.serial k (c.allMask k) (ringFault c k f))
      | .ok (p, r) =>
        let pa := p.pas.headD 0
        match (if ringTurn s pa true who then r.takeFree 1 else none) with
        | none => .next (joinRing s pa true who)
        | some (addr, r') =>
          let s := writeRing (dropRequests s who) (.engine (coreOfKey key / 4)) p r' true false
          .next (modCommand s key c.serial (fun c => { c with slots := Map.put k addr c.slots }))

end Sys2Proof.Machine
end

