-- ==== Sys2Proof/Machine/Budget.lean ====
section
/-! DEFINITION. Budgets: holdings, free amounts, and what a budget request may move (04 R49 to R53, R59, R63). -/

namespace Sys2Proof.Machine

/-! ## Items (04 R49) -/

/-- THREADS, SPAD, TILES and ITERS. -/
def perCoreItem (i : Nat) : Bool := i == 2 || i == 5 || i == 6 || i == 8

def carvedItem (i : Nat) : Bool := perCoreItem i || i == 3 || i == 7 || i == 9 || i == 10 || i == 12

/-- A context's holding of a carved or capped item under a qualifier. -/
def Budget.amount (b : Budget) (item q : Nat) : Nat :=
  match item with
  | 2 => b.threads.get q
  | 3 => if q = 0 then b.hbm else if q = 1 then b.lpddr else 0
  | 5 => b.spad.get q
  | 6 => b.tiles.get q
  | 7 => b.records
  | 8 => b.iters.get q
  | 9 => b.rings
  | 10 => b.bw.get q
  | 11 => b.prio
  | 12 => b.slice
  | _ => 0

def Budget.setAmount (b : Budget) (item q v : Nat) : Budget :=
  match item with
  | 2 => { b with threads := b.threads.set q v }
  | 3 => if q = 0 then { b with hbm := v } else { b with lpddr := v }
  | 5 => { b with spad := b.spad.set q v }
  | 6 => { b with tiles := b.tiles.set q v }
  | 7 => { b with records := v }
  | 8 => { b with iters := b.iters.set q v }
  | 9 => { b with rings := v }
  | 10 => { b with bw := b.bw.set q v }
  | 11 => { b with prio := v }
  | 12 => { b with slice := v }
  | _ => b

/-- A core is in a budget's core set. -/
def Budget.hasCore (b : Budget) (core : Nat) : Bool := bitAt b.cores core

/-- The cores of a core set, ascending. -/
def Budget.coreList (b : Budget) : List Nat := (List.range 256).filter b.hasCore

/-- The keys that a request's qualifier stands for: each core of the child's set for 0xFFFF (04 R49). -/
def Budget.keysOf (b : Budget) (item q : Nat) : List Nat :=
  if perCoreItem item && q == 0xFFFF then b.coreList else [q]

/-! ## Free amounts (04 R50, R56) -/

/-- What a pending revocation reserves of its item. -/
def Revocation.amount (r : Revocation) (b : Budget) : Nat :=
  match r.item with
  | 3 => r.v1 / 0x10000
  | 11 => b.prio - r.v0
  | 12 => b.slice - r.v0
  | _ => r.v0

/-- Reserved by pending revocations. -/
def Context.reserved (c : Context) (item q : Nat) : Nat :=
  ((c.revs.filter (fun r => r.item == item && (c.budget.keysOf item r.qual).contains q)).map
    (fun r => r.amount c.budget)).sum

/-- Granted to the children. -/
def grantedTo (s : State) (id item q : Nat) : Nat := ((s.children id).map (fun c => c.budget.amount item q)).sum

/-- The free amount of a carved item: the holding less grants and pending revocations; never below 0. -/
def freeAmount (s : State) (id item q : Nat) : Nat :=
  let c := s.ctxAt id
  c.budget.amount item q - grantedTo s id item q - c.reserved item q

/-- The tasks of a context on a core. -/
def tasksOn (s : State) (id core : Nat) : List Thread :=
  ((List.range 4).map (fun k => s.thread (threadKey core k))).filter (fun t =>
    match t.task with
    | some k => k.ctx == id
    | none => false)

/-- What a context's own tasks use of a per-core item. -/
def usedBy (s : State) (id item core : Nat) : Nat :=
  let l := tasksOn s id core
  match item with
  | 2 => l.length
  | 5 => (l.map (fun t => (t.task.map (·.spad)).getD 0)).sum
  | 6 => (l.map (fun t => (t.task.map (·.tiles)).getD 0)).sum
  | 8 => (l.map (fun t => t.iters.length)).sum
  | _ => 0

/-- What a context has left of a per-core item for a new use. -/
def freeToUse (s : State) (id item core : Nat) : Nat := freeAmount s id item core - usedBy s id item core

/-! ## Host windows -/

/-- Whether a run of host addresses lies in the union of windows; `n` bounds the windows used. -/
def coveredBy (ws : List (Nat × Nat)) : Nat → Nat → Nat → Bool
  | 0, lo, hi => hi ≤ lo
  | n + 1, lo, hi =>
    hi ≤ lo ||
    (match ws.find? (fun w => w.1 ≤ lo && lo < w.1 + w.2) with
     | some w => coveredBy ws n (w.1 + w.2) hi
     | none => false)

/-- A run of host addresses held by a context. -/
def Budget.holdsWindow (b : Budget) (base len : Nat) : Bool :=
  coveredBy b.hostwin (b.hostwin.length + 1) base (base + len)

/-- A run taken out of a list of windows. One that is cut in its middle leaves two, which may be more than a context's
eight (log entry 60). -/
def cutWindows (lo hi : Nat) (ws : List (Nat × Nat)) : List (Nat × Nat) :=
  ws.flatMap (fun w =>
    if w.1 + w.2 ≤ lo || hi ≤ w.1 then [w]
    else (if w.1 < lo then [(w.1, lo - w.1)] else []) ++ (if hi < w.1 + w.2 then [(hi, w.1 + w.2 - hi)] else []))

/-! ## Requests (04 R52, R53) -/

/-- A budget request as read. -/
structure Request where
  item : Nat
  qual : Nat
  grace : Nat
  v0 : Nat
  v1 : Nat
  done : Nat
  deriving DecidableEq, Repr

def Request.ofBytes (l : List Byte) : Request :=
  { item := bytesField l 0 2, qual := bytesField l 2 2, grace := bytesField l 4 4, v0 := bytesField l 8 8,
    v1 := bytesField l 16 8, done := bytesField l 24 8 }

/-- The largest VALUE0 of an item. -/
def itemMax : Nat → Nat
  | 2 => 4
  | 5 => 0x800000
  | 6 => 8
  | 7 => 65536
  | 8 => 32
  | 9 => 1024
  | 10 => 1024
  | 11 => 7
  | _ => 100000

/-- BADREQ: an unknown item, or a qualifier, value or reserved field out of its limits (04 R49, R53). -/
def Request.bad (r : Request) (b : Budget) (grant : Bool) : Bool :=
  (if grant then r.grace != 0 || r.done != 0 else 10000000 < r.grace || r.done % 8 != 0) ||
  (match r.item with
   | 1 => 7 < r.qual || 2 ^ 32 ≤ r.v0 || r.v1 != 0
   | 2 | 6 | 8 =>
     !(r.qual == 0xFFFF || (r.qual < 256 && b.hasCore r.qual)) || r.v1 != 0 || itemMax r.item < r.v0
   | 5 =>
     !(r.qual == 0xFFFF || (r.qual < 256 && b.hasCore r.qual)) || r.v1 != 0 || itemMax 5 < r.v0 || r.v0 % 1024 != 0
   | 3 => 1 < r.qual || (if grant then r.v1 != 0 else r.v0 % 0x10000 != 0 || r.v1 % 0x10000 != 0)
   | 4 => r.qual != 0 || r.v0 % 0x10000 != 0 || r.v1 % 0x10000 != 0
   | 7 | 9 => r.qual != 0 || r.v1 != 0 || itemMax r.item < r.v0
   | 10 => 63 < r.qual || r.v1 != 0 || itemMax 10 < r.v0
   | 11 => r.qual != 0 || r.v1 != 0 || itemMax 11 < r.v0 || (grant && r.v0 < b.prio)
   | 12 => r.qual != 0 || r.v1 != 0 || itemMax 12 < r.v0 || r.v0 < 50
   | 13 => r.qual != 0 || r.v1 != 0 || r.v0 == 0 || 0xFFFF < r.v0
   | _ => true)

/-- The cores that a CORES request names, as a mask of the package. -/
def Request.coreMask (r : Request) : Nat := r.v0 * 2 ^ (32 * r.qual)

/-- ISOL: a grant of cores to child `c` breaks R51. An ISOL child is refused a quad of which a context outside its line
holds a core already, and a quad of which a context keeps any core counts as held by it (log entry 98). -/
def breaksIsolation (s : State) (c : Context) (mask : Nat) : Bool :=
  let quads := (List.range 64).filter (fun q => bitsAt mask (4 * q) 4 != 0)
  (c.isol && quads.any (fun q => bitsAt mask (4 * q) 4 != 15)) ||
  (s.ctxs.map (·.2)).any (fun x =>
    x.depth != 0 && !(s.inSubtree c.id x.id) && !(s.inSubtree x.id c.id) && (c.isol || x.isol) &&
    quads.any (fun q => bitsAt x.budget.cores (4 * q) 4 != 0))

/-- The cores under pending revocations, as a mask. -/
def Context.coresGone (c : Context) : Nat :=
  (c.revs.filter (fun v => v.item == 1)).foldl (fun a v => Nat.lor a (v.v0 * 2 ^ (32 * v.qual))) 0

/-- The windows left when pending revocations count as carried out. -/
def Context.windowsLeft (c : Context) : List (Nat × Nat) :=
  (c.revs.filter (fun r => r.item == 4)).foldl (fun ws r => cutWindows r.v0 (r.v0 + r.v1) ws) c.budget.hostwin

/-- A ceiling with pending revocations counted as carried out. -/
def Context.prioLeft (c : Context) : Nat := ((c.revs.filter (fun r => r.item == 11)).map (·.v0)).foldl min c.budget.prio

/-- The keys left when pending revocations count as carried out. -/
def Context.keysLeft (c : Context) : List Nat :=
  c.budget.keys.filter (fun k => !(c.revs.any (fun r => r.item == 13 && r.v0 == k)))

/-- The giver's free amount or set covers a grant. What a pending revocation takes from the giver it cannot grant
further (04 R56); granting what the child holds already changes nothing (04 R63). -/
def coversGrant (s : State) (giver c : Context) (r : Request) : Bool :=
  match r.item with
  | 1 =>
    let left := Nat.lor (Nat.land giver.budget.cores (2 ^ 256 - 1 - giver.coresGone)) c.budget.cores
    Nat.land r.coreMask left == r.coreMask
  | 4 =>
    c.budget.holdsWindow r.v0 r.v1 ||
    (coveredBy giver.windowsLeft (giver.windowsLeft.length + 1) r.v0 (r.v0 + r.v1) && c.budget.hostwin.length < 8)
  | 11 => r.v0 ≤ giver.prioLeft || r.v0 == c.budget.prio
  | 13 => c.budget.keys.contains r.v0 || (giver.keysLeft.contains r.v0 && c.budget.keys.length < 256)
  | _ => (c.budget.keysOf r.item r.qual).all (fun q => r.v0 ≤ freeAmount s giver.id r.item q)

/-- The child holds what a revocation names, pending ones counted as gone, and with a core what the child holds on it
(04 R50, R63). A revocation of PRIO or SLICE names a value that the child's is not below; naming the present value is
accepted and changes nothing (log entry 61). -/
def holdsRevoked (c : Context) (r : Request) : Bool :=
  match r.item with
  | 1 => Nat.land r.coreMask c.budget.cores == r.coreMask && Nat.land r.coreMask c.coresGone == 0
  | 3 => r.v1 / 0x10000 ≤ c.budget.amount 3 r.qual - c.reserved 3 r.qual
  | 4 => c.budget.holdsWindow r.v0 r.v1
  | 11 | 12 => r.v0 ≤ c.budget.amount r.item 0
  | 13 => c.budget.keys.contains r.v0
  | _ =>
    let gone (q : Nat) : Bool := perCoreItem r.item && bitAt c.coresGone q
    !(gone r.qual) && ((c.budget.keysOf r.item r.qual).filter (fun q => !(gone q))).all
      (fun q => r.v0 ≤ c.budget.amount r.item q - c.reserved r.item q)

/-- A revocation of the same item and qualifier is pending, or four are (04 R59). -/
def busyRequest (c : Context) (r : Request) (grant : Bool) : Bool :=
  c.revs.any (fun v => v.item == r.item && v.qual == r.qual) || (!grant && 4 ≤ c.revs.length)

/-- The refusals that apply, as status codes. -/
def refusals (l : List (Bool × Nat)) : List Nat := (l.filter (·.1)).map (·.2)

/-- The status reported: 0 when nothing refuses; a free one of several (log entry 31). -/
def reported (s : State) (l : List Nat) : Nat := if l.isEmpty then 0 else l.getD (Config.refusalPick s.fresh % l.length) 0

/-- The refusals of a grant to child `c`. A request that is no request is refused for that alone. -/
def grantRefusals (s : State) (giver c : Context) (r : Request) : List Nat :=
  if r.bad c.budget true then [1]
  else refusals [(c.state == 5, 4), (busyRequest c r true, 3),
    (r.item == 1 && breaksIsolation s c r.coreMask, 7), (!(coversGrant s giver c r), 2)]

/-- The refusals of a revocation from child `c`. -/
def revokeRefusals (c : Context) (r : Request) : List Nat :=
  if r.bad c.budget false then [1]
  else refusals [(c.state == 5, 4), (busyRequest c r false, 3), (!(holdsRevoked c r), 2)]

/-- A budget with a granted item (04 R50). -/
def Budget.receive (b : Budget) (r : Request) : Budget :=
  match r.item with
  | 1 => { b with cores := Nat.lor b.cores r.coreMask }
  | 4 => if b.holdsWindow r.v0 r.v1 then b else { b with hostwin := b.hostwin ++ [(r.v0, r.v1)] }
  | 11 => { b with prio := r.v0 }
  | 13 => if b.keys.contains r.v0 then b else { b with keys := b.keys ++ [r.v0] }
  | _ => (b.keysOf r.item r.qual).foldl (fun b q => b.setAmount r.item q (b.amount r.item q + r.v0)) b

/-! ## Holdings as `ctxq` shows them (04 R65) -/

/-- Whether an item and qualifier name something for `ctxq`: a per-core item is asked about one core (log entry 63). -/
def validQual (item q : Nat) : Bool :=
  match item with
  | 1 => q ≤ 7
  | 2 | 5 | 6 | 8 => q ≤ 255
  | 3 => q ≤ 1
  | 10 => q ≤ 63
  | 4 | 7 | 9 | 11 | 12 | 13 => q == 0
  | _ => false

/-- The bytes in the union of some windows: each window counts what the ones before it leave of it. -/
def windowBytes (ws : List (Nat × Nat)) : Nat :=
  (ws.foldl (fun (acc : List (Nat × Nat) × Nat) w =>
    let parts := acc.1.foldl (fun ps v => cutWindows v.1 (v.1 + v.2) ps) [w]
    (w :: acc.1, acc.2 + (parts.map (·.2)).sum)) ([], 0)).2

/-- The holding of an item. -/
def holdingShown (c : Context) (item q : Nat) : Nat :=
  match item with
  | 1 => bitsAt c.budget.cores (32 * q) 32
  | 4 => windowBytes c.budget.hostwin
  | 13 => c.budget.keys.length
  | _ => c.budget.amount item q

/-- The free amount of an item: the holding less grants to the children and pending revocations. Of PRIO it is the ceiling
that the pending revocations leave, and of a set of members those that no child shares (04 R65; log entry 99). -/
def freeShown (s : State) (c : Context) (item q : Nat) : Nat :=
  let kids := (s.children c.id).map (·.budget)
  match item with
  | 1 =>
    let gone := kids.foldl (fun a b => Nat.lor a b.cores) c.coresGone
    bitsAt (Nat.land c.budget.cores (2 ^ 256 - 1 - gone)) (32 * q) 32
  | 4 => windowBytes ((kids.flatMap (·.hostwin)).foldl (fun ws w => cutWindows w.1 (w.1 + w.2) ws) c.windowsLeft)
  | 13 => (c.keysLeft.filter (fun k => !(kids.any (fun b => b.keys.contains k)))).length
  | 11 => c.prioLeft
  | _ => freeAmount s c.id item q

end Sys2Proof.Machine
end

