-- ==== Sys2Proof/Machine/Real.lean ====
section
/-! DEFINITION. The special functions of 08 R158 that have no finite form: enclosures in exact integer arithmetic, tight
enough to round once, and the choice of log entry 12 where an enclosure straddles a boundary. -/

namespace Sys2Proof.Machine

/-! ## Intervals at a scale of 2^p -/

/-- A nonnegative real between lo and hi units. -/
structure Ival where
  lo : Nat
  hi : Nat
  deriving DecidableEq, Repr

def Ival.add (a b : Ival) : Ival := { lo := a.lo + b.lo, hi := a.hi + b.hi }

def Ival.sub (a b : Ival) : Ival := { lo := a.lo - b.hi, hi := a.hi - b.lo }

def Ival.mul (p : Nat) (a b : Ival) : Ival := { lo := a.lo * b.lo / 2 ^ p, hi := a.hi * b.hi / 2 ^ p + 1 }

def Ival.div (p : Nat) (a b : Ival) : Ival := { lo := a.lo * 2 ^ p / b.hi, hi := a.hi * 2 ^ p / b.lo + 1 }

def Ival.divN (a : Ival) (n : Nat) : Ival := { lo := a.lo / n, hi := a.hi / n + 1 }

def Ival.one (p : Nat) : Ival := { lo := 2 ^ p, hi := 2 ^ p }

def Ival.sqrt (p : Nat) (a : Ival) : Ival := { lo := isqrt (a.lo * 2 ^ p), hi := isqrt (a.hi * 2 ^ p) + 1 }

/-- e^r for r in [0, 1): the series, `n` terms from the k-th on. -/
def expSeries (p : Nat) (r : Ival) : Nat → Nat → Ival → Ival → Ival
  | 0, _, term, acc => acc.add { lo := 0, hi := 2 * term.hi + 2 }
  | n + 1, k, term, acc => let t := (term.mul p r).divN k; expSeries p r n (k + 1) t (acc.add t)

def expIval (p : Nat) (r : Ival) : Ival := expSeries p r (p / 4 + 20) 1 (Ival.one p) (Ival.one p)

/-- Σ t^(2k+1) ÷ (2k+1) for t up to 1/3. -/
def atanhSeries (p : Nat) (t2 : Ival) : Nat → Nat → Ival → Ival → Ival
  | 0, _, pow, acc => acc.add { lo := 0, hi := 2 * pow.hi + 2 }
  | n + 1, k, pow, acc => atanhSeries p t2 n (k + 2) (pow.mul p t2) (acc.add (pow.divN k))

def atanhIval (p : Nat) (t : Ival) : Ival := atanhSeries p (t.mul p t) (p / 3 + 8) 1 t { lo := 0, hi := 0 }

/-- ln 2 = 2 atanh(1/3). -/
def ln2 (p : Nat) : Ival :=
  let a := atanhIval p ((Ival.one p).divN 3)
  a.add a

/-- Σ (−1)^k t^(2k+1) ÷ (2k+1), its added and its subtracted terms apart: each step swaps the two sums. -/
def atanSeries (p : Nat) (t2 : Ival) : Nat → Nat → Ival → Ival → Ival → Ival
  | 0, _, pow, pos, neg => (pos.add { lo := 0, hi := 2 * pow.hi + 2 }).sub (neg.add { lo := 0, hi := 2 * pow.hi + 2 })
  | n + 1, k, pow, pos, neg => atanSeries p t2 n (k + 2) (pow.mul p t2) neg (pos.add (pow.divN k))

/-- arctan of 1/n, after an even number of steps. -/
def atanInv (p n : Nat) : Ival :=
  let t := (Ival.one p).divN n
  let z : Ival := { lo := 0, hi := 0 }
  atanSeries p (t.mul p t) (2 * (p / 8 + 8)) 1 t z z

/-- π by Machin's formula. -/
def piIval (p : Nat) : Ival :=
  let a := atanInv p 5
  let b := atanInv p 239
  { lo := 16 * a.lo - 4 * b.hi, hi := 16 * a.hi - 4 * b.lo }

/-! ## Enclosures -/

/-- ± a magnitude strictly between lo × 2^exp and hi × 2^exp. -/
structure Encl where
  neg : Bool
  lo : Nat
  hi : Nat
  exp : Int
  deriving DecidableEq, Repr

/-- An enclosed value rounded once; `up` decides when the ends round apart. -/
def Fmt.enclose (f : Fmt) (rm : Nat) (ftz : Bool) (up : Bool) (x : Encl) : Nat × Flags :=
  let a := f.round rm ftz x.neg x.lo x.exp true
  let b := f.round rm ftz x.neg (x.hi - 1) x.exp true
  if a = b then a else if up then b else a

/-- A magnitude smaller than any that a format tells from another, and one larger. -/
def tinyEncl (neg : Bool) : Encl := { neg := neg, lo := 2 ^ 100, hi := 2 ^ 100 + 1, exp := -4000 }
def hugeEncl (neg : Bool) : Encl := { neg := neg, lo := 2 ^ 100, hi := 2 ^ 100 + 1, exp := 4000 }

/-- A magnitude m × 2^e less, or more, by less than 2^(−100) of itself. -/
def justBelow (neg : Bool) (m : Nat) (e : Int) : Encl :=
  { neg := neg, lo := m * 2 ^ 200 - m * 2 ^ 100, hi := m * 2 ^ 200, exp := e - 200 }
def justAbove (neg : Bool) (m : Nat) (e : Int) : Encl :=
  { neg := neg, lo := m * 2 ^ 200, hi := m * 2 ^ 200 + m * 2 ^ 100, exp := e - 200 }

/-- m × 2^e at a scale of 2^p. -/
def scaleTo (p m : Nat) (e : Int) : Ival :=
  let k := e + p
  if 0 ≤ k then { lo := m * 2 ^ k.toNat, hi := m * 2 ^ k.toNat }
  else { lo := m / 2 ^ (-k).toNat, hi := m / 2 ^ (-k).toNat + 1 }

/-- Whether m × 2^e is at least 2^n. -/
def atLeast (m : Nat) (e n : Int) : Bool := n ≤ (Nat.log2 m : Int) + e

/-- e^(−y) for y ≥ 0 as an interval at a scale of 2^(p + k), with k: y = k ln 2 + r. -/
def expNeg (p : Nat) (y : Ival) : Ival × Nat :=
  let l := ln2 p
  let k := y.lo / l.hi
  let r : Ival := { lo := y.lo - k * l.hi, hi := y.hi - k * l.lo }
  ((Ival.one p).div p (expIval p r), k)

/-! ## The functions of a finite operand that is not a special input -/

/-- 2^x for x = ± m × 2^e that is no integer. -/
def exp2Encl (neg : Bool) (m : Nat) (e : Int) : Encl :=
  if !(atLeast m e (-102)) then (if neg then justBelow false 1 0 else justAbove false 1 0)
  else if atLeast m e 14 then (if neg then tinyEncl false else hugeEncl false)
  else
    let p := 256
    let x := scaleTo p m e
    let n := x.lo / 2 ^ p
    -- f in (0, 1): x = n + f, or x = −(n + 1) + f
    let f : Ival := if neg then { lo := (n + 1) * 2 ^ p - x.hi, hi := (n + 1) * 2 ^ p - x.lo }
                    else { lo := x.lo - n * 2 ^ p, hi := x.hi - n * 2 ^ p }
    let r := expIval p (f.mul p (ln2 p))
    { neg := false, lo := r.lo, hi := r.hi + 1, exp := (if neg then -((n : Int) + 1) else n) - p }

/-- log₂ x for x = m × 2^e that is no power of two. -/
def log2Encl (m : Nat) (e : Int) : Encl :=
  let p := 256
  let k := Nat.log2 m
  let mu : Ival := { lo := m * 2 ^ p / 2 ^ k, hi := m * 2 ^ p / 2 ^ k }
  let t := (mu.sub (Ival.one p)).div p (mu.add (Ival.one p))
  let a := atanhIval p t
  let f := (a.add a).div p (ln2 p)
  let c : Int := k + e
  let lo := c * (2 ^ p : Nat) + f.lo
  let hi := c * (2 ^ p : Nat) + f.hi
  if 0 ≤ lo then { neg := false, lo := lo.toNat, hi := hi.toNat + 1, exp := -256 }
  else { neg := true, lo := (-hi).toNat, hi := (-lo).toNat + 1, exp := -256 }

/-- tanh x, below 1 in magnitude. -/
def tanhEncl (neg : Bool) (m : Nat) (e : Int) : Encl :=
  if !(atLeast m e (-52)) then justBelow neg m e
  else if atLeast m e 6 then justBelow neg 1 0
  else
    let p := 400
    let q := expNeg p (scaleTo p m (e + 1))
    let u : Ival := { lo := q.1.lo / 2 ^ q.2, hi := q.1.hi / 2 ^ q.2 + 1 }
    let r := ((Ival.one p).sub u).div p ((Ival.one p).add u)
    { neg := neg, lo := r.lo, hi := min (r.hi + 1) (2 ^ p), exp := -400 }

/-- 1 ÷ (1 + e^(−x)), below 1. -/
def sigmEncl (neg : Bool) (m : Nat) (e : Int) : Encl :=
  if !(atLeast m e (-102)) then
    (if neg then justBelow false 1 (-1) else justAbove false 1 (-1))
  else if !neg && atLeast m e 7 then justBelow false 1 0
  else if atLeast m e 11 then tinyEncl false
  else
    let p := 400
    let q := expNeg p (scaleTo p m e)
    let u : Ival := { lo := q.1.lo / 2 ^ q.2, hi := q.1.hi / 2 ^ q.2 + 1 }
    let d := (Ival.one p).add u
    if neg then
      let r := q.1.div p d
      { neg := false, lo := r.lo, hi := r.hi + 1, exp := -400 - (q.2 : Int) }
    else
      let r := (Ival.one p).div p d
      { neg := false, lo := r.lo, hi := min (r.hi + 1) (2 ^ p), exp := -400 }

/-- Σ x^(2n+1) ÷ (1 × 3 × … × (2n+1)). -/
def gaussSeries (p : Nat) (x2 : Ival) : Nat → Nat → Ival → Ival → Ival
  | 0, _, term, acc => acc.add { lo := 0, hi := 2 * term.hi + 2 }
  | n + 1, k, term, acc => let t := (term.mul p x2).divN k; gaussSeries p x2 n (k + 2) t (acc.add t)

/-- x × (1 + erf(x ÷ √2)) ÷ 2. -/
def geluEncl (neg : Bool) (m : Nat) (e : Int) : Encl :=
  if !(atLeast m e (-102)) then (if neg then justBelow true m (e - 1) else justAbove false m (e - 1))
  else if atLeast m e 6 then (if neg then tinyEncl true else justBelow false m e)
  else
    -- x² ÷ 2 bounds the bits that 1 − erf loses
    let x8 := (scaleTo 8 m e).hi
    let p := 400 + x8 * x8 / 2 ^ 16 * 2
    let x := scaleTo p m e
    let x2 := x.mul p x
    let q := expNeg p (x2.divN 2)
    let two := (piIval p).add (piIval p)
    let g := (q.1.div p (two.sqrt p))
    let ser := gaussSeries p x2 (p + 64) 3 x x
    let t : Ival := { lo := g.lo * ser.lo / 2 ^ (p + q.2), hi := g.hi * ser.hi / 2 ^ (p + q.2) + 1 }
    let half : Ival := { lo := 2 ^ (p - 1), hi := 2 ^ (p - 1) }
    let phi := if neg then half.sub t else half.add t
    let r := phi.mul p x
    { neg := neg, lo := r.lo, hi := r.hi + 1, exp := -(p : Int) }

/-! ## The functions of a value (08 R158) -/

/-- The choice for an operand whose enclosure does not decide. -/
def roundChoice (fn x : Nat) : Bool := Config.roundUp fn x

/-- A NaN operand of a special function. -/
def Fmt.nanOf (f : Fmt) (signalling : Bool) : Nat × Flags := (f.nan, if signalling then fInvalid else 0)

/-- ± m × 2^e as an integer, when it is one of small magnitude. -/
def smallInt (neg : Bool) (m : Nat) (e : Int) : Option Int :=
  if atLeast m e 14 then none
  else if 0 ≤ e then some (dyadic neg (m * 2 ^ e.toNat))
  else if m % 2 ^ (-e).toNat = 0 then some (dyadic neg (m / 2 ^ (-e).toNat)) else none

/-- The reciprocal. -/
def Fmt.rcp (f : Fmt) (rm : Nat) (ftz : Bool) (v : FV) : Nat × Flags := f.div rm ftz (.fin false 1 0) v

def Fmt.exp2 (f : Fmt) (rm : Nat) (ftz : Bool) (x : Nat) : FV → Nat × Flags
  | .nan s => f.nanOf s
  | .inf n => if n then (0, 0) else f.deliver rm ftz (.inf false) 0
  | .fin n m e =>
    if m = 0 then f.round rm ftz false 1 0 false
    else match smallInt n m e with
      | some k => f.round rm ftz false 1 k false
      | none => f.enclose rm ftz (roundChoice 0 x) (exp2Encl n m e)

def Fmt.log2 (f : Fmt) (rm : Nat) (ftz : Bool) (x : Nat) : FV → Nat × Flags
  | .nan s => f.nanOf s
  | .inf n => if n then (f.nan, fInvalid) else f.deliver rm ftz (.inf false) 0
  | .fin n m e =>
    if m = 0 then f.deliver rm ftz (.inf true) fDivZero
    else if n then (f.nan, fInvalid)
    else if m = 2 ^ Nat.log2 m then f.deliver rm ftz (ofInt ((Nat.log2 m : Int) + e)) 0
    else f.enclose rm ftz (roundChoice 1 x) (log2Encl m e)

def Fmt.tanh (f : Fmt) (rm : Nat) (ftz : Bool) (x : Nat) : FV → Nat × Flags
  | .nan s => f.nanOf s
  | .inf n => f.round rm ftz n 1 0 false
  | .fin n m e => if m = 0 then (f.signed n 0, 0) else f.enclose rm ftz (roundChoice 2 x) (tanhEncl n m e)

def Fmt.sigm (f : Fmt) (rm : Nat) (ftz : Bool) (x : Nat) : FV → Nat × Flags
  | .nan s => f.nanOf s
  | .inf n => if n then (0, 0) else f.round rm ftz false 1 0 false
  | .fin n m e =>
    if m = 0 then f.round rm ftz false 1 (-1) false else f.enclose rm ftz (roundChoice 3 x) (sigmEncl n m e)

def Fmt.gelu (f : Fmt) (rm : Nat) (ftz : Bool) (x : Nat) : FV → Nat × Flags
  | .nan s => f.nanOf s
  | .inf n => if n then (f.signed true 0, 0) else f.deliver rm ftz (.inf false) 0
  | .fin n m e => if m = 0 then (f.signed n 0, 0) else f.enclose rm ftz (roundChoice 4 x) (geluEncl n m e)

end Sys2Proof.Machine
end

