-- ==== Sys2Proof/Machine/VFloat.lean ====
section
/-! DEFINITION. The vector floating-point families (09 R180 to R185). -/

namespace Sys2Proof.Machine

/-! ## The strip's modes -/

/-- The rounding mode and the flush of the place in program order (07 R130, 08 R153). -/
structure FMode where
  rm : Nat
  daz : Bool
  ftz : Bool
  deriving DecidableEq, Repr

def Thread.fmode (t : Thread) : FMode :=
  { rm := t.rm, daz := bitAt t.vec.flush 1, ftz := bitAt t.vec.flush 0 }

/-- Tags FP16, BF16, FP32 and FP64. -/
def isF (t : Nat) : Bool := 9 ≤ t && t ≤ 12

/-- Tags E4M3 and E5M2. -/
def isF8 (t : Nat) : Bool := t == 13 || t == 14

/-- F and F8 tags. -/
def isFF8 (t : Nat) : Bool := isF t || isF8 t

/-- Tags FP16, BF16 and FP32. -/
def isShortF (t : Nat) : Bool := t == 9 || t == 10 || t == 11

/-- A value times a power of two. -/
def FV.scale (k : Int) : FV → FV
  | .fin n m e => .fin n m (e + k)
  | v => v

/-- The format of a floating-point tag; the tags of the other classes never reach it. -/
def fmtOr (t : Nat) : Fmt := (fmtOf t).getD fmtFp32

/-- A pattern of a tag as a value. -/
def valOf (q : FMode) (t x : Nat) : FV := (fmtOr t).decode q.daz x

/-- A binary operation on vectors: `op` is given the mode, the format and the two patterns. -/
def fpBin (ok : Nat → Bool) (op : FMode → Nat → Nat → Nat → Nat × Flags) (d a b : BitVec 7) (m z : Bool) (s : State) : Out :=
  let q := s.me.fmode
  ewise d [a, b] m z ok id (fun t e => op q t ((s.vreg a).read t e) ((s.vreg b).read t e)) s

/-- The same with a scalar in place of vb. -/
def fpBinX (ok : Nat → Bool) (op : FMode → Nat → Nat → Nat → Nat × Flags) (d a b : BitVec 7) (m z : Bool) (s : State) : Out :=
  let q := s.me.fmode
  ewise d [a] m z ok id (fun t e => op q t ((s.vreg a).read t e) (lowBits (tagWidth t) (s.rd b).toNat)) s

/-- A unary operation that keeps va's tag. -/
def fpUn (ok : Nat → Bool) (op : FMode → Nat → Nat → Nat × Flags) (d a : BitVec 7) (m z : Bool) (s : State) : Out :=
  let q := s.me.fmode
  ewise d [a] m z ok id (fun t e => op q t ((s.vreg a).read t e)) s

/-! ## Arithmetic (09 R180) -/

def fopAdd (q : FMode) (t x y : Nat) : Nat × Flags := (fmtOr t).result q.rm q.ftz (addFV q.rm (valOf q t x) (valOf q t y))
def fopSub (q : FMode) (t x y : Nat) : Nat × Flags :=
  (fmtOr t).result q.rm q.ftz (addFV q.rm (valOf q t x) (valOf q t y).negate)
def fopMul (q : FMode) (t x y : Nat) : Nat × Flags := (fmtOr t).result q.rm q.ftz (mulFV (valOf q t x) (valOf q t y))
def fopDiv (q : FMode) (t x y : Nat) : Nat × Flags := (fmtOr t).div q.rm q.ftz (valOf q t x) (valOf q t y)

def execVfadd (d a b : BitVec 7) (m z : Bool) (s : State) : Out := fpBin isF fopAdd d a b m z s
def execVfaddX (d a b : BitVec 7) (m z : Bool) (s : State) : Out := fpBinX isF fopAdd d a b m z s
def execVfsub (d a b : BitVec 7) (m z : Bool) (s : State) : Out := fpBin isF fopSub d a b m z s
def execVfsubX (d a b : BitVec 7) (m z : Bool) (s : State) : Out := fpBinX isF fopSub d a b m z s
def execVfmul (d a b : BitVec 7) (m z : Bool) (s : State) : Out := fpBin isF fopMul d a b m z s
def execVfmulX (d a b : BitVec 7) (m z : Bool) (s : State) : Out := fpBinX isF fopMul d a b m z s
def execVfdiv (d a b : BitVec 7) (m z : Bool) (s : State) : Out := fpBin isF fopDiv d a b m z s
def execVfdivX (d a b : BitVec 7) (m z : Bool) (s : State) : Out := fpBinX isF fopDiv d a b m z s

/-- ± x × y ± w, exact (08 R167). -/
def fusedFV (q : FMode) (negP negC : Bool) (x y w : FV) : FV × Flags :=
  let p := mulFV x y
  let t := addFV q.rm (if negP then p.1.negate else p.1) (if negC then w.negate else w)
  (t.1, orF p.2 t.2)

/-- The fused forms of 0x52. -/
def fused (negP negC : Bool) (d a b : BitVec 7) (m z : Bool) (s : State) : Out :=
  let q := s.me.fmode
  ewise d [a, b, d] m z isF id (fun t e =>
    (fmtOr t).result q.rm q.ftz (fusedFV q negP negC (valOf q t ((s.vreg a).read t e)) (valOf q t ((s.vreg b).read t e))
      (valOf q t ((s.vreg d).read t e)))) s

/-- The fused forms of 0x53. -/
def fusedX (negP negC : Bool) (d a b : BitVec 7) (m z : Bool) (s : State) : Out :=
  let q := s.me.fmode
  ewise d [a, d] m z isF id (fun t e =>
    (fmtOr t).result q.rm q.ftz (fusedFV q negP negC (valOf q t ((s.vreg a).read t e))
      (valOf q t (lowBits (tagWidth t) (s.rd b).toNat)) (valOf q t ((s.vreg d).read t e)))) s

def execVfma (d a b : BitVec 7) (m z : Bool) (s : State) : Out := fused false false d a b m z s
def execVfms (d a b : BitVec 7) (m z : Bool) (s : State) : Out := fused false true d a b m z s
def execVfnma (d a b : BitVec 7) (m z : Bool) (s : State) : Out := fused true true d a b m z s
def execVfnms (d a b : BitVec 7) (m z : Bool) (s : State) : Out := fused true false d a b m z s
def execVfmaX (d a b : BitVec 7) (m z : Bool) (s : State) : Out := fusedX false false d a b m z s
def execVfmsX (d a b : BitVec 7) (m z : Bool) (s : State) : Out := fusedX false true d a b m z s
def execVfnmaX (d a b : BitVec 7) (m z : Bool) (s : State) : Out := fusedX true true d a b m z s
def execVfnmsX (d a b : BitVec 7) (m z : Bool) (s : State) : Out := fusedX true false d a b m z s

/-! ## Compares (09 R181) -/

/-- A compare, tagged MSK; `op` numbers the comparison as `compareFV` does. -/
def fpCmp (op : Nat) (d a b : BitVec 7) (m z : Bool) (s : State) : Out :=
  let q := s.me.fmode
  ewise d [a, b] m z isFF8 (fun _ => tagMsk) (fun t e =>
    let r := compareFV op (valOf q t ((s.vreg a).read t e)) (valOf q t ((s.vreg b).read t e))
    (b2n r.1, r.2)) s

def fpCmpX (op : Nat) (d a b : BitVec 7) (m z : Bool) (s : State) : Out :=
  let q := s.me.fmode
  ewise d [a] m z isFF8 (fun _ => tagMsk) (fun t e =>
    let r := compareFV op (valOf q t ((s.vreg a).read t e)) (valOf q t (lowBits (tagWidth t) (s.rd b).toNat))
    (b2n r.1, r.2)) s

def execVfeq (d a b : BitVec 7) (m z : Bool) (s : State) : Out := fpCmp 1 d a b m z s
def execVflt (d a b : BitVec 7) (m z : Bool) (s : State) : Out := fpCmp 0 d a b m z s
def execVfle (d a b : BitVec 7) (m z : Bool) (s : State) : Out := fpCmp 2 d a b m z s
def execVfun (d a b : BitVec 7) (m z : Bool) (s : State) : Out := fpCmp 3 d a b m z s
def execVfeqX (d a b : BitVec 7) (m z : Bool) (s : State) : Out := fpCmpX 1 d a b m z s
def execVfltX (d a b : BitVec 7) (m z : Bool) (s : State) : Out := fpCmpX 0 d a b m z s
def execVfleX (d a b : BitVec 7) (m z : Bool) (s : State) : Out := fpCmpX 2 d a b m z s
def execVfunX (d a b : BitVec 7) (m z : Bool) (s : State) : Out := fpCmpX 3 d a b m z s

/-! ## Selection and sign forms (09 R182) -/

/-- An operand as it is read: a subnormal read as zero is the zero of its sign (08 R153). -/
def asRead (q : FMode) (t x : Nat) : Nat :=
  let f := fmtOr t
  if q.daz && f.flushes && bitsAt x f.mbits f.ebits == 0 then f.signed (bitAt x f.signBit) 0 else x

/-- Minimum or maximum of two patterns by the rules of `fmin` and `fmax`. -/
def pickBits (max_ : Bool) (q : FMode) (t x y : Nat) : Nat × Flags :=
  let r := pickFV max_ (valOf q t x) (valOf q t y)
  (match r.1 with
    | .first => asRead q t x
    | .second => asRead q t y
    | .nan => (fmtOr t).nan, r.2)

def execVfmin (d a b : BitVec 7) (m z : Bool) (s : State) : Out := fpBin isFF8 (pickBits false) d a b m z s
def execVfmax (d a b : BitVec 7) (m z : Bool) (s : State) : Out := fpBin isFF8 (pickBits true) d a b m z s

/-- The value of the sign bit of a tag. -/
def signOf (t : Nat) : Nat := 2 ^ (fmtOr t).signBit

/-- A pattern with its sign bit given. -/
def withSign (t x : Nat) (neg : Bool) : Nat := x % signOf t + (if neg then signOf t else 0)

/-- A pattern's sign bit. -/
def signBitOf (t x : Nat) : Bool := bitAt x (fmtOr t).signBit

def execVfabs (d a : BitVec 7) (m z : Bool) (s : State) : Out := fpUn isFF8 (fun _ t x => (withSign t x false, 0)) d a m z s
def execVfneg (d a : BitVec 7) (m z : Bool) (s : State) : Out :=
  fpUn isFF8 (fun _ t x => (withSign t x (!(signBitOf t x)), 0)) d a m z s
def execVfsgnj (d a b : BitVec 7) (m z : Bool) (s : State) : Out :=
  fpBin isFF8 (fun _ t x y => (withSign t x (signBitOf t y), 0)) d a b m z s
def execVfsgnjn (d a b : BitVec 7) (m z : Bool) (s : State) : Out :=
  fpBin isFF8 (fun _ t x y => (withSign t x (!(signBitOf t y)), 0)) d a b m z s
def execVfsgnjx (d a b : BitVec 7) (m z : Bool) (s : State) : Out :=
  fpBin isFF8 (fun _ t x y => (withSign t x (signBitOf t x != signBitOf t y), 0)) d a b m z s

/-- An FP32 bound converted into a format: no flag, never flushed. -/
def boundOf32 (q : FMode) (t x : Nat) : Nat := ((fmtOr t).deliver q.rm false (fmtFp32.decode false x) 0).1

/-- min(max(x, lo), hi); a NaN operand gives the canonical NaN. The bounds are operands of the selection, read as R153
says (log entry 24). -/
def clampBits (q : FMode) (lo hi : Nat) (t x : Nat) : Nat × Flags :=
  match valOf q t x with
  | .nan sg => ((fmtOr t).nan, if sg then fInvalid else 0)
  | _ => ((pickBits false q t (pickBits true q t x (boundOf32 q t lo)).1 (boundOf32 q t hi)).1, 0)

def execVfclampX (d a b : BitVec 7) (m z : Bool) (s : State) : Out :=
  let g := (s.rd b).toNat
  fpUn isF (fun q t x => clampBits q (bitsAt g 0 32) (bitsAt g 32 32) t x) d a m z s

def execVfrelu (d a : BitVec 7) (m z : Bool) (s : State) : Out :=
  fpUn isFF8 (fun q t x => match valOf q t x with
    | .nan sg => ((fmtOr t).nan, if sg then fInvalid else 0)
    | _ => pickBits true q t x 0) d a m z s

/-! ## Special functions (08 R158, 09 R183) -/

def execVfsqrt (d a : BitVec 7) (m z : Bool) (s : State) : Out :=
  fpUn isF (fun q t x => (fmtOr t).sqrt q.rm q.ftz (valOf q t x)) d a m z s
def execVfrsqrt (d a : BitVec 7) (m z : Bool) (s : State) : Out :=
  fpUn isF (fun q t x => (fmtOr t).rsqrt q.rm q.ftz (valOf q t x)) d a m z s
def execVfrcp (d a : BitVec 7) (m z : Bool) (s : State) : Out :=
  fpUn isF (fun q t x => (fmtOr t).rcp q.rm q.ftz (valOf q t x)) d a m z s
def execVfexp2 (d a : BitVec 7) (m z : Bool) (s : State) : Out :=
  fpUn isF (fun q t x => (fmtOr t).exp2 q.rm q.ftz x (valOf q t x)) d a m z s
def execVflog2 (d a : BitVec 7) (m z : Bool) (s : State) : Out :=
  fpUn isF (fun q t x => (fmtOr t).log2 q.rm q.ftz x (valOf q t x)) d a m z s
def execVftanh (d a : BitVec 7) (m z : Bool) (s : State) : Out :=
  fpUn isF (fun q t x => (fmtOr t).tanh q.rm q.ftz x (valOf q t x)) d a m z s
def execVfsigm (d a : BitVec 7) (m z : Bool) (s : State) : Out :=
  fpUn isF (fun q t x => (fmtOr t).sigm q.rm q.ftz x (valOf q t x)) d a m z s
def execVfgelu (d a : BitVec 7) (m z : Bool) (s : State) : Out :=
  fpUn isF (fun q t x => (fmtOr t).gelu q.rm q.ftz x (valOf q t x)) d a m z s

/-! ## Widening forms (09 R184) -/

/-- The tag twice the width: FP32 for FP16 and BF16, FP64 for FP32. -/
def wideTag (t : Nat) : Nat := if t = 11 then 12 else 11

def isWidens (t : Nat) : Bool := t == 9 || t == 10 || t == 11

/-- A widening sum or product. -/
def widening (op : FMode → FV → FV → FV × Flags) (d a b : BitVec 7) (m z : Bool) (s : State) : Out :=
  let q := s.me.fmode
  ewise d [a, b] m z isWidens (derived wideTag) (fun t e =>
    (fmtOr (wideTag t)).result q.rm q.ftz (op q (valOf q t ((s.vreg a).read t e)) (valOf q t ((s.vreg b).read t e)))) s

def execVfwadd (d a b : BitVec 7) (m z : Bool) (s : State) : Out := widening (fun q x y => addFV q.rm x y) d a b m z s
def execVfwmul (d a b : BitVec 7) (m z : Bool) (s : State) : Out := widening (fun _ x y => mulFV x y) d a b m z s

/-- The tag of a widened sum: from va and vb, or, when both are PSN, the one that vd carries. -/
def wideSumTag (t td : Nat) : Nat := if t = tagPsn then td else wideTag t

/-- Whether vd may accumulate: it carries the wide tag, or PSN. -/
def wideSumOk (t td : Nat) : Bool :=
  if t = tagPsn then td == 11 || td == 12 || td == tagPsn else isWidens t && tagOrPsn td (wideTag t)

def execVfwma (d a b : BitVec 7) (m z : Bool) (s : State) : Out :=
  let q := s.me.fmode
  let td := s.vtag d
  vecIssue s [d, a, b] fun _ =>
    match joinTags [s.vtag a, s.vtag b] with
    | none => instrFault s 0x12
    | some t =>
      tagWrite s d (wideSumOk t td && maskOk s m) fun _ =>
        elementwise s { d := d, tag := wideSumTag t td, m := m, z := z } ([a, b, d].any (fun r => s.vtag r == tagPsn))
          (fun e => (fmtOr (wideTag t)).result q.rm q.ftz (fusedFV q false false (valOf q t ((s.vreg a).read t e))
            (valOf q t ((s.vreg b).read t e)) (valOf q (wideTag t) ((s.vreg d).read (wideTag t) e))))

/-! ## Dot products (09 R185) -/

/-- vd[e] plus n products, exact, rounded once into FP32 (08 R167). -/
def fpDot (n : Nat) (q : FMode) (ta tb : Nat) (va vb vd : VReg) (e : Nat) : Nat × Flags :=
  let ps := (List.range n).map (fun j => mulFV (valOf q ta (va.at_ ta (n * e + j))) (valOf q tb (vb.at_ tb (n * e + j))))
  let r := sumFV q.rm (valOf q 11 (vd.read 11 e) :: ps.map (·.1))
  fmtFp32.result q.rm q.ftz (r.1, ps.foldl (fun f p => orF f p.2) r.2)

/-- A float dot product: the sources' tags are checked by `ok`. -/
def fpDotOp (n : Nat) (ok : Nat → Nat → Bool) (d a b : BitVec 7) (m z : Bool) (s : State) : Out :=
  let q := s.me.fmode
  vecIssue s [d, a, b] fun _ =>
    tagWrite s d (ok (s.vtag a) (s.vtag b) && tagOrPsn (s.vtag d) 11 && maskOk s m) fun _ =>
      elementwise s { d := d, tag := 11, m := m, z := z } ([a, b, d].any (fun r => s.vtag r == tagPsn))
        (fpDot n q (s.vtag a) (s.vtag b) (s.vreg a) (s.vreg b) (s.vreg d))

def execVfdot2 (d a b : BitVec 7) (m z : Bool) (s : State) : Out :=
  fpDotOp 2 (fun x y => match joinTags [x, y] with
    | some t => t == 9 || t == 10 || t == tagPsn
    | none => false) d a b m z s

def execVfdot4 (d a b : BitVec 7) (m z : Bool) (s : State) : Out :=
  fpDotOp 4 (fun x y => (isF8 x || x == tagPsn) && (isF8 y || y == tagPsn)) d a b m z s

end Sys2Proof.Machine
end

