-- ==== Sys2Proof/Machine/Ladle.lean ====
section
/-! DEFINITION. The Ladle: iterator images, pulls and the iterator instructions (15 R266 to R282). -/

namespace Sys2Proof.Machine

/-! ## Images (15 R266, R267, R271) -/

def Slot.code (x : Slot) : Nat := x.w % 4
def Slot.sx (x : Slot) : Bool := bitAt x.w 2
def Slot.done (x : Slot) : Bool := bitAt x.st 0
def Slot.held (x : Slot) : Bool := bitAt x.st 1
def Slot.active (x : Slot) : Bool := bitAt x.st 2

/-- A slot from the 64 bytes it takes, with its reserved bytes. -/
def Slot.ofBytes (l : List Byte) : Slot :=
  { kind := bytesField l 0 1, st := bytesField l 1 1, w := bytesField l 2 1, aux := bytesField l 3 1,
    f0 := dword l 1, f1 := dword l 2, f2 := dword l 3, f3 := dword l 4, f4 := dword l 5, f5 := dword l 6,
    hold := dword l 7 }

def Slot.bytes (x : Slot) : List Byte :=
  leBytes 1 x.kind ++ leBytes 1 x.st ++ leBytes 1 x.w ++ leBytes 1 x.aux ++ leBytes 4 0 ++
  [x.f0, x.f1, x.f2, x.f3, x.f4, x.f5, x.hold].flatMap (fun v => leBytes 8 v.toNat)

/-- The bytes of an image: header and slots. -/
def Iter.bytes (x : Iter) : List Byte :=
  leBytes 1 x.slots.length ++ leBytes 1 x.st ++ leBytes 6 0 ++ leBytes 8 x.total.toNat ++ leBytes 48 0 ++
  x.slots.flatMap Slot.bytes

/-- What a slot kind takes, how it uses W and AUX, how many kind fields it has, and whether it can hold an input
(15 R268, R270; log entry 30). -/
structure KindSpec where
  kids : Nat
  /-- 0: W is zero; 1: a load width; 2: FLATTEN's code. -/
  useW : Nat
  /-- 0: AUX is zero; 1: a format; 2: COND 0 to 5; 3: COND 0 to 6; 4: a width code with SX. -/
  useAux : Nat
  fields : Nat
  holds : Bool
  deriving DecidableEq, Repr

def kindSpec : Nat → Option KindSpec
  | 0x01 => some { kids := 0, useW := 0, useAux := 0, fields := 3, holds := false }
  | 0x02 => some { kids := 0, useW := 1, useAux := 0, fields := 4, holds := false }
  | 0x03 => some { kids := 0, useW := 0, useAux := 1, fields := 4, holds := false }
  | 0x04 => some { kids := 0, useW := 0, useAux := 0, fields := 3, holds := false }
  | 0x10 => some { kids := 1, useW := 0, useAux := 0, fields := 2, holds := false }
  | 0x11 => some { kids := 1, useW := 1, useAux := 0, fields := 2, holds := true }
  | 0x12 => some { kids := 1, useW := 0, useAux := 2, fields := 1, holds := false }
  | 0x13 => some { kids := 1, useW := 0, useAux := 0, fields := 2, holds := true }
  | 0x14 => some { kids := 1, useW := 1, useAux := 3, fields := 3, holds := true }
  | 0x20 => some { kids := 2, useW := 0, useAux := 0, fields := 0, holds := true }
  | 0x21 => some { kids := 2, useW := 0, useAux := 0, fields := 1, holds := false }
  | 0x22 => some { kids := 1, useW := 2, useAux := 4, fields := 5, holds := true }
  | _ => none

/-- The formats of the Colander (15 R269). -/
def colanderFmt (f : Nat) : Bool := f == 1 || f == 3 || f == 5 || f == 9 || f == 10 || f == 11 || f == 13 || f == 14

def Slot.fields (x : Slot) : List Word := [x.f0, x.f1, x.f2, x.f3, x.f4, x.f5]

/-- A slot that its kind allows (15 R271), apart from its place in the stack. ACTIVE on a kind other than FLATTEN is
malformed (log entry 110). -/
def Slot.ok (x : Slot) : Bool :=
  match kindSpec x.kind with
  | none => false
  | some k =>
    x.st < 8 && (!x.active || x.kind == 0x22) && (k.holds || (!x.held && x.hold == 0)) &&
    (x.fields.drop k.fields).all (· == 0) &&
    (match k.useW with | 0 => x.w == 0 | 1 => x.w < 8 | _ => x.w == 2 || x.w == 3) &&
    (match k.useAux with
     | 0 => x.aux == 0
     | 1 => colanderFmt x.aux && x.f0.toNat % tagWidth x.aux == 0 && (isInt x.aux || x.f3.toNat < 2 ^ 32)
     | 2 => x.aux ≤ 5
     | 3 => x.aux ≤ 5 || (x.aux == 6 && (x.code == 1 || x.code == 2))
     | _ => x.aux < 8) &&
    (x.kind != 0x01 || x.f2 != 0) && (x.kind != 0x21 || x.f0.toNat ≤ 1)

/-- The children of each slot from slot `i` on, given the subtrees open before it, latest first; none when the postfix
sequence is broken or a ZIP stands anywhere but at the root. -/
def childrenFrom : List Slot → Nat → List Nat → Option (List (List Nat))
  | [], _, open_ => if open_.length = 1 then some [] else none
  | x :: r, i, open_ =>
    let k := ((kindSpec x.kind).map (·.kids)).getD 0
    if open_.length < k || (x.kind == 0x20 && !r.isEmpty) then none
    else (childrenFrom r (i + 1) (i :: open_.drop k)).map (fun l => (open_.take k).reverse :: l)

/-- An image from its bytes, when it is well formed (15 R271). -/
def Iter.ofBytes (image : Word) (l : List Byte) : Option Iter :=
  let n := bytesField l 0 1
  let slots := (List.range n).map (fun i => Slot.ofBytes ((l.drop (64 * (i + 1))).take 64))
  let reserved := (List.range n).all (fun i => bytesField l (64 * (i + 1) + 4) 4 == 0)
  if 1 ≤ n && n ≤ 8 && bytesField l 1 1 < 4 && bytesField l 2 6 == 0 && ((l.drop 16).take 48).all (· == 0) && reserved &&
      slots.all Slot.ok && (childrenFrom slots 0 []).isSome then
    some { image := image, st := bytesField l 1 1, total := dword l 1, slots := slots }
  else none

/-! ## Reads (15 R272) -/

/-- A thread's read of bytes that the caches of its core do not serve. -/
def readLadle (s : State) (va : Word) (n align : Nat) : Except Stop (List Byte × State) :=
  match checkRead s (s.env s.cur) va n align with
  | .error e => .error e
  | .ok p => .ok ((s.beforeEngine s.cur [p]).readBytes s.cur p.pas)

/-- An image read in units of 64 bytes, each a one-element access. -/
def readUnits (s : State) (va : Word) : Nat → Except Stop (List Byte × State)
  | 0 => .ok ([], s)
  | n + 1 =>
    match readLadle s va 64 64 with
    | .error e => .error e
    | .ok (l, s) =>
      match readUnits s (va + 64) n with
      | .error e => .error e
      | .ok (r, s) => .ok (l ++ r, s)

/-- An image read whole: its header, then NSLOT slots, whatever NSLOT holds (15 R275). -/
def readImage (s : State) (va : Word) : Except Stop (List Byte × State) :=
  match readUnits s va 1 with
  | .error e => .error e
  | .ok (l, s) =>
    let n := bytesField l 0 1
    match readUnits s (va + 64) n with
    | .error e => .error e
    | .ok (r, s) => .ok (l ++ r, s)

/-- Where an image's bytes lie, each unit checked as a write. -/
def imagePlaces (s : State) (va : Word) : Nat → Except Stop (List Nat)
  | 0 => .ok []
  | n + 1 =>
    match checkWrite s (s.env s.cur) va 64 64 with
    | .error e => .error e
    | .ok p =>
      match imagePlaces s (va + 64) n with
      | .error e => .error e
      | .ok l => .ok (p.pas ++ l)

/-- A handle's state written to its image as stores of the thread; on a fault nothing is written (15 R281). -/
def writeImage (s : State) (x : Iter) : Except Stop State :=
  match imagePlaces s x.image (x.slots.length + 1) with
  | .error e => .error e
  | .ok pas =>
    let s := (s.store s.cur pas pas x.bytes).afterStore s.cur
    .ok (s.tally (fun c => { c with bytesWritten := (c.bytesWritten + pas.length) % 2 ^ 64 }))

/-! ## A pull (15 R268 to R270, R277, R278) -/

/-- A pull under way: examinations counted, their bound, and how many values are delivered; `two` for `next2`, and
`halt` for the examinations at which a forced pre-emption finds it (15 R279). -/
structure Pull where
  s : State
  slots : List Slot
  kids : List (List Nat)
  e : Nat
  lim : Nat
  two : Bool
  d : Nat
  halt : Option Nat
  /-- FREEZE at issue: a pre-emption stops the pull only while it has delivered nothing (15 R279). -/
  frozen : Bool := false
  deriving DecidableEq, Repr

/-- What one step of a slot gives: a value, paired with FLATTEN's outer index or ZIP's right value, or why not. -/
inductive Pulled where
  | value (x y : Word)
  | done
  | bound
  | stop (f : Stop)
  deriving DecidableEq, Repr

def Slot.empty : Slot :=
  { kind := 0, st := 0, w := 0, aux := 0, f0 := 0, f1 := 0, f2 := 0, f3 := 0, f4 := 0, f5 := 0, hold := 0 }

def Pull.slot (p : Pull) (i : Nat) : Slot := p.slots.getD i Slot.empty

def Pull.mod (p : Pull) (i : Nat) (f : Slot → Slot) : Pull := { p with slots := p.slots.set i (f (p.slot i)) }

def Slot.setSt (x : Slot) (bit : Nat) (on : Bool) : Slot := { x with st := if on then setBit x.st bit else clearBit x.st bit }

/-- A slot that produces nothing more. -/
def Pull.finish (p : Pull) (i : Nat) : Pulled × Pull := (.done, p.mod i (fun x => x.setSt 0 true))

def Slot.keep_ (x : Slot) (v : Word) : Slot := { x with hold := v, st := setBit x.st 1 }

def Slot.unhold (x : Slot) : Slot := { x with hold := 0, st := clearBit x.st 1 }

/-- The bound on examinations is reached (15 R277). -/
def Pull.bounded (p : Pull) : Bool := p.lim ≤ p.e && (!p.two || 0 < p.d)

/-- A forced pre-emption stops the pull here (15 R279). -/
def Pull.halted (p : Pull) : Bool := p.halt.any (fun h => h ≤ p.e) && !(p.frozen && 0 < p.d)

/-- One examination, unless the bound or a pre-emption stops the source at its exact place (15 R277, R279). -/
def Pull.exam (p : Pull) : Option Pull :=
  if p.bounded || p.halted then none else some { p with e := p.e + 1 }

/-- A value of a width code loaded, sign-extended when asked. -/
def Pull.load (p : Pull) (va : Word) (code : Nat) (sx : Bool) : Except Stop (Word × Pull) :=
  let n := 2 ^ code
  match readLadle p.s va n n with
  | .error e => .error e
  | .ok (l, s) =>
    let s := s.tally (fun c => { c with bytesRead := (c.bytesRead + n) % 2 ^ 64 })
    .ok (if sx then sext64 (8 * n) (leNat l) else BitVec.ofNat 64 (leNat l), { p with s := s })

/-- The conditions of 06 R102 on 64-bit values. -/
def ladleCond (c : Nat) (v k : Word) : Bool :=
  match c with
  | 0 => v == k
  | 1 => v != k
  | 2 => v.slt k
  | 3 => !(v.slt k)
  | 4 => v.ult k
  | _ => !(v.ult k)

/-- A magnitude against an FP32 threshold (15 R269): a NaN element passes, and a NaN threshold passes nothing else. -/
def magnitudePasses (tag bits thr : Nat) : Bool :=
  match fmtOf tag with
  | none => false
  | some f =>
    let x := f.decode false bits
    let t := fmtFp32.decode false thr
    if x.isNan then true
    else if t.isNan then false
    else cmpFV (if x.sign then x.negate else x) t == .gt

/-- Whether an element passes the Colander (15 R269). -/
def colanderPasses (tag bits : Nat) (thr : Word) : Bool :=
  if isInt tag then thr.toNat < (sext64 (8 * tagWidth tag) bits).toInt.natAbs
  else magnitudePasses tag bits (thr.toNat % 2 ^ 32)

/-- The width code of a width. -/
def widthCode (w : Nat) : Nat := if w = 1 then 0 else if w = 2 then 1 else if w = 4 then 2 else 3

/-- RANGE (15 R268). A sum outside I64 sets DONE and leaves CUR as it was (log entry 109). -/
def stepRange (p : Pull) (i : Nat) : Pulled × Pull :=
  let x := p.slot i
  let cur := x.f0.toInt
  let step := x.f2.toInt
  if (0 < step && cur < x.f1.toInt) || (step < 0 && x.f1.toInt < cur) then
    match p.exam with
    | none => (.bound, p)
    | some p =>
      let n := cur + step
      let fits := -(2 ^ 63 : Int) ≤ n && n < 2 ^ 63
      (.value x.f0 0, p.mod i (fun x => if fits then { x with f0 := BitVec.ofInt 64 n } else x.setSt 0 true))
  else p.finish i

/-- ARRAY (15 R268). -/
def stepArray (p : Pull) (i : Nat) : Pulled × Pull :=
  let x := p.slot i
  if x.f2.toNat < x.f3.toNat then
    match p.exam with
    | none => (.bound, p)
    | some q =>
      match q.load (x.f0 + x.f2 * x.f1) x.code x.sx with
      | .error e => (.stop e, p)
      | .ok (v, q) => (.value v 0, q.mod i (fun x => { x with f2 := x.f2 + 1 }))
  else p.finish i

/-- NZ scans from CUR (15 R268, R269). -/
def stepNz (i : Nat) : Nat → Pull → Pulled × Pull
  | 0, p => (.bound, p)
  | n + 1, p =>
    let x := p.slot i
    if x.f1.toNat < x.f2.toNat then
      match p.exam with
      | none => (.bound, p)
      | some q =>
        let w := tagWidth x.aux
        match q.load (x.f0 + x.f1 * BitVec.ofNat 64 w) (widthCode w) false with
        | .error e => (.stop e, p)
        | .ok (v, q) =>
          let q := q.mod i (fun x => { x with f1 := x.f1 + 1 })
          if colanderPasses x.aux v.toNat x.f3 then (.value x.f1 0, q) else stepNz i n q
    else p.finish i

/-- BITS scans from CUR (15 R268). -/
def stepBits (i : Nat) : Nat → Pull → Pulled × Pull
  | 0, p => (.bound, p)
  | n + 1, p =>
    let x := p.slot i
    if x.f1.toNat < x.f2.toNat then
      match p.exam with
      | none => (.bound, p)
      | some q =>
        match q.load (x.f0 + BitVec.ofNat 64 (x.f1.toNat / 8)) 0 false with
        | .error e => (.stop e, p)
        | .ok (v, q) =>
          let q := q.mod i (fun x => { x with f1 := x.f1 + 1 })
          if bitAt v.toNat (x.f1.toNat % 8) then (.value x.f1 0, q) else stepBits i n q
    else p.finish i

/-- The child pulled: HOLD when it holds an input, else one step of the child (15 R270). -/
def pullChild (step : Nat → Pull → Pulled × Pull) (p : Pull) (i : Nat) : Pulled × Pull :=
  let x := p.slot i
  if x.held then (.value x.hold 0, p.mod i Slot.unhold)
  else step ((p.kids.getD i []).headD 0) p

/-- MAP.AFF and MAP.LOOK (15 R270). A faulting lookup keeps its input in HOLD. -/
def stepMap (step : Nat → Pull → Pulled × Pull) (p : Pull) (i : Nat) : Pulled × Pull :=
  let x := p.slot i
  match pullChild step p i with
  | (.value v _, q) =>
    if x.kind = 0x10 then (.value (x.f0 * v + x.f1) 0, q)
    else match q.load (x.f0 + v * x.f1) x.code x.sx with
      | .error e => (.stop e, q.mod i (fun x => x.keep_ v))
      | .ok (y, q) => (.value y 0, q)
  | (.done, q) => q.finish i
  | r => r

/-- The value a FILTER tests: whether it passes, or why its load stops. -/
def filterTest (q : Pull) (x : Slot) (v : Word) : Except Stop (Bool × Pull) :=
  match x.kind with
  | 0x12 => .ok (ladleCond x.aux v x.f0, q)
  | 0x13 =>
    if x.f1.toNat ≤ v.toNat then .ok (false, q)
    else match q.load (x.f0 + BitVec.ofNat 64 (v.toNat / 8)) 0 false with
      | .error e => .error e
      | .ok (y, q) => .ok (bitAt y.toNat (v.toNat % 8), q)
  | _ =>
    match q.load (x.f0 + v * x.f1) x.code x.sx with
    | .error e => .error e
    | .ok (y, q) =>
      .ok (if x.aux = 6 then
             (if x.code = 1 then magnitudePasses 9 (y.toNat % 2 ^ 16) (x.f2.toNat % 2 ^ 32)
              else magnitudePasses 11 (y.toNat % 2 ^ 32) (x.f2.toNat % 2 ^ 32))
           else ladleCond x.aux y x.f2, q)

/-- A FILTER pulls until a value passes (15 R270). -/
def stepFilter (step : Nat → Pull → Pulled × Pull) (i : Nat) : Nat → Pull → Pulled × Pull
  | 0, p => (.bound, p)
  | n + 1, p =>
    let x := p.slot i
    match pullChild step p i with
    | (.value v _, q) =>
      match filterTest q x v with
      | .error e => (.stop e, q.mod i (fun x => x.keep_ v))
      | .ok (true, q) => (.value v 0, q)
      | .ok (false, q) => stepFilter step i n q
    | (.done, q) => q.finish i
    | r => r

/-- ZIP pulls its left child into HOLD, then its right (15 R270). -/
def stepZip (step : Nat → Pull → Pulled × Pull) (p : Pull) (i : Nat) : Pulled × Pull :=
  let kids := p.kids.getD i []
  let right (q : Pull) : Pulled × Pull :=
    match step (kids.getD 1 0) q with
    | (.value y _, q) => (.value (q.slot i).hold y, q.mod i Slot.unhold)
    | (.done, q) => (q.mod i Slot.unhold).finish i
    | r => r
  if (p.slot i).held then right p
  else match step (kids.getD 0 0) p with
    | (.value v _, q) => right (q.mod i (fun x => x.keep_ v))
    | (.done, q) => q.finish i
    | r => r

/-- CHAIN pulls the child that SIDE names (15 R270). -/
def stepChain (step : Nat → Pull → Pulled × Pull) (p : Pull) (i : Nat) : Pulled × Pull :=
  let kids := p.kids.getD i []
  let right (q : Pull) : Pulled × Pull :=
    match step (kids.getD 1 0) q with
    | (.done, q) => q.finish i
    | r => r
  if (p.slot i).f0 = 0 then
    match step (kids.getD 0 0) p with
    | (.done, q) => right (q.mod i (fun x => { x with f0 := 1 }))
    | r => r
  else right p

/-- An inner position of an open FLATTEN range (15 R270). It counts one examination, at which the bound, which stops
sources, does not stop it (15 R277). -/
def flattenInner (p : Pull) (i : Nat) : Pulled × Pull :=
  if p.halted then (.bound, p)
  else
    let p' := { p with e := p.e + 1 }
    let x := p.slot i
    let next (q : Pull) (v : Word) : Pulled × Pull :=
      (.value v x.f2, q.mod i (fun x =>
        let j := x.f3 + 1
        { x with f3 := j, st := if j = x.f4 then clearBit x.st 2 else x.st }))
    if x.f1 = 0 then next p' x.f3
    else match p'.load (x.f1 + x.f3 * BitVec.ofNat 64 (2 ^ (x.aux % 4))) (x.aux % 4) (bitAt x.aux 2) with
      | .error e => (.stop e, p)
      | .ok (v, q) => next q v

/-- The pointers of an outer index loaded, and its range opened unless it is empty. -/
def flattenOpen (p : Pull) (i : Nat) (v : Word) : Except (Stop × Pull) Pull :=
  let p := p.mod i (fun x => x.keep_ v)
  let x := p.slot i
  let w := BitVec.ofNat 64 (2 ^ x.code)
  match p.load (x.f0 + v * w) x.code false with
  | .error e => .error (e, p)
  | .ok (lo, q) =>
    match q.load (x.f0 + (v + 1) * w) x.code false with
    | .error e => .error (e, q)
    | .ok (hi, q) =>
      .ok (q.mod i (fun x =>
        { x.unhold with f2 := v, f3 := lo, f4 := hi, st := if lo.toNat < hi.toNat then setBit x.unhold.st 2 else x.unhold.st }))

/-- FLATTEN (15 R270). -/
def stepFlatten (step : Nat → Pull → Pulled × Pull) (i : Nat) : Nat → Pull → Pulled × Pull
  | 0, p => (.bound, p)
  | n + 1, p =>
    if (p.slot i).active then flattenInner p i
    else
      let r := if (p.slot i).held then (.value (p.slot i).hold 0, p) else step ((p.kids.getD i []).headD 0) p
      match r with
      | (.value v _, q) =>
        match flattenOpen q i v with
        | .error (e, q) => (.stop e, q)
        | .ok q => stepFlatten step i n q
      | (.done, q) => q.finish i
      | r => r

/-- More steps than any stack of eight slots can take within one pull. -/
def ladleFuel : Nat := 2 ^ 640

/-- One step of a slot; the first argument bounds the depth of the stack. -/
def stepSlot : Nat → Nat → Pull → Pulled × Pull
  | 0, _, p => (.bound, p)
  | n + 1, i, p =>
    let x := p.slot i
    if x.done then (.done, p)
    else match x.kind with
      | 0x01 => stepRange p i
      | 0x02 => stepArray p i
      | 0x03 => stepNz i ladleFuel p
      | 0x04 => stepBits i ladleFuel p
      | 0x10 | 0x11 => stepMap (stepSlot n) p i
      | 0x20 => stepZip (stepSlot n) p i
      | 0x21 => stepChain (stepSlot n) p i
      | 0x22 => stepFlatten (stepSlot n) i ladleFuel p
      | _ => stepFilter (stepSlot n) i ladleFuel p

/-- How a pull ended. -/
inductive PullEnd where
  | full
  | exhausted
  | stopped (f : Stop)
  deriving DecidableEq, Repr

/-- Values pulled from the root until `n` more are delivered, or the pull ends; the values newest first. -/
def pullLoop (root : Nat) : Nat → Pull → List (Word × Word) → PullEnd × Pull × List (Word × Word)
  | 0, p, l => (.full, p, l)
  | n + 1, p, l =>
    if p.bounded || p.halted then (.full, p, l)
    else match stepSlot 9 root p with
      | (.value x y, p) => pullLoop root n { p with d := p.d + 1 } ((x, y) :: l)
      | (.done, p) => (.exhausted, p, l)
      | (.bound, p) => (.full, p, l)
      | (.stop f, p) => (.stopped f, p, l)

/-! ## next and next2 (15 R277, R278) -/

/-- ITX and MORE written. -/
def Vec.pulled (v : Vec) (al : Nat) (itx : Bool) : Vec := { v with al := al, itx := itx, more := !itx, es := 0 }

/-- Values delivered to a destination from position `lo`, and the positions above them closed by policy. -/
def deliver (d : BitVec 7) (tag lo : Nat) (l : List Word) (s : State) : State :=
  s.writeElems d tag (((List.range l.length).zip l).map (fun p => (lo + p.1, lowBits (tagWidth tag) p.2.toNat)))

/-- What a pull writes to its one or two destinations. -/
def deliverAll (d : BitVec 7) (b : Option (BitVec 7)) (tag lo : Nat) (l : List (Word × Word)) (s : State) : State :=
  let s := deliver d tag lo (l.map (·.1)) s
  match b with
  | some b => deliver b tag lo (l.map (·.2)) s
  | none => s

/-- Positions at and above d follow the policy. -/
def closePull (d : BitVec 7) (b : Option (BitVec 7)) (tag n : Nat) (z : Bool) (s : State) : State :=
  let s := zeroOthers s d tag false z n (fun _ => true)
  match b with
  | some b => zeroOthers s b tag false z n (fun _ => true)
  | none => s

/-- The handle's live state after a pull. -/
def afterPull (s : State) (h : Nat) (it : Iter) (p : Pull) (exh : Bool) (n : Nat) : State :=
  let it := { it with slots := p.slots, total := it.total + BitVec.ofNat 64 n, st := if exh then setBit it.st 1 else it.st }
  let s := s.modMe (fun t => { t with iters := Map.put h it t.iters })
  s.tally (fun c => { c with examined := (c.examined + p.e) % 2 ^ 64 })

/-- A pull that a forced pre-emption finds before it has delivered anything is abandoned: it issues again after the
restore (15 R279). -/
def abandonPull (s : State) : State := s.modMe (fun t => { t with stop := none, stopped := true, abandoned := true })

/-- A pull that delivers nothing without examining anything, which a forced pre-emption abandons like any other; a
younger one runs to its end (07 R131). -/
def emptyPull (s done : State) : State :=
  if s.me.stop.any (· != noStop) then abandonPull s else done.retire

/-- A pull of handle `h` into `d`, and into `b` for `next2`. One that a forced pre-emption finds stops at what it has
delivered, or, having delivered nothing, is abandoned with its examinations consumed; with FREEZE set it runs to its end
once it has delivered, and the thread then runs to the end of its strip (15 R279). -/
def pull (h : Nat) (it : Iter) (d : BitVec 7) (b : Option (BitVec 7)) (z : Bool) (s : State) : Out :=
  let vec := s.me.vec
  let tag := vec.fmt
  let cap := vec.al
  let regs := s.me.vregs
  let s1 := s.setTag d tag
  let s1 := match b with
    | some b => s1.setTag b tag
    | none => s1
  if cap = 0 then .next (emptyPull s1 s1)
  else if it.st % 4 ≠ 0 then
    .next (emptyPull s1 (s1.modVec (fun v => { v with al := 0, itx := true, more := false })))
  else
    let lo := startElem s.me
    let root := it.slots.length - 1
    let p0 : Pull :=
      { s := s1, slots := it.slots, kids := (childrenFrom it.slots 0 []).getD [], e := 0, lim := 8 * vec.vl,
        two := b.isSome, d := lo, halt := s.me.stop, frozen := vec.freeze }
    match pullLoop root (cap - lo) p0 [] with
    | (.stopped .wait, _, _) => .next s
    | (e, p, l) =>
      let vals := l.reverse
      let s2 := deliverAll d b tag lo vals (afterPull p.s h it p (e == .exhausted) vals.length)
      let s2 := countElems vals.length s2
      let changed := p.slots != it.slots
      match e with
      | .stopped (.flt f) =>
        let s2 := s2.meets f
        if !vec.freeze && 0 < p.d then
          let s2 := s2.modVec (fun v => { v.pulled p.d false with cause := f.cause, freeze := true })
          let s2 := s2.tally (fun c => { c with trims := (c.trims + 1) % 2 ^ 64 })
          let s2 := if memoryCause f.cause then postNotice s2 f.cause f.va p.d [] f.map else s2
          .next (closePull d b tag p.d z s2).retire
        else
          let s2 := s2.modVec (fun v => { v with es := p.d })
          .next (vectorTrap s2 regs f.cause f.va p.d [] f.map)
      | _ =>
        let early := e == .full && p.d < cap && p.halted && !p.bounded
        if early && p.d = 0 then .next (abandonPull s2)
        else
          let s2 := s2.modVec (fun v => { v.pulled p.d (e == .exhausted) with
            freeze := v.freeze || changed, cause := if early then 0x21 else v.cause })
          let s2 := if early then s2.tally (fun c => { c with trims := (c.trims + 1) % 2 ^ 64 }) else s2
          let s2 := if vec.freeze then s2.modMe (fun t => { t with stop := none }) else s2
          .next (closePull d b tag p.d z s2).retire

/-- The checks of a pull, in the order of 03 R41: registers and handle, then the root's kind, then the format. -/
def pullChecks (d : BitVec 7) (a : BitVec 3) (b : Option (BitVec 7)) (s : State) (k : Iter → Out) : Out :=
  vecIssue s (d :: b.toList) fun _ =>
    match Map.find a.toNat s.me.iters with
    | none => instrFault s 0x13
    | some it =>
      let kind := (it.slots.getD (it.slots.length - 1) Slot.empty).kind
      if (if b.isSome then kind != 0x20 && kind != 0x22 else kind == 0x20) then instrFault s 0x13
      else tagWrite s d (s.me.vec.fmt != 0 && s.me.vec.fmt != 15) fun _ =>
        match b with
        | none => k it
        | some b => chunkWait s b fun _ => k it

def execNext (d : BitVec 7) (a : BitVec 3) (z : Bool) (s : State) : Out :=
  pullChecks d a none s fun it => pull a.toNat it d none z s

def execNext2 (d : BitVec 7) (a : BitVec 3) (b : BitVec 7) (z : Bool) (s : State) : Out :=
  if d = b then instrFault s 0x10
  else pullChecks d a (some b) s fun it => pull a.toNat it d (some b) z s

/-! ## Handles (15 R275, R276, R280, R281) -/

/-- A fault in an iterator instruction's memory access, which acts as a scalar access. -/
def execItopen (d : BitVec 3) (a : BitVec 7) (s : State) : Out :=
  userOnly s fun _ =>
    if (Map.find d.toNat s.me.iters).isSome then instrFault s 0x13
    else match readImage s (s.rd a) with
      | .error e => stopAt s e
      | .ok (l, t) =>
        match Iter.ofBytes (s.rd a) l with
        | none => instrFault s 0x13
        | some it =>
          if freeToUse s s.me.ctx 8 (coreOfKey s.cur) = 0 then instrFault s 0x13
          else .next (t.answer.modMe (fun x => { x with iters := Map.put d.toNat it x.iters })).retire

/-- A handle that must be open. -/
def withHandle (a : BitVec 3) (s : State) (k : Iter → Out) : Out :=
  userOnly s fun _ =>
    match Map.find a.toNat s.me.iters with
    | none => instrFault s 0x13
    | some it => k it

def execItclose (a : BitVec 3) (s : State) : Out :=
  withHandle a s fun it =>
    match writeImage s it with
    | .error e => stopAt s e
    | .ok t => .next (t.answer.modMe (fun x => { x with iters := Map.del a.toNat x.iters })).retire

def execItsave (a : BitVec 3) (s : State) : Out :=
  withHandle a s fun it =>
    match writeImage s it with
    | .error e => stopAt s e
    | .ok t => .next t.answer.retire

def execEnough (a : BitVec 3) (s : State) : Out :=
  withHandle a s fun it =>
    .next (s.answer.modMe (fun t => { t with
      iters := Map.put a.toNat { it with st := setBit it.st 0 } t.iters
      vec := { t.vec with freeze := true } })).retire

/-- Every open handle closed as `itclose` does, in ascending handle number (15 R276); the first that cannot be written
stops, and those before it stay closed. -/
def closeHandles : List (Nat × Iter) → State → State × Option Stop
  | [], s => (s, none)
  | (h, it) :: r, s =>
    match writeImage s it with
    | .error e => (s, some e)
    | .ok t => closeHandles r (t.modMe (fun x => { x with iters := Map.del h x.iters }))

end Sys2Proof.Machine
end

