-- ==== Sys2Proof/Machine/Tiles.lean ====
section
/-! DEFINITION. Tiles, outer products, tile moves and the loads for the matrix engine
(08 R168; 12 R242 to R246, R252, R256, R259). -/

namespace Sys2Proof.Machine

/-! ## Tiles -/

def Thread.tile (t : Thread) (n : Nat) : Tile := Map.getD n Tile.reset t.tiles

def State.tile (s : State) (d : BitVec 3) : Tile := s.me.tile d.toNat

def State.setTile (s : State) (d : BitVec 3) (x : Tile) : State :=
  s.modMe (fun t => { t with tiles := Map.put d.toNat x t.tiles })

/-- Tiles of the executing thread's task (03 R27). -/
def State.tileCount (s : State) : Nat := (s.me.task.map (·.tiles)).getD 0

/-- Encoding checks of an instruction that names tiles and vector registers. -/
def tileIssue (s : State) (ts : List (BitVec 3)) (regs : List (BitVec 7)) (k : Unit → Out) : Out :=
  if s.sup || ts.any (fun t => s.tileCount ≤ t.toNat) then instrFault s 0x10 else vecIssue s regs k

/-- The accumulating forms need G = 128 (12 R244). -/
def granCheck (s : State) (k : Unit → Out) : Out := if s.me.vec.gran = 7 then k () else instrFault s 0x10

/-- The elements of a tile from index i on, each changed; an element that becomes 0 is not listed. -/
def tileWalk (f : Nat → BitVec 32 → BitVec 32 × Flags) : Nat → Nat → Map (BitVec 32) → Map (BitVec 32) × Flags
  | 0, _, _ => ([], 0)
  | n + 1, i, l =>
    let old : BitVec 32 := match l with
      | (j, v) :: _ => if j = i then v else 0
      | [] => 0
    let rest := match l with
      | (j, _) :: r => if j = i then r else l
      | [] => []
    let y := f i old
    let q := tileWalk f n (i + 1) rest
    (if y.1 = 0 then q.1 else (i, y.1) :: q.1, orF y.2 q.2)

/-- Every element of a tile changed, with the flags raised. -/
def Tile.map (t : Tile) (f : Nat → BitVec 32 → BitVec 32 × Flags) : Tile × Flags :=
  let q := tileWalk f 16384 0 t.elems
  ({ t with elems := q.1 }, q.2)

/-- An FP32 element plus an exact term, rounded once in RNE (08 R168, R169; 12 R245). -/
def accFp (q : FMode) (t : BitVec 32) (v : FV) : BitVec 32 × Flags :=
  let r := fmtFp32.result 0 q.ftz (addFV 0 (valOf q 11 t.toNat) v)
  (BitVec.ofNat 32 r.1, r.2)

/-- An exact integer value. -/
def FV.toInt : FV → Int
  | .fin n m e => dyadic n (m * 2 ^ e.toNat)
  | _ => 0

/-- An element of a tile of either tag plus an exact term. -/
def accTile (tag : Nat) (q : FMode) (t : BitVec 32) (v : FV) : BitVec 32 × Flags :=
  if tag = 5 then (t + BitVec.ofInt 32 v.toInt, 0) else accFp q t v

/-! ## Groups (12 R244) -/

/-- The groups that an instruction performs when it completes up to element n. -/
def groupsBelow (s : State) (n : Nat) : List Nat :=
  (List.range ((n + 127) / 128)).filter (fun g => startElem s.me / 128 ≤ g)

/-- An operand element as an exact value; a masked-off element and a position from AL up read 0. -/
def operandVal (s : State) (q : FMode) (m : Bool) (v : VReg) (e : Nat) : FV :=
  if e < s.me.vec.al && selected s m e then
    (if isInt v.tag then ofInt (signedOf (tagWidth v.tag) (v.read v.tag e)) else valOf q v.tag (v.read v.tag e))
  else .fin false 0 0

/-! ## Outer products (12 R252) -/

/-- Whether operand tags go with a tile; PSN agrees with any. -/
def mopTags (ta tb tt : Nat) : Bool :=
  let pair := [ta, tb].filter (· != tagPsn)
  let same := match joinTags [ta, tb] with
    | some _ => true
    | none => false
  if tt = 11 then pair.all isF8 || (same && pair.all isShortF)
  else if tt = 5 then same && pair.all (fun t => t == 1 || t == 3)
  else false

/-- The rank-1 update of one group. `row i` names the row operand's element and `neg` inverts the product. -/
def rank1 (q : FMode) (neg : Bool) (xs ys : List FV) (t : Tile) : Tile × Flags :=
  t.map (fun i old =>
    let p := mulFV (xs.getD (i / 128) (.fin false 0 0)) (ys.getD (i % 128) (.fin false 0 0))
    let r := accTile t.tag q old (if neg then p.1.negate else p.1)
    (r.1, orF p.2 r.2))

/-- The groups of an outer product performed in ascending order; `slide` is the row operand's step per group. -/
def mopGroups (s : State) (q : FMode) (m neg : Bool) (slide : Nat) (va vb : VReg) : List Nat → Tile × Flags → Tile × Flags
  | [], r => r
  | g :: gs, r =>
    let xs := (List.range 128).map (fun i => operandVal s q m va (slide * g + i))
    let ys := (List.range 128).map (fun j => operandVal s q m vb (128 * g + j))
    let u := rank1 q neg xs ys r.1
    mopGroups s q m neg slide va vb gs (u.1, orF r.2 u.2)

/-- The flag that a performed group raises. -/
def freezeIf (b : Bool) (s : State) : State := if b then s.modVec (fun v => { v with freeze := true }) else s

def outer (neg : Bool) (slide : Nat) (d : BitVec 3) (a b : BitVec 7) (m : Bool) (s : State) : Out :=
  tileIssue s [d] [a, b] fun _ => granCheck s fun _ =>
    tagCheck s (mopTags (s.vtag a) (s.vtag b) (s.tile d).tag && maskOk s m) fun _ =>
      let q := s.me.fmode
      let act := activeElems s m
      let psn := s.vtag a == tagPsn || s.vtag b == tagPsn
      let vd := verdictOf (act.map (fun e => (e, (psnElse psn 0 (.ok ()) : Except Stop Unit))))
      settleBy 128 id s id vd
        (fun n s' =>
          let gs := if act.isEmpty then [] else groupsBelow s n
          let r := mopGroups s q m neg slide (s.vreg a) (s.vreg b) gs (s.tile d, 0)
          let done := act.filter (· < n)
          countElems done.length (freezeIf (!gs.isEmpty) ((s'.setTile d r.1).raise [.tile d.toNat] r.2)))
        (fun _ s => s)

def execMop (d : BitVec 3) (a b : BitVec 7) (m : Bool) (s : State) : Out := outer false 128 d a b m s
def execMops (d : BitVec 3) (a b : BitVec 7) (m : Bool) (s : State) : Out := outer false 1 d a b m s
def execMopn (d : BitVec 3) (a b : BitVec 7) (m : Bool) (s : State) : Out := outer true 128 d a b m s

/-! ## Moving tile contents (12 R256) -/

def execMzero (d : BitVec 3) (s : State) : Out :=
  tileIssue s [d] [] fun _ => .next (s.answer.setTile d { tag := if isInt s.me.vec.fmt then 5 else 11, elems := [] }).retire

/-- The place of element e: its index in the tile, when row and column lie below 128. -/
def tilePlace (gb e : Nat) : Option Nat :=
  let r := gb % 128 + e / 128
  if 128 ≤ r then none
  else some (if bitAt gb 7 then (e % 128) * 128 + r else r * 128 + e % 128)

def execMrd (d : BitVec 7) (a : BitVec 3) (b : BitVec 7) (z : Bool) (s : State) : Out :=
  tileIssue s [a] [] fun _ => vecIssue s [d] fun _ =>
    let t := s.tile a
    let gb := (s.rd b).toNat
    tagWrite s d (t.tag != 0) fun _ =>
      let at_ (e : Nat) : Bool := (tilePlace gb e).isSome
      let act := (activeElems s false).filter at_
      settleVec s (fun s => s.setTag d t.tag) .clean
        (fun n s =>
          let l := act.filter (· < n)
          countElems l.length (s.writeElems d t.tag
            (l.map (fun e => (e, (Map.getD ((tilePlace gb e).getD 0) 0 t.elems).toNat)))))
        (fun n s => zeroOthers s d t.tag false z n at_)

/-- Tile elements written; one that becomes 0 is not listed. -/
def Tile.putAll (t : Tile) : List (Nat × BitVec 32) → Tile
  | [] => t
  | (i, x) :: r => Tile.putAll { t with elems := if x = 0 then Map.del i t.elems else Map.put i x t.elems } r

/-- A register tagged PSN faults at its first element, and the tile keeps its tag (08 R146; log entry 27). -/
def execMwr (d : BitVec 3) (a b : BitVec 7) (s : State) : Out :=
  tileIssue s [d] [a] fun _ =>
    let v := s.vreg a
    let gb := (s.rd b).toNat
    tagCheck s (v.tag == 11 || v.tag == 5 || v.tag == tagPsn) fun _ =>
      let act := (activeElems s false).filter (fun e => (tilePlace gb e).isSome)
      let psn := v.tag == tagPsn
      let vd := verdictOf (act.map (fun e => (e, (psnElse psn 0 (.ok ()) : Except Stop Unit))))
      settleVec s (fun s => if psn then s else s.setTile d { s.tile d with tag := v.tag }) vd
        (fun n s =>
          let l := act.filter (· < n)
          countElems l.length (s.setTile d ((s.tile d).putAll
            (l.map (fun e => ((tilePlace gb e).getD 0, BitVec.ofNat 32 (v.read v.tag e)))))))
        (fun _ s => s)

/-- Columns scaled, each element rounded in RNE. -/
def scaleColumns (q : FMode) (cols : List Nat) (v : VReg) (t : Tile) : Tile × Flags :=
  t.map (fun i old =>
    if cols.contains (i % 128) then
      let r := fmtFp32.result 0 q.ftz (mulFV (valOf q 11 old.toNat) (valOf q 11 (v.read 11 (i % 128))))
      (BitVec.ofNat 32 r.1, r.2)
    else (old, 0))

def execMscale (d : BitVec 3) (a : BitVec 7) (s : State) : Out :=
  tileIssue s [d] [a] fun _ =>
    let v := s.vreg a
    tagCheck s ((s.tile d).tag == 11 && tagOrPsn v.tag 11) fun _ =>
      let q := s.me.fmode
      let act := activeElems s false
      let vd := verdictOf (act.map (fun e => (e, (psnElse (v.tag == tagPsn) 0 (.ok ()) : Except Stop Unit))))
      settleVec s id vd
        (fun n s =>
          let cols := act.filter (fun j => j < n && j < 128)
          let cols := if v.tag = tagPsn then [] else cols
          let r := scaleColumns q cols v (s.tile d)
          countElems cols.length (freezeIf (!cols.isEmpty) ((s.setTile d r.1).raise [.tile d.toNat] r.2)))
        (fun _ s => s)

/-! ## Loads for the matrix engine (12 R259) -/

/-- A(e) of `mld`, or of `mldt` when `tr`. -/
def mldAddr (s : State) (a b : BitVec 7) (tr : Bool) (e : Nat) : Word :=
  let g := 2 ^ s.me.vec.gran
  let outer := if tr then e % g else e / g
  let inner := if tr then e / g else e % g
  s.rd a + wordOf outer * s.rd b + wordOf (inner * tagWidth s.me.vec.fmt)

def execMld (d a b : BitVec 7) (z : Bool) (s : State) : Out := loadForm d false z false (mldAddr s a b false) s
def execMldt (d a b : BitVec 7) (z : Bool) (s : State) : Out := loadForm d false z false (mldAddr s a b true) s

end Sys2Proof.Machine
end

