-- ==== Sys2Proof/Machine/Records.lean ====
section
/-! DEFINITION. Operand records, record registers and record checks (12 R247 to R250, R260). -/

namespace Sys2Proof.Machine

/-! ## Records (12 R247) -/

/-- What the 64 bytes of a slot are. -/
inductive RecKind where
  | plane (r : OpRec)
  | link (r : OpRec)
  | bad (r : OpRec)
  deriving DecidableEq, Repr

/-- The fields of 64 bytes, and whether they are well formed. PBASE is tested for its form alone, and not for the tier of
its page (12 R247; log entry 108). -/
def parseRecord (l : List Byte) : RecKind :=
  let f := bytesField l
  let r : OpRec :=
    { pbase := BitVec.ofNat 64 (f 0 8), sbase := BitVec.ofNat 64 (f 8 8), k := f 0x10 4, n := f 0x14 4, p := f 0x18 1,
      cb := bitAt (f 0x19 1) 0, owner := f 0x1A 2, perm := f 0x1C 1, gen := f 0x20 4, ada := f 0x28 4, adb := f 0x2C 4,
      rank := f 0x30 1 }
  let common := f 0x1D 3 == 0 && f 0x24 4 == 0 && f 0x31 15 == 0 && r.perm < 8 && r.owner != 0
  let plane := (canonical r.pbase || inWindow r.pbase) && r.pbase.toNat % 256 == 0 && r.sbase.toNat % 64 == 0 &&
    r.k % 64 == 0 && 64 ≤ r.k && r.k ≤ 1048576 && r.n % 128 == 0 && 128 ≤ r.n && r.n ≤ 1048576 &&
    1 ≤ r.p && r.p ≤ 16 && f 0x19 1 < 2 && (!r.cb || (r.p == 2 && r.sbase != 0)) &&
    r.ada == 0xFFFFFFFF && r.adb == 0xFFFFFFFF
  let link := f 0 0x1A == 0 && r.rank ≤ 64 && r.ada < 65536 && r.adb < 65536
  if common && r.rank = 0 && plane then .plane r
  else if common && r.rank ≠ 0 && link then .link r
  else .bad r

/-! ## Record registers (12 R249) -/

def Thread.qreg (t : Thread) (n : Nat) : Option QReg := Map.find n t.qregs

def State.qreg (s : State) (q : BitVec 4) : Option QReg := s.me.qreg q.toNat

def State.setQreg (s : State) (q : BitVec 4) (x : QReg) : State :=
  s.modMe (fun t => { t with qregs := Map.put q.toNat x t.qregs })

/-- The executing thread's context. -/
def State.myCtx (s : State) : Context := s.ctxAt s.me.ctx

/-- The address of a slot of the record table (12 R248). -/
def slotAddr (s : State) (slot : Nat) : Word := s.myCtx.recbase + wordOf (64 * slot)

/-- A slot read at its home as a one-element scalar access. -/
def readSlot (s : State) (slot : Nat) : Except Stop (RecKind × State) :=
  match loadHome s s.cur (s.env s.cur) (slotAddr s slot) 64 64 with
  | .error e => .error e
  | .ok (l, s) => .ok (parseRecord l, s)

/-- Whether a key is on the context's ring. -/
def State.onRing (s : State) (key : Nat) : Bool := s.myCtx.budget.keys.contains key

def RecKind.record : RecKind → OpRec
  | .plane r => r
  | .link r => r
  | .bad r => r

/-- A use of a held register (12 R250): whether it passes, with the state after the slot's read. -/
def useCheck (s : State) (q : QReg) (perm : Nat) : Except Stop (Bool × State) :=
  let here := s.onRing q.oprec.owner && bitAt q.oprec.perm perm
  match q.slot with
  | none => .ok (here, s)
  | some slot =>
    if !(s.onRing q.oprec.owner) || s.myCtx.budget.records ≤ slot then .ok (false, s)
    else match readSlot s slot with
      | .error e => .error e
      | .ok (k, s) => .ok (here && k.record.gen == q.gen && k.record.owner == q.oprec.owner, s)

/-- An instruction that uses the record in a register; a replay is past its check (12 R261). -/
def withUse (s : State) (q : QReg) (perm : Nat) (k : State → Out) : Out :=
  if s.me.replay.isSome then k s
  else match useCheck s q perm with
    | .error e => stopAt s e
    | .ok (ok, t) => if ok then k t else instrFault s 0x14

/-- A record register that holds a record (03 R41: 0x13 when it is empty). -/
def withQreg (s : State) (q : BitVec 4) (k : QReg → Out) : Out :=
  match s.qreg q with
  | none => instrFault s 0x13
  | some r => k r

/-! ## qld, qmk, qdrop and qwin (12 R260) -/

def execQld (d : BitVec 4) (a : BitVec 7) (s : State) : Out :=
  vecIssue s [] fun _ =>
    let slot := (s.rd a).toNat
    if s.myCtx.budget.records ≤ slot then instrFault s 0x13
    else match readSlot s slot with
      | .error e => stopAt s e
      | .ok (.plane r, t) =>
        if s.onRing r.owner then
          .next (t.answer.setQreg d { oprec := r, slot := some slot, gen := r.gen, k0 := 0, j0 := 0 }).retire
        else instrFault s 0x14
      | .ok (_, _) => instrFault s 0x13

def execQmk (d : BitVec 4) (a : BitVec 7) (s : State) : Out :=
  vecIssue s [a] fun _ =>
    let v := s.vreg a
    match parseRecord ((List.range 64).map v.byte) with
    | .plane r =>
      tagCheck s (v.tag == 7) fun _ =>
        if s.onRing r.owner then
          .next (s.answer.setQreg d { oprec := r, slot := none, gen := r.gen, k0 := 0, j0 := 0 }).retire
        else instrFault s 0x14
    | _ => instrFault s 0x12

def execQdrop (d : BitVec 4) (s : State) : Out :=
  vecIssue s [] fun _ => .next (s.answer.modMe (fun t => { t with qregs := Map.del d.toNat t.qregs })).retire

def execQwin (d : BitVec 4) (a b : BitVec 7) (s : State) : Out :=
  vecIssue s [] fun _ => withQreg s d fun q =>
    let k0 := (s.rd a).toNat
    let j0 := (s.rd b).toNat
    if q.oprec.k < k0 || j0 % 128 != 0 || q.oprec.n ≤ j0 then instrFault s 0x13
    else .next (s.answer.setQreg d { q with k0 := k0, j0 := j0 }).retire

/-! ## Planes and scales (08 R163, 12 R250) -/

/-- A byte range that a use reads or writes: R222, and the page key. -/
def checkKeyed (s : State) (need : Need) (owner : Nat) (va : Word) (n : Nat) : Except Stop Place := do
  let p ← locate s (s.env s.cur) need va n 1
  if p.key ≠ 0 && p.key ≠ owner then .error (.flt { cause := 2, va := va, map := none })
  else
    if need = .read then checkPoison s (s.env s.cur) va p
    checkLink s va p
    .ok p

/-- The address of a plane row of a column block. -/
def OpRec.planeRow (r : OpRec) (c p row : Nat) : Word :=
  r.pbase + wordOf (c * r.p * r.k * 16 + (p * r.k + row) * 16)

/-- The address of the scale bytes of a K-block of a column block. -/
def OpRec.scaleRow (r : OpRec) (c kb : Nat) : Word := r.sbase + wordOf (c * (r.k / 64) * 128 + kb * 128)

/-- The checks of a row's plane rows. -/
def planeChecks (s : State) (need : Need) (r : OpRec) (c row : Nat) : List (Except Stop Place) :=
  (List.range r.p).map (fun p => checkKeyed s need r.owner (r.planeRow c p row) 16)

/-- The checks of a K-block's scale bytes. -/
def scaleChecks (s : State) (need : Need) (r : OpRec) (c kb : Nat) : List (Except Stop Place) :=
  [checkKeyed s need r.owner (r.scaleRow c kb) 64, checkKeyed s need r.owner (r.scaleRow c kb + 64) 64]

/-- Bytes read for the executing thread at places already checked. -/
def readPlaces (s : State) : List (Except Stop Place) → List (List Byte) × State
  | [] => ([], s)
  | .error _ :: r => readPlaces s r
  | .ok p :: r =>
    let v := s.readBytes s.cur p.pas
    let q := readPlaces v.2 r
    (v.1 :: q.1, q.2)

/-- The block integer of a column from the bytes of its plane rows (08 R163). -/
def planeInt (rows : List (List Byte)) (n : Nat) : Int :=
  let p := rows.length
  ((List.range p).map (fun i =>
    let bit : Int := b2n (((rows.getD i []).getD (n / 8) 0).getLsbD (n % 8))
    if i + 1 = p then -(bit * (2 ^ i : Nat)) else bit * (2 ^ i : Nat))).sum

end Sys2Proof.Machine
end

