-- ==== Sys2Proof/Machine/Image.lean ====
section
/-! DEFINITION. The image slot of a task and what a pre-emption writes to it (19 R320, R321; 15 R273). -/

namespace Sys2Proof.Machine

/-! ## Slots (19 R320) -/

/-- Every task of the package: running, in a crew that is being saved, and saved. -/
def State.allTasks (s : State) : List Task :=
  s.threads.filterMap (·.2.task) ++ (s.crews.flatMap (·.saved)).filterMap (·.task) ++
  (s.ctxs.flatMap (fun c => c.2.launches.flatMap (fun l => l.saved.flatMap (·.threads)))).filterMap (·.task)

/-- The context whose pool serves a context's tasks: the nearest of its path with slots. -/
def poolOf (s : State) (ctx : Nat) : Option Nat := (s.path ctx).find? (fun c => (s.ctxAt c).imgcount != 0)

/-- Free slots of a pool, lowest first, at most `n` of them. -/
def freeSlots (s : State) (pool n : Nat) : List Nat :=
  let used := (s.allTasks.filter (fun t => t.image.1 == pool)).map (·.image.2)
  ((List.range (min (s.ctxAt pool).imgcount (used.length + n))).filter (fun i => !(used.contains i))).take n

/-! ## What a slot holds (19 R320) -/

/-- The bytes of a register file's first `n` registers. -/
def regsBytes (n : Nat) (m : Map Word) : List Byte := (List.range n).flatMap (fun i => leBytes 8 (Map.getD i 0 m).toNat)

/-- The token on which a thread stalls, or 0. -/
def Thread.heldToken (t : Thread) : Nat :=
  match t.status with
  | .trapped k => k
  | _ => 0

/-- The 17 doublewords of control state. -/
def Thread.controlWords (t : Thread) : List Nat :=
  [t.pc.toNat, t.wb, t.fpcr.toNat, t.fpflags.toNat, t.vec.vtype, t.vec.vl, t.vec.al, t.vec.es, t.vec.vstat, t.vec.loopst,
   ((t.vec.loop.map Loop.pc).getD 0).toNat, t.swz.toNat, t.mx.mxcur, t.mx.mref0.toNat, t.mx.mref1.toNat, t.mstep, t.heldToken]

/-- The 64 bytes of an operand record (12 R247). -/
def OpRec.bytes (r : OpRec) : List Byte :=
  leBytes 8 r.pbase.toNat ++ leBytes 8 r.sbase.toNat ++ leBytes 4 r.k ++ leBytes 4 r.n ++ leBytes 1 r.p ++
  leBytes 1 (b2n r.cb) ++ leBytes 2 r.owner ++ leBytes 1 r.perm ++ leBytes 3 0 ++ leBytes 4 r.gen ++ leBytes 4 0 ++
  leBytes 4 r.ada ++ leBytes 4 r.adb ++ leBytes 1 r.rank ++ leBytes 15 0

/-- An operand record's 64 bytes, and its SLOT, GEN, k0 and j0. -/
def qImage (q : Option QReg) : List Byte × List Byte :=
  match q with
  | none => (List.replicate 64 0, List.replicate 16 0)
  | some q =>
    (q.oprec.bytes, leBytes 4 (q.slot.getD 0xFFFFFFFF) ++ leBytes 4 q.gen ++ leBytes 4 q.k0 ++ leBytes 4 q.j0)

/-- The bytes of a tile. -/
def Tile.bytes (x : Tile) : List Byte := (List.range 16384).flatMap (fun i => leBytes 4 (Map.getD i 0 x.elems).toNat)

/-- The runs of bytes of a task's slot, by offset. The queue area, whose format belongs to the device, and positions
that no instruction has written are not among them (log entry 36). -/
def slotRuns (t : Thread) (tiles : Nat) : List (Nat × List Byte) :=
  let n := 2 ^ (t.vec.decl + 2)
  [(0, regsBytes 512 t.regs), (0x1000, t.controlWords.flatMap (leBytes 8) ++ List.replicate 120 0),
   (0x1100, (List.range 128).flatMap (fun i => leBytes 1 (t.vreg i).tag)),
   (0x1180, (List.range 8).flatMap (fun i => leBytes 1 (Map.getD i Tile.reset t.tiles).tag)),
   (0x1200, (List.range 16).flatMap (fun i => (qImage (Map.find i t.qregs)).1)),
   (0x1600, (List.range 16).flatMap (fun i => (qImage (Map.find i t.qregs)).2))] ++
  (List.range tiles).map (fun k => (0x100000 + 0x10000 * k, (Map.getD k Tile.reset t.tiles).bytes)) ++
  t.vregs.flatMap (fun r => r.2.bytes.map (fun b => (0x400000 + r.1 * (0x400000 / n) + b.1, [b.2])))

/-- Bytes of a slot written by the device at their homes, byte by byte where the pool's context maps them. None while
memory of the slot is not ready (23 R347). -/
def writeSlot (s : State) (pool : Nat) (va : Word) : List Byte → Option State
  | [] => some s
  | b :: r =>
    match locate s { key := engineKey, ctx := pool, features := s.features, spad := none } .write va 1 1 with
    | .ok p => writeSlot (s.writeHome .device .posted false p.pas [b]) pool (va + 1) r
    | .error (.flt _) => writeSlot s pool (va + 1) r
    | .error .wait => none

/-- The pages of a slot that some runs of bytes touch, as offsets. -/
def slotPages (runs : List (Nat × List Byte)) : List Nat :=
  (runs.flatMap (fun r => [r.1 / 65536 * 65536, (r.1 + r.2.length - 1) / 65536 * 65536])).eraseDups

/-- Poison of host data that the walks of a slot's pages meet, counted once a page (10 R219; log entry 74). -/
def meetsSlot (s : State) (pool : Nat) (base : Word) (pages : List Nat) : State :=
  pages.foldl (fun s o =>
    match locate s { key := engineKey, ctx := pool, features := s.features, spad := none } .write
        (base + BitVec.ofNat 64 o) 1 1 with
    | .error (.flt f) => s.meets f
    | _ => s) s

/-- A task's state written to its slot. -/
def saveImage (s : State) (t : Thread) (k : Task) : Option State :=
  let base := (s.ctxAt k.image.1).imgbase + BitVec.ofNat 64 (0x800000 * k.image.2)
  let runs := slotRuns t k.tiles
  runs.foldl (fun s r => s.bind (fun s => writeSlot s k.image.1 (base + BitVec.ofNat 64 r.1) r.2))
    (some (meetsSlot s k.image.1 base (slotPages runs)))

/-! ## Open handles at a pre-emption (15 R273, R282) -/

/-- What a faulting image write leaves: each 8-byte word that can be written holds its old value or its new one. The words
are stores of the thread, published as they perform under the strengthening mode (15 R273; 17 R303). -/
def writePartImage (x : Iter) : Nat → State → State
  | 0, s => s
  | n + 1, s =>
    let s := writePartImage x n s
    let va := x.image + BitVec.ofNat 64 (8 * n)
    let s := if Config.imageWordWritten s.fresh then
        (match checkWrite s (s.env s.cur) va 8 8 with
         | .ok p => (s.store s.cur p.pas p.pas ((x.bytes.drop (8 * n)).take 8)).afterStore s.cur
         | .error _ => s)
      else s
    s.bump

/-- Every open handle of the executing thread written to its image; one whose write faults is closed. None while an
image's memory is not ready (23 R347). -/
def saveHandles : List (Nat × Iter) → State → Option State
  | [], s => some s
  | (h, it) :: r, s =>
    match writeImage s it with
    | .ok t => saveHandles r t
    | .error .wait => none
    | .error (.flt f) =>
      let s := writePartImage it (8 * (it.slots.length + 1)) (s.meets f)
      saveHandles r (s.modMe (fun t => { t with iters := Map.del h t.iters }))

/-- Handles opened again at a restore, in ascending number; one that cannot be charged, or whose read faults, stays
closed. None while an image's memory is not ready. -/
def reopenHandles : List (Nat × Iter) → State → Option State
  | [], s => some s
  | (h, it) :: r, s =>
    if freeToUse s s.me.ctx 8 (coreOfKey s.cur) = 0 then reopenHandles r s
    else match readImage s it.image with
      | .error .wait => none
      | .error (.flt f) => reopenHandles r (s.meets f)
      | .ok (l, t) =>
        match Iter.ofBytes it.image l with
        | none => reopenHandles r t
        | some x => reopenHandles r (t.modMe (fun y => { y with iters := Map.put h x y.iters }))

end Sys2Proof.Machine
end

