-- ==== Sys2Proof/Machine/Sched.lean ====
section
/-! DEFINITION. Launches, where a crew fits, placement, slice ends, reservations, and forced pre-emption
(02 R18 to R23; 05 R77 to R85; 07 R131; 10 R204; 19 R320, R321). -/

namespace Sys2Proof.Machine

/-! ## Launches -/

/-- Accepted and not complete; a launch whose mirror Swap is in flight is complete (22 R338). -/
def Launch.live (l : Launch) : Bool := l.mode != .mirror

def Context.launch (c : Context) (h : Word) : Option Launch := c.launches.find? (fun l => l.live && l.handle == h)

def State.launch (s : State) (ctx : Nat) (h : Word) : Option Launch := (s.ctxAt ctx).launch h

/-- A live launch of a context changed. -/
def State.modLaunch (s : State) (ctx : Nat) (h : Word) (f : Launch → Launch) : State :=
  if s.live ctx then
    s.modCtx ctx (fun c => { c with launches := c.launches.map (fun l => if l.live && l.handle == h then f l else l) })
  else s

/-- Tasks of a crew (05 R77). -/
def Launch.tasks (l : Launch) : Nat := l.desc.tasks * l.desc.stages

/-- The crews of a launch that run. -/
def State.crewsOf (s : State) (ctx : Nat) (h : Word) : List Crew := s.crews.filter (fun c => c.ctx == ctx && c.handle == h)

/-- Every crew placed and none running or saved. -/
def Launch.allEnded (l : Launch) (running : List Crew) : Bool :=
  l.desc.crews ≤ l.nextCrew && l.saved.isEmpty && running.isEmpty

/-! ## Writes of the device itself (02 R21, 22 R339) -/

/-- The device's accesses in a context, under a feature word: that of the launch's acceptance for the accesses of a
launch (23 R348). -/
def deviceEnv (ctx features : Nat) : Env := { key := engineKey, ctx := ctx, features := features, spad := none }

/-- Bytes written by the device in a context, published at scope s as they perform. -/
def deviceWrite (s : State) (who : Agent) (ctx features : Nat) (va : Word) (n align : Nat) (l : List Byte) :
    Except Stop State :=
  match checkWrite s (deviceEnv ctx features) va n align with
  | .error e => .error e
  | .ok p => .ok (s.writeHome who .posted false p.pas l)

/-- A notice of the device itself to a context's queue. -/
def noticeEntry (s : State) (ctx cause : Nat) (va pc : Word) (elem core thread : Nat) (map : Option Nat) : Entry :=
  let r : Record :=
    { cause := cause, kind := 0, level := (s.ctxAt ctx).depth, deleg := false, pcres := false,
      misslvl := missLevel s ctx cause map, nested := false, ctx := ctx, core := core, thread := thread, token := 0,
      va := va, pc := pc, elem := elem, cmd := 0, sect := 0, chunk := 0, hints := [], orig := (0, 0) }
  { record := r, resume := pc, mstep := 0 }

/-- A notice of the device itself posted. -/
def deviceNotice (s : State) (ctx cause : Nat) (va pc : Word) (elem core thread : Nat) (map : Option Nat) : State :=
  s.post core ctx (noticeEntry s ctx cause va pc elem core thread map)

/-- A notice for which the manual names no core and no thread (log entry 35). -/
def launchNotice (s : State) (ctx cause : Nat) (va handle : Word) (map : Option Nat) : State :=
  let f := Config.noticeFrom s.fresh
  (deviceNotice s ctx cause va handle 0 (f.1 % 256) (f.2 % 8) map).bump

/-- A write of a launch record's saved position; a write that is not made gives a notice. None while it must wait. -/
def savePosition (s : State) (who : Agent) (ctx : Nat) (l : Launch) (n : Nat) (bytes : List Byte) : Option State :=
  let va := l.handle + 0x60
  match deviceWrite s who ctx l.features va n 1 bytes with
  | .ok s => some s
  | .error .wait => none
  | .error (.flt f) => some (launchNotice (s.meets f) ctx f.cause va l.handle f.map)

/-- The saved position of a launch that stops short: 32 bytes (log entry 37). -/
def positionBytes (next slices : Nat) : List Byte := leBytes 4 1 ++ leBytes 4 next ++ leBytes 8 slices ++ leBytes 16 0

/-- A launch's saved position with SLICES + 1. -/
def Launch.counted (l : Launch) : Launch := { l with slices := l.slices + 1 }

/-- STATE = 1, NEXTCREW and SLICES written. -/
def writePosition (s : State) (ctx : Nat) (l : Launch) (next : Nat) : Option State :=
  (savePosition s .device ctx l 32 (positionBytes next l.slices)).map
    (fun s => s.modLaunch ctx l.handle (fun m => { m with slices := l.slices, due := false }))

/-- STATE = 1, NEXTCREW and SLICES + 1 written. A write that an earlier save still owes is made with this one, and SLICES
counts both (02 R21; log entry 37). -/
def saveLaunch (s : State) (ctx : Nat) (l : Launch) (next : Nat) : Option State := writePosition s ctx l.counted next

/-! ## Eligible launches (02 R22, 05 R78) -/

/-- The STATE byte of a prerequisite, with the store that wrote it; none when it cannot be read. -/
def prereqByte (s : State) (ctx features : Nat) (h : Word) : Option (Byte × Option Undo) :=
  let va := h + 0x60
  match checkRead s (deviceEnv ctx features) va 1 1 with
  | .ok p => some (s.home (p.pas.headD 0), s.lastStore (p.pas.headD 0))
  | .error _ => none

/-- Whether a read of a prerequisite's STATE meets poison of host data. -/
def prereqMeets (s : State) (ctx features : Nat) (h : Word) : Bool :=
  h != 0 && (match checkRead s (deviceEnv ctx features) (h + 0x60) 1 1 with
    | .error (.flt f) => f.host
    | _ => false)

/-- The prerequisites of waiting launches whose STATE meets poison of host data: the device's reads of them in a turn, a
free number of each, are counted (10 R219; log entry 74). -/
def meetsPrereqs (s : State) : State :=
  let n := (s.ctxs.map (fun c => ((c.2.launches.filter (fun l => l.mode == .open_ || l.mode == .waiting)).map (fun l =>
    (l.desc.prereq.filter (prereqMeets s c.1 l.features)).length)).sum)).sum
  if n = 0 then s else (s.count 0x106 (n * Config.prereqReads s.fresh)).bump

def prereqMet (s : State) (ctx features : Nat) (h : Word) : Bool :=
  h == 0 || (match prereqByte s ctx features h with
    | some (b, _) => b == 2
    | none => false)

/-- The run bits of a context and of its ancestors down to depth 1 (04 R64). -/
def runBits (s : State) (ctx : Nat) : Bool := (s.path ctx).all (fun c => c == 0 || (s.ctxAt c).run)

def Launch.prereqsMet (s : State) (ctx : Nat) (l : Launch) : Bool := l.desc.prereq.all (prereqMet s ctx l.features)

def eligible (s : State) (ctx : Nat) (l : Launch) : Bool :=
  (l.mode == .open_ || l.mode == .waiting) && (s.ctxAt ctx).state != 5 && runBits s ctx && l.prereqsMet s ctx &&
  (!l.saved.isEmpty || l.nextCrew < l.desc.crews)

/-- An eligible launch whose crews may be placed: none of a context is while its SLICE is 0 (05 R83). -/
def placeable (s : State) (ctx : Nat) (l : Launch) : Bool := (s.ctxAt ctx).budget.slice != 0 && eligible s ctx l

/-- Whether a launch is examined before another: higher PRIO, then earlier acceptance (05 R78). -/
def Launch.before (a b : Launch) : Bool := b.desc.prio < a.desc.prio || (a.desc.prio == b.desc.prio && a.order < b.order)

/-- A launch put in its place. -/
def insertLaunch (l : Launch) : List Launch → List Launch
  | [] => [l]
  | m :: r => if l.before m then l :: m :: r else m :: insertLaunch l r

/-- The eligible launches of a context in the order in which they are examined. -/
def eligibleLaunches (s : State) (ctx : Nat) : List Launch :=
  ((s.ctxAt ctx).launches.filter (eligible s ctx)).foldr insertLaunch []

/-- The saved crew placed next: the one of lowest index (19 R321). -/
def Launch.nextSaved (l : Launch) : Option SavedCrew :=
  l.saved.foldl (fun a c => match a with
    | none => some c
    | some b => if c.index < b.index then some c else a) none

/-- The index of the next crew. -/
def Launch.nextIndex (l : Launch) : Nat := (l.nextSaved.map (·.index)).getD l.nextCrew

/-- Tasks of the next crew. -/
def Launch.need (l : Launch) : Nat :=
  match l.nextSaved with
  | some c => c.threads.length
  | none => l.tasks

/-! ## Where a crew fits (05 R79, R80, R84; 04 R51; 10 R204; 19 R320) -/

/-- Which tasks of a quad count as gone: none, those of the crew's own context, or every one (05 R84). -/
inductive Without where
  | none_ | own | all_
  deriving DecidableEq, Repr

/-- The tasks of a core that stand in the way. -/
def standing (s : State) (ctx core : Nat) (w : Without) : List Task :=
  ((List.range 4).filterMap (fun k => (s.thread (threadKey core k)).task)).filter (fun t =>
    match w with
    | .none_ => true
    | .own => t.ctx != ctx
    | .all_ => false)

/-- What a context has left of a per-core item on a core. -/
def leftOn (s : State) (ctx item core : Nat) (w : Without) : Nat :=
  match w with
  | .none_ => freeToUse s ctx item core
  | _ => freeAmount s ctx item core

/-- The tasks of a crew that hold an allotment on a core: those that run there, and those already saved of a crew that is
being saved (19 R321). A task that has ended holds none (22 R336). -/
def Crew.tasksOn (s : State) (c : Crew) (core : Nat) : List Task :=
  (c.live.filter (fun p => p.1 == core)).filterMap (fun p => (s.thread (threadKey p.1 p.2)).task) ++
  (c.saved.filter (fun t => coreOfKey (t.alias_ % 2048) == core)).filterMap (·.task)

/-- Runs of a core's scratchpad that tasks' allotments occupy, as start and end (10 R204, 22 R336; log entry 38). -/
def regionRuns (s : State) (ctx core : Nat) (w : Without) : List (Nat × Nat) :=
  (s.crews.filter (fun c => match w with
    | .none_ => true
    | .own => c.ctx != ctx
    | .all_ => false)).flatMap (fun c =>
      ((c.tasksOn s core).filter (fun k => k.spad != 0)).map (fun k => (k.spBase, k.spBase + k.spad)))

/-- The length of the free run that starts at an offset. -/
def freeRunAt (runs : List (Nat × Nat)) (at_ : Nat) : Nat :=
  if runs.any (fun r => r.1 ≤ at_ && at_ < r.2) then 0
  else ((runs.filter (fun r => at_ ≤ r.1)).map (·.1)).foldl min 0x800000 - at_

/-- Offsets at which a free run can start. -/
def runStarts (runs : List (Nat × Nat)) : List Nat := 0 :: runs.map (·.2)

/-- The longest free run of a core's scratchpad. -/
def longestRun (runs : List (Nat × Nat)) : Nat := ((runStarts runs).map (freeRunAt runs)).foldl max 0

/-- The lowest offset at which a run of bytes fits. -/
def lowestRun (runs : List (Nat × Nat)) (n : Nat) : Nat :=
  ((runStarts runs).filter (fun a => n ≤ freeRunAt runs a)).foldl min 0x800000

/-- The cores that a revocation takes back or takes something back on (04 R57). -/
def Revocation.cores (r : Revocation) (b : Budget) : List Nat :=
  if r.item = 1 then (List.range 32).filterMap (fun i => if bitAt r.v0 i then some (32 * r.qual + i) else none)
  else if perCoreItem r.item then b.keysOf r.item r.qual else []

/-- Whether a core is being taken back from a context or one above it (04 R56 step a). -/
def enforcedOn (s : State) (ctx core : Nat) : Bool :=
  (s.path ctx).any (fun c => (s.ctxAt c).revs.any (fun r => r.phase != 0 && (r.cores (s.ctxAt c).budget).contains core))

/-- A core on which a context may start tasks: in its set, of a die that is ready (23 R347). -/
def coreOpen (s : State) (ctx core : Nat) : Bool :=
  (s.ctxAt ctx).budget.hasCore core && bitAt s.mgmt.ready (17 + core / 32) && !(bitAt s.mgmt.failed (17 + core / 32)) &&
  !(enforcedOn s ctx core)

/-- An amount divided by what a task takes; `most` where it takes nothing. -/
def perTask (amount each most : Nat) : Nat := if each = 0 then most else amount / each

/-- Tasks that a core can start (05 R79). -/
def coreCount (s : State) (ctx : Nat) (d : LaunchRec) (core : Nat) (w : Without) : Nat :=
  let ts := standing s ctx core w
  if !(coreOpen s ctx core) then 0
  else min 4 (min (min (leftOn s ctx 2 core w) (4 - ts.length))
    (min (perTask (leftOn s ctx 6 core w) d.tiles 4)
      (min (perTask (leftOn s ctx 5 core w) d.spad 4) (perTask (longestRun (regionRuns s ctx core w)) d.spad 4))))

/-- The cores of a quad. -/
def quadCores (q : Nat) : List Nat := (List.range 4).map (4 * q + ·)

/-- A task runs on a quad, a removed one in its removal routine too (05 R80, 19 R322). -/
def quadBusy (s : State) (q : Nat) : Bool :=
  (quadCores q).any (fun c => (List.range 4).any (fun k => (s.thread (threadKey c k)).task.isSome))

/-- A quad admits crews of a context: no hard-isolated context outside its line holds it (04 R51, 05 R80). -/
def isolationAdmits (s : State) (ctx q : Nat) : Bool :=
  (s.ctxs.map (·.2)).all (fun x =>
    !(x.isol && (quadCores q).any x.budget.hasCore) || s.inSubtree x.id ctx)

/-- A reservation is that of a launch's next crew. -/
def Reservation.isOf (r : Reservation) (ctx : Nat) (l : Launch) : Bool :=
  r.ctx == ctx && r.handle == l.handle && r.crew == l.nextIndex

/-- Whether a reservation keeps the next crew of a launch off its quad: that of another crew of its context, one of its
own launch among them, or of any FUSEL1 crew (05 R84). -/
def Reservation.bars (s : State) (r : Reservation) (ctx : Nat) (l : Launch) : Bool :=
  !(r.isOf ctx l) && (r.ctx == ctx || ((s.launch r.ctx r.handle).map (·.desc.fuse)).getD false)

/-- A FUSEL1 crew runs on a quad and keeps others off it; the crews of a context, or of every one, count as gone where
`w` says so (05 R80, R84). -/
def fusedBy (s : State) (ctx q : Nat) (w : Without) : Bool :=
  s.crews.any (fun c => c.quad == q && c.fuse && (match w with
    | .none_ => true
    | .own => c.ctx != ctx
    | .all_ => false))

/-- A quad may receive a crew of a launch as things stand. -/
def quadOpen (s : State) (ctx : Nat) (l : Launch) (q : Nat) (w : Without) : Bool :=
  (s.island q).on && !(s.island q).draining && isolationAdmits s ctx q &&
  !(fusedBy s ctx q w) &&
  (w != .none_ ||
    (!(l.desc.fuse && quadBusy s q) &&
     !(s.reserved.any (fun r => r.quad == q && r.bars s ctx l))))

/-- Free image slots for the tasks of a new crew (19 R320). -/
def imageRoom (s : State) (ctx : Nat) (l : Launch) : Bool :=
  l.nextSaved.isSome ||
  (match poolOf s ctx with
   | none => false
   | some p => l.need ≤ (freeSlots s p l.need).length)

/-- The counts of a quad's cores, when the next crew of a launch fits it. -/
def fits (s : State) (ctx : Nat) (l : Launch) (q : Nat) (w : Without) : Option (List Nat) :=
  if quadOpen s ctx l q w && (w != .none_ || imageRoom s ctx l) then
    let n := (quadCores q).map (fun c => coreCount s ctx l.desc c w)
    if l.need ≤ n.sum then some n else none
  else none

/-- The quads of a die. -/
def dieQuads (die : Nat) : List Nat := (List.range 8).map (8 * die + ·)

/-- The lowest quad of some that a launch's next crew fits (05 R81). -/
def fitQuad (s : State) (ctx : Nat) (l : Launch) (qs : List Nat) : Option (Nat × List Nat) :=
  qs.findSome? (fun q => (fits s ctx l q .none_).map (fun n => (q, n)))

/-- A context's next crew that fits a die: the launch, the quad and the counts (05 R78, R83). -/
def nextCrewOn (s : State) (ctx die : Nat) : Option (Launch × Nat × List Nat) :=
  if (s.ctxAt ctx).budget.slice = 0 then none
  else (eligibleLaunches s ctx).findSome? (fun l => (fitQuad s ctx l (dieQuads die)).map (fun p => (l, p.1, p.2)))

/-! ## Waiting crews (05 R84) -/

/-- A launch whose next crew begins to wait: it may be placed, and fits no quad on any die. -/
def waitsNow (s : State) (ctx : Nat) (l : Launch) : Bool :=
  placeable s ctx l && (fitQuad s ctx l (List.range 64)).isNone

/-- Whether the next crew of a launch may reserve a quad as things stand: it has waited 1,000 µs, the quad is in its
context's core set and would take the crew, and no reservation stands against it (05 R84). A crew that waits behind a
saved one takes none meanwhile (log entry 88). The first condition is that of R79's counts, the second is one more for a
FUSEL1 crew, on which R80's emptiness bears (log entry 89). -/
def offerStands (s : State) (ctx : Nat) (l : Launch) (q : Nat) : Bool :=
  (match l.waitFrom with
   | some t => t + 1000000 ≤ s.ns
   | none => false) &&
  placeable s ctx l && (quadCores q).any (s.ctxAt ctx).budget.hasCore &&
  (fits s ctx l q .own).isSome && (!l.desc.fuse || (fits s ctx l q .all_).isSome) &&
  !(s.reserved.any (fun r => r.quad == q || (r.ctx == ctx && (r.isOf ctx l || r.quad / 8 == q / 8))))

/-- A launch that has changed: where its next crew is another one than before, a saved crew, the one that was next waits
on behind it (05 R84; 19 R321; log entry 88). -/
def Launch.displacing (old new : Launch) : Launch :=
  if new.nextIndex = old.nextIndex then new
  else { new with
    parked := match old.waitFrom with
      | some t => Map.put old.nextIndex t new.parked
      | none => new.parked
    waitFrom := none, reserveAt := none }

/-- A launch whose next crew has gone, placed or ended: the wait of the one that is next now is the launch's. -/
def Launch.unpark (l : Launch) : Launch :=
  { l with waitFrom := Map.find l.nextIndex l.parked, parked := Map.del l.nextIndex l.parked, reserveAt := none }

/-- The wait of a launch's next crew, brought up to date: it ends when the crew is placed or its launch stops being
eligible, and with the launch's end those of the crews behind it. While the context's SLICE is 0 nothing of it is placed,
and no crew of it waits or reserves (log entry 90). A quad that the crew may no longer reserve is offered to it no
more. -/
def Launch.settleWait (s : State) (ctx : Nat) (l : Launch) : Launch :=
  if !(placeable s ctx l) then { l with waitFrom := none, reserveAt := none, parked := [] }
  else
    { l with
      waitFrom := if l.waitFrom.isNone && waitsNow s ctx l then some s.ns else l.waitFrom
      reserveAt := l.reserveAt.filter (offerStands s ctx l) }

def settleWaits (s : State) : State :=
  { s with ctxs := s.ctxs.map (fun p => (p.1, { p.2 with launches := p.2.launches.map (Launch.settleWait s p.1) })) }

/-- A quad on which a task has just ended and that a crew may reserve (05 R84). -/
def mayReserve (s : State) (ctx : Nat) (l : Launch) (q : Nat) : Bool := l.reserveAt.isNone && offerStands s ctx l q

/-- After a task's end on a quad: the crews that may now reserve it. -/
def offerQuad (s : State) (q : Nat) : State :=
  { s with ctxs := s.ctxs.map (fun p => (p.1, { p.2 with launches := p.2.launches.map (fun l =>
      if mayReserve s p.1 l q then { l with reserveAt := some q } else l) })) }

/-- The reservations of a launch given up. -/
def dropReservation (s : State) (ctx : Nat) (h : Word) : State :=
  { s with reserved := s.reserved.filter (fun r => !(r.ctx == ctx && r.handle == h)) }

/-- The reservation of one crew of a launch given up. -/
def dropCrewReservation (s : State) (ctx : Nat) (h : Word) (crew : Nat) : State :=
  { s with reserved := s.reserved.filter (fun r => !(r.ctx == ctx && r.handle == h && r.crew == crew)) }

/-- RESERVATION: a crew that may reserve a quad does. -/
def execReservation (quad ctx : Nat) (handle : Word) (s : State) : Out :=
  match s.launch ctx handle with
  | none => .fault .noSuchAgent
  | some l =>
    if l.reserveAt = some quad && offerStands s ctx l quad then
      let r : Reservation := { quad := quad, ctx := ctx, handle := handle, crew := l.nextIndex }
      let t : State := { s with reserved := s.reserved ++ [r] }
      .next (t.modLaunch ctx handle (fun l => { l with reserveAt := none }))
    else .next s

/-! ## Commit (02 R23; 05 R79, R81, R82; 19 R321) -/

/-- The free user slots of a core, ascending. -/
def openSlots (s : State) (core : Nat) : List Nat :=
  (List.range 4).filter (fun k => (s.thread (threadKey core k)).task.isNone)

/-- Where the tasks of a crew go: core, slot, rank on the core and the offset of the crew's region there. -/
def assign (s : State) (ctx spad : Nat) : List (Nat × Nat) → Nat → List (Nat × Nat × Nat × Nat)
  | [], _ => []
  | (core, n) :: r, need =>
    let take := min n need
    let base := lowestRun (regionRuns s ctx core .none_) (take * spad)
    ((List.range take).zip (openSlots s core)).map (fun p => (core, p.2, p.1, if spad = 0 then 0 else base)) ++
    assign s ctx spad r (need - take)

/-- The region of a crew on each core: its offset and its tasks there. -/
def regionsOf (spad : Nat) (cores : List Nat) (places : List (Nat × Nat × Nat × Nat)) : List (Nat × Nat × Nat) :=
  if spad = 0 then []
  else (cores.filter (fun c => places.any (·.1 == c))).map (fun c =>
    let l := places.filter (·.1 == c)
    (c, (l.map (·.2.2.2)).headD 0, l.length))

/-- Home times of the stores that a task of a launch acquires at its start: those that the launching thread had
published at the acceptance, and those that the completions of its prerequisites had (02 R22, 04 R69). -/
def startNeeds (s : State) (ctx : Nat) (l : Launch) : List Nat :=
  l.accepted ++ l.desc.prereq.flatMap (fun h =>
    if h = 0 then [] else match prereqByte s ctx l.features h with
      | some (_, some e) => s.publishedBy e.who 2 e.time
      | _ => [])

/-- A new task's thread (02 R23). -/
def startThread (ctx : Nat) (l : Launch) (task : Task) : Thread :=
  { Thread.reset with
    pc := l.desc.code + BitVec.ofNat 64 l.desc.entry
    regs := [(1, l.desc.param), (2, l.handle)]
    ctx := ctx, status := .ready, task := some task
    vec := { Vec.reset with decl := l.desc.vdecl } }

/-- A task put on a thread, and its acquire at package scope of the stores it needs (04 R69). -/
def startTask (s : State) (ctx : Nat) (l : Launch) (needs : List Nat) (crew k core slot rank base : Nat)
    (image : Nat × Nat) : State :=
  let key := threadKey core slot
  let task : Task :=
    { ctx := ctx, handle := l.handle, crewId := crew, crew := l.nextCrew, k := k, tasks := l.desc.tasks,
      tiles := l.desc.tiles, spad := l.desc.spad, spBase := base + rank * l.desc.spad, rank := rank, image := image,
      features := l.features, removed := false, hangFrom := 0 }
  (s.setThread key (startThread ctx l task)).acquireWith key 2 needs

/-- The status with which a saved thread comes back: a stalled thread stays stalled, a wait issues again. -/
def Status.restored : Status → Status
  | .trapped k => .trapped k
  | _ => .ready

/-- The open loop's body, fetched again (07 R135); the captured one where it cannot be (log entry 39). None while its
memory is not ready. -/
def refetchLoop (s : State) : Option State :=
  match s.me.vec.loop with
  | none => some s
  | some l =>
    match fetchBody s (l.pc + 4) l.len with
    | .ok b => some (s.modVec (fun v => { v with loop := some { l with body := b } }))
    | .error (.inl .wait) => none
    | .error (.inl (.flt f)) => some (s.meets f)
    | .error (.inr _) => some s

/-- A saved task put on a thread (19 R321; 11 R236; 15 R282; 23 R351). None while memory it needs is not ready. -/
def restoreTask (s : State) (t : Thread) (crew core slot rank base : Nat) : Option State :=
  match t.task with
  | none => some s
  | some task =>
    let key := threadKey core slot
    let sp : SpadEnv := { core := core, crew := crew, base := base + rank * task.spad, size := task.spad, swz := 0 }
    let u : Thread :=
      { t with
        status := t.status.restored, cnt := .zero, alias_ := 0, iters := []
        task := some { task with crewId := crew, spBase := base + rank * task.spad, rank := rank }
        cmds := t.cmds.map (fun c => { c with spad := { sp with swz := c.spad.swz } }) }
    let s := { ((s.setThread key u).renameStores t.alias_ key) with cur := key }
    ((reopenHandles t.iters s).bind refetchLoop)

/-- The threads of a quad. -/
def quadKeys (q : Nat) : List Nat := (quadCores q).flatMap (fun c => (List.range 5).map (threadKey c))

/-- Pending bytes, and sends of ended tasks, of some frames reach their homes (log entry 71). -/
def settleFrames (s : State) (fs : List Nat) : State :=
  let inside (p : Pend) : Bool := fs.contains (p.pa / 2 ^ 16)
  (settleEvery s (fun _ t => (t.pend.filter inside).map (·.pa))).sendWhere (fun x => inside x.2)

/-- The dirty L1 lines of a quad are written to their homes: every store made there that its thread, running or saved,
has not published (05 R74, R80). A send stands in no L1 (10 R208). -/
def flushQuad (s : State) (q : Nat) : State :=
  settleEvery s (fun k t =>
    if coreOfKey k / 4 = q then (t.pend.filter (fun p => !(uncachedPa p.pa))).map (·.pa) else [])

/-- The L1s of a quad write back their dirty lines and are invalidated, before they are joined and before they are split
(05 R80). -/
def emptyL1s (s : State) (q : Nat) : State :=
  (quadCores q).foldl (fun s c => s.modCore c (fun x => { x with l1Poison := [], l1Fills := [] })) (flushQuad s q)

/-- The next crew of a launch committed to a quad with its cores' counts. None while a saved task's memory is not
ready. -/
def commit (s : State) (ctx : Nat) (l : Launch) (q : Nat) (counts : List Nat) : Option State :=
  let id := s.fresh
  let s := if l.desc.fuse then emptyL1s s q else s
  let places := assign s ctx l.desc.spad ((quadCores q).zip counts) l.need
  let crew : Crew :=
    { id := id, ctx := ctx, handle := l.handle, index := l.nextIndex, quad := q,
      fuse := l.desc.fuse, live := places.map (fun p => (p.1, p.2.1)), spad := l.desc.spad,
      regions := regionsOf l.desc.spad (quadCores q) places, saved := [] }
  let needs := startNeeds s ctx l
  let s : State := { s with crews := s.crews ++ [crew] }
  let s := dropCrewReservation s.bump ctx l.handle l.nextIndex
  let go (l : Launch) : Launch :=
    { l.unpark with mode := .open_, timer := some (l.timer.getD (s.ns, (s.ctxAt ctx).budget.slice)) }
  match l.nextSaved with
  | some c =>
    let s := s.modLaunch ctx l.handle (fun l => go { l with saved := l.saved.filter (fun x => x.index != c.index) })
    ((places.zip c.threads).foldl
      (fun u p => u.bind (fun u => restoreTask u p.2 id p.1.1 p.1.2.1 p.1.2.2.1 p.1.2.2.2)) (some s)).map
      (fun u => { u with cur := s.cur })
  | none =>
    let pool := (poolOf s ctx).getD 0
    let imgs := freeSlots s pool l.need
    let s := s.modLaunch ctx l.handle (fun l => go { l with nextCrew := l.nextCrew + 1, placed := l.placed + 1 })
    some (((List.range l.need).zip (places.zip imgs)).foldl (fun s p =>
      startTask s ctx l needs id p.1 p.2.1.1 p.2.1.2.1 p.2.1.2.2.1 p.2.1.2.2.2 (pool, p.2.2)) s)

/-! ## Turns (05 R83, R84) -/

/-- A reserving crew of a die that fits the quad it has reserved: it goes there, though a lower-numbered quad of the die
would take it too (05 R81, R84; log entry 91). One that waits behind a saved crew of its launch is placed after it (19
R321). -/
def reservedCrew (s : State) (die : Nat) : Option (Nat × Launch × Nat × List Nat) :=
  (s.reserved.filter (fun r => r.quad / 8 == die)).findSome? (fun r =>
    match s.launch r.ctx r.handle with
    | none => none
    | some l =>
      if placeable s r.ctx l && r.isOf r.ctx l then (fits s r.ctx l r.quad .none_).map (fun n => (r.ctx, l, r.quad, n)) else none)

/-- Contexts that gain a fitting crew enter a die's list at its tail, in ascending ID. -/
def enterActive (s : State) (die : Nat) : State :=
  let old := Map.getD die [] s.active
  let new := ((s.ctxs.map (·.1)).filter (fun c => !(old.any (·.1 == c)) && (nextCrewOn s c die).isSome)).map (fun c => (c, 0))
  if new.isEmpty then s else { s with active := Map.put die (old ++ new) s.active }

/-- Every die's list: contexts enter it in the order in which they gain a fitting crew (05 R83). -/
def enterLists (s : State) : State := (List.range 8).foldl enterActive s

/-- The head of a die's list served once: it is given its quantum at its turn's start, and then places one crew, leaves
the list, or goes to its tail. None while the crew's memory is not ready. -/
def serveHead (s : State) (die : Nat) : Option State :=
  match Map.getD die [] s.active with
  | [] => some s
  | (c, d) :: rest =>
    let d := if s.turns.contains die then d else d + ceilDiv (s.ctxAt c).budget.slice 50
    let goOn (l : List (Nat × Nat)) (s : State) : State :=
      { s with active := Map.put die l s.active, turns := s.turns.filter (· != die) }
    match nextCrewOn s c die with
    | none => some (goOn rest s)
    | some (l, q, n) =>
      if l.need ≤ d then
        let s := { s with active := Map.put die ((c, d - l.need) :: rest) s.active
                          turns := die :: s.turns.filter (· != die) }
        commit s c l q n
      else some (goOn (rest ++ [(c, d)]) s)

/-- PLACE_CREW: a placement unit places at most one crew, a reserving one first, which its context's deficit is not
charged for (log entry 57). -/
def execPlaceCrew (die : Nat) (s : State) : Out :=
  if 8 ≤ die then .fault .noSuchAgent
  else match reservedCrew s die with
    | some (c, l, q, n) => .next ((commit s c l q n).getD s)
    | none => .next ((serveHead (enterActive s die) die).getD s)

/-! ## Slice ends and stops (05 R85; 02 R21; 04 R64) -/

/-- Another eligible launch of the context has a waiting crew, or another context has reserved a quad of this launch. -/
def sliceContested (s : State) (ctx : Nat) (l : Launch) : Bool :=
  (s.ctxAt ctx).launches.any (fun m => m.live && m.handle != l.handle && (m.waitFrom.isSome || !m.parked.isEmpty) && eligible s ctx m) ||
  s.reserved.any (fun r => r.ctx != ctx && (s.crewsOf ctx l.handle).any (fun c => c.quad == r.quad))

/-- A launch's placed crews drain. -/
def drainLaunch (s : State) (ctx : Nat) (h : Word) (mode : LaunchMode) : State :=
  (dropReservation s ctx h).modLaunch ctx h (fun l =>
    { l with mode := mode, timer := none, drainFrom := some s.ns, reserveAt := none })

/-- SLICE_END: the slice timer of a launch has reached the SLICE that the context held when the slice began, a grant since
then making it no longer (05 R85, 04 R57; log entry 102). -/
def execSliceEnd (ctx : Nat) (handle : Word) (s : State) : Out :=
  match s.launch ctx handle with
  | none => .fault .noSuchAgent
  | some l =>
    match l.timer with
    | none => .next s
    | some t =>
      if l.mode ≠ .open_ || (s.crewsOf ctx handle).isEmpty || s.ns < t.1 + 1000 * t.2 then .next s
      else if sliceContested s ctx l then .next (drainLaunch s ctx handle .draining)
      else .next (s.modLaunch ctx handle (fun l => { l with timer := some (s.ns, (s.ctxAt ctx).budget.slice) }))

/-- The forced pre-emptions of a crew under way: an `isloff` of its quad, and every revocation being enforced that takes
back a core on which one of its tasks runs (05 R74, 04 R57). -/
def preemptionsOf (s : State) (c : Crew) : List Preemption :=
  (if (s.island c.quad).draining then [.island c.quad] else []) ++
  (s.path c.ctx).flatMap (fun id => ((s.ctxAt id).revs.filter (fun r => r.phase != 0 &&
      (r.cores (s.ctxAt id).budget).any (fun k => c.live.any (fun p => p.1 == k)))).map
    (fun r => .revocation id r.item r.qual))

/-- A crew that is to be saved: something pre-empts it, or it has begun to be saved. -/
def crewTargeted (s : State) (c : Crew) : Bool := !c.saved.isEmpty || !(preemptionsOf s c).isEmpty

/-- Whether a pre-emption still has a crew to save. -/
def Preemption.saves (p : Preemption) (s : State) (c : Crew) : Bool :=
  (!c.saved.isEmpty && c.pre.contains p) || (preemptionsOf s c).contains p

/-- The saved position of a launch written with what SLICES counts already, or owed while the record's memory is not
ready. -/
def payPosition (s : State) (ctx : Nat) (l : Launch) : State :=
  (writePosition s ctx l l.nextCrew).getD
    (s.modLaunch ctx l.handle (fun m => { m with slices := l.slices, due := true }))

/-- A forced pre-emption all of whose crews of a launch are saved: its one write of the saved position, with SLICES + 1
(02 R21). -/
def payPreemption (ctx : Nat) (h : Word) (s : State) (p : Preemption) : State :=
  match s.launch ctx h with
  | none => s
  | some l =>
    if (s.crewsOf ctx h).any (p.saves s) then s
    else payPosition (s.modLaunch ctx h (fun l => { l with saving := l.saving.filter (· != p) })) ctx l.counted

/-- The writes of the saved position that a launch owes: one whose memory was not ready, and one for each forced pre-emption
whose crews have been saved since (02 R21). -/
def settlePosition (s : State) (ctx : Nat) (h : Word) : State :=
  match s.launch ctx h with
  | none => s
  | some l => l.saving.foldl (payPreemption ctx h) (if l.due then payPosition s ctx l else s)

/-- A write of the saved position for a forced pre-emption is still to come. -/
def Launch.owes (l : Launch) : Bool := l.due || !l.saving.isEmpty

/-- SAVED_POSITION_WRITE: a position that a forced pre-emption owes is written; or the placed crews of a slice end or a
stop have drained, and the launch waits for selection, or, with every crew placed, for its completion. -/
def execSavedPositionWrite (ctx : Nat) (handle : Word) (s : State) : Out :=
  match s.launch ctx handle with
  | none => .fault .noSuchAgent
  | some l =>
    if l.owes then .next (settlePosition s ctx handle)
    else if !(l.mode == .draining || l.mode == .stopping) || !(s.crewsOf ctx handle).isEmpty then .next s
    else match saveLaunch s ctx l l.nextCrew with
      | none => .next s
      | some t =>
        .next (t.modLaunch ctx handle (fun l =>
          { l with mode := .waiting, order := t.fresh, drainFrom := none, timer := none })).bump

/-- STOP_DRAINED: every crew of a stopped subtree has drained and its positions are written. -/
def execStopDrained (ctx : Nat) (s : State) : Out :=
  if !(s.live ctx) then .fault .noSuchAgent
  else
    let sub := s.subtree ctx
    if (s.ctxAt ctx).state = 3 && !(s.crews.any (fun c => s.inSubtree ctx c.ctx)) &&
        sub.all (fun c => c.launches.all (fun l => l.mode != .stopping)) then
      .next (s.modCtx ctx (fun c => { c with state := 4 }))
    else .next s

/-! ## Forced pre-emption (07 R131; 15 R279; 19 R321) -/

/-- A thread whose task is to be saved. -/
def targeted (s : State) (key : Nat) : Bool :=
  match (s.thread key).task with
  | none => false
  | some k => s.crews.any (fun c => c.id == k.crewId && crewTargeted s c)

/-- Words that end a strip: setvl, vdecl and exit (07 R131). -/
def endsStrip (w : BitVec 32) : Bool :=
  let op := w.toNat / 2 ^ 25
  op == 0x30 || op == 0x31 || op == 0x19

/-- The word that a thread issues next, where it can be fetched. -/
def nextWord (s : State) (key : Nat) : Option (BitVec 32) :=
  let t := s.thread key
  match t.replay with
  | some r => some r.word
  | none =>
    match t.vec.loop with
    | some l => l.body[l.next]?
    | none => (fetchWord s key t.pc).toOption

/-- A thread at an instruction at which it may be saved (07 R131): not while it answers a request, nor before a released
replay has, nor, with FREEZE set, before a word that cannot be fetched. A wait is abandoned and issues again on restore
(17 R301, 11 R240), whatever FREEZE holds (log entry 44). -/
def savable (s : State) (key : Nat) : Bool :=
  let t := s.thread key
  match t.status with
  | .trapped _ => true
  | .waiting .. => true
  | .ringWait .. => true
  | st =>
    if st == .ready && (t.stop.isSome || (t.replay.isSome && !t.stopped)) then false
    else
      t.stopped || !t.vec.freeze ||
      (match t.vec.loop with
       | some l => !l.open_
       | none => st == .laneWait || ((nextWord s key).map endsStrip).getD false)

/-- Words of vector, memory, matrix and iterator instructions, which the scalar side queues (07 R131). -/
def queuedWord (w : BitVec 32) : Bool := bodyWord w || opOf w == 0x75 || opOf w == 0x6F

/-- The same, and the iterator instructions that are not pulls: what a forced pre-emption may find unfinished (07 R131). -/
def handedWord (w : BitVec 32) : Bool := queuedWord w || opOf w == 0x74 || opOf w == 0x76

/-- Words of instructions that a forced pre-emption trims (07 R131, 09 R197): all of them but for `bump`, the segment
reductions, the forms of 0x35 and 0x36, a pull and the deprecated ones. -/
def trimsWord (w : BitVec 32) : Bool :=
  handedWord w && !([0x33, 0x35, 0x36, 0x3D, 0x75, 0x6F].contains (opOf w))

/-- Where a forced pre-emption stops a thread's oldest unfinished instruction (07 R131; 15 R279; 19 R327; log entry 40):
the lowest multiple of G above the elements it has completed and at least G, the examinations of a pull, or a step of a
deprecated instruction; nowhere for one that is never trimmed. -/
def stopPoint (s : State) (t : Thread) (w : BitVec 32) : Nat :=
  let g := 2 ^ t.vec.gran
  let pick := Config.trimPick s.fresh
  if opOf w = 0x75 then pick
  else if opOf w = 0x6F then (if t.replay.isSome then t.mstep else 0) + pick
  else if trimsWord w then g * (max 1 ((startElem t + g - 1) / g) + pick % (t.vec.al / g + 1))
  else noStop

/-- The request that a forced pre-emption makes of a thread that runs. The word it issues next is its oldest unfinished
instruction, certainly so if it is a released replay, or a younger queued one, which runs to its end (07 R131), but for a
pull that was abandoned. With FREEZE set only a deprecated instruction and a pull are asked (19 R327, 15 R279). -/
def stopRequest (s : State) (key : Nat) : Option Nat :=
  let t := s.thread key
  match nextWord s key with
  | none => none
  | some w =>
    if t.status ≠ .ready || t.stop.isSome || !(handedWord w) || (t.vec.freeze && opOf w ≠ 0x6F && opOf w ≠ 0x75) then none
    else if t.stopped then (if t.replay.isSome || t.abandoned || Config.freeBit s.fresh then none else some noStop)
    else if t.replay.isSome || !(Config.freeBit s.fresh) then some (stopPoint s t w)
    else none

/-- The thread of a task as it is saved; every older instruction has retired (07 R131). -/
def Thread.parked (t : Thread) (alias_ : Nat) : Thread :=
  { t with status := t.status.restored, vec := t.vec.release, alias_ := alias_, stop := none, stopped := false
           abandoned := false, flights := [] }

/-- A crew with a task saved by what pre-empts it. -/
def Crew.save (c : Crew) (at_ : Nat × Nat) (t : Thread) (by_ : List Preemption) : Crew :=
  { c with live := c.live.filter (· != at_), saved := c.saved ++ [t], pre := (c.pre ++ by_).eraseDups }

/-- A task saved: its handles' images, its slot, and its thread in the crew; the thread is free afterwards. None while
the memory of an image or of the slot is not ready. -/
def saveTask (s : State) (key : Nat) (task : Task) : Option State :=
  (saveHandles (s.thread key).iters { s with cur := key }).bind (fun u =>
    let u := { u with cur := s.cur }
    let t := u.thread key
    (saveImage u t task).map (fun s =>
      let alias_ := 2048 * (1 + s.fresh) + key
      let s := t.cmds.foldl (fun s c => dropRequests s (.inr c.serial)) (dropRequests s (.inl key))
      let s := s.renameStores key alias_
      let s := (s.setThread key Thread.reset).bump
      { s with crews := s.crews.map (fun c => if c.id = task.crewId then
          c.save (coreOfKey key, slotOfKey key) (t.parked alias_) (preemptionsOf s c)
          else c) }))

/-- Saved tasks in ascending number. -/
def insertTask (t : Thread) : List Thread → List Thread
  | [] => [t]
  | u :: r => if (t.task.map (·.k)).getD 0 < (u.task.map (·.k)).getD 0 then t :: u :: r else u :: insertTask t r

/-- A crew all of whose tasks are saved becomes a saved crew of its launch, and what has saved it owes a write of the saved
position. -/
def retireCrew (s : State) (id : Nat) : State :=
  match s.crews.find? (fun c => c.id == id) with
  | none => s
  | some c =>
    if !c.live.isEmpty || c.saved.isEmpty then s
    else
      let x : SavedCrew := { index := c.index, threads := c.saved.foldr insertTask [] }
      let s := if c.fuse then emptyL1s s c.quad else s
      let s : State := { s with crews := s.crews.filter (fun y => y.id != id) }
      s.modLaunch c.ctx c.handle (fun l =>
        l.displacing { l with saved := l.saved ++ [x], saving := (l.saving ++ c.pre).eraseDups })

/-- The slice timer stops with the last placed crew (05 R85), whether that crew has completed or a forced pre-emption has
saved it (log entry 92). -/
def settleTimer (s : State) (ctx : Nat) (h : Word) : State :=
  if (s.crewsOf ctx h).isEmpty then s.modLaunch ctx h (fun l => { l with timer := none }) else s

/-- FORCED_PREEMPTION: the oldest unfinished instruction of a task of a pre-empted crew is asked to stop, or the task is
saved where it may be; with the launch's last such crew the saved position is written (02 R21). -/
def execForcedPreemption (core slot : Nat) (s : State) : Out :=
  let key := threadKey core slot
  match (s.thread key).task with
  | none => .next s
  | some task =>
    if 4 ≤ slot || !(targeted s key) then .next s
    else match stopRequest s key with
      | some b => .next (s.modThread key (fun t => { t with stop := some b })).bump
      | none =>
        if !(savable s key) then .next s.bump
        else match saveTask s key task with
          | none => .next s
          | some t =>
            let t := settleTimer (retireCrew t task.crewId) task.ctx task.handle
            .next (settlePosition t task.ctx task.handle)

end Sys2Proof.Machine
end

