-- ==== Sys2Proof/Machine/Retire.lean ====
section
/-! DEFINITION. The end of a task, removal, and the completion of a launch (19 R322; 22 R333 to R340). -/

namespace Sys2Proof.Machine

/-! ## What a task holds of the package -/

/-- A thread's copy commands cancelled: their replay records and ring requests go (11 R236, R237). -/
def cancelOf (s : State) (t : Thread) : State :=
  t.cmds.foldl (fun s c =>
    let s := dropRequests s (.inr c.serial)
    { s with held := s.held.filter (fun h => match h.by_ with
        | .engine n _ => n != c.serial
        | _ => true) }) s

/-- The held faults of a thread's task: its trap, and its hang record. -/
def dropHeld (s : State) (t : Thread) : State :=
  { s with held := s.held.filter (fun h =>
      match h.by_ with
      | .user => t.status != .trapped h.token
      | .hang ctx handle crew k => !(t.isTask ctx handle crew k)
      | _ => true) }

/-! ## Crews and launches (22 R337) -/

/-- A crew without a running task ends, or stands saved when some of its tasks are (19 R321). A fused quad's L1s are
split again (05 R80), and a position that the launch owes is written (02 R21). -/
def finishCrew (s : State) (id : Nat) : State :=
  match s.crews.find? (fun c => c.id == id) with
  | none => s
  | some c =>
    if !c.live.isEmpty then s
    else
      let s :=
        if c.saved.isEmpty then
          let s := if c.fuse then emptyL1s s c.quad else s
          let s : State := { s with crews := s.crews.filter (fun x => x.id != id) }
          s.modLaunch c.ctx c.handle (fun l => { l with finished := l.finished + 1 })
        else retireCrew s id
      settlePosition (settleTimer s c.ctx c.handle) c.ctx c.handle

/-- What a task's end adds to its launch. -/
def Launch.ended (l : Launch) (aborted : Bool) (status key : Nat) : Launch :=
  { l with aborts := l.aborts + b2n aborted, status := Nat.lor l.status status, keys := key :: l.keys }

/-- A thread ends: its stores stand in the home order under another key, and so do its sends that have not performed
(17 R296). -/
def endThread (s : State) (key alias_ : Nat) : State :=
  let left := (s.thread key).pend.reverse.map (fun p => (alias_, p.release))
  let s := (s.renameStores key alias_).setThread key Thread.reset
  { s.bump with sends := s.sends ++ left }

/-- The key under which an ended thread's stores stand. -/
def State.aliasFor (s : State) (key : Nat) : Nat := 2048 * (1 + s.fresh) + key

/-- The task of a thread ends: what R336 releases is released, and its crew may end with it. -/
def endTask (s : State) (key : Nat) (task : Task) (status : Nat) (aborted : Bool) : State :=
  let alias_ := s.aliasFor key
  let s := endThread (dropRequests (dropHeld s (s.thread key)) (.inl key)) key alias_
  let s := s.modLaunch task.ctx task.handle (fun l => l.ended aborted status alias_)
  let s : State := { s with crews := s.crews.map (fun c => if c.id = task.crewId then
      { c with live := c.live.filter (· != (coreOfKey key, slotOfKey key)) } else c) }
  offerQuad (finishCrew s task.crewId) (coreOfKey key / 4)

/-! ## exit and abort (22 R333 to R335) -/

/-- The status operand. -/
def exitStatus (s : State) (a : BitVec 7) : Nat := (s.rd a).toNat % 65536

def execExit (a : BitVec 7) (s : State) : Out :=
  userOnly s fun _ =>
    let status := exitStatus s a
    let s := s.fireAll s.cur
    if !s.me.markers.isEmpty then .next s
    else if !s.me.cmds.isEmpty then .next (s.modMe (fun t => { t with status := .engineWait t.cmds.length }))
    else match closeHandles s.me.iters s with
      | (s, some e) => stopAt s e
      | (s, none) =>
        let s := s.publish s.cur 2
        match s.me.task with
        | none => .next (endThread s s.cur (s.aliasFor s.cur))
        | some k => .next (endTask s s.cur k status false)

/-- A thread's task taken out by `abort`. -/
def abortThread (s : State) (key : Nat) (status : Nat) : State :=
  let s := cancelOf s (s.thread key)
  let s := s.publish key 2
  match (s.thread key).task with
  | none => endThread s key (s.aliasFor key)
  | some k => endTask s key k status true

def execAbort (a : BitVec 7) (s : State) : Out :=
  userOnly s fun _ => .next (abortThread s s.cur (exitStatus s a))

/-! ## Removal (19 R322) -/

/-- A thread restarted at its context's removal routine. -/
def Thread.remove (t : Thread) (exitvec : Word) (cause : Nat) (pc : Word) : Thread :=
  let v : Vec :=
    { t.vec.release with
      vl := 0, al := 0, es := 0, starved := false, more := false, itx := false, freeze := false, cause := 0, maxvl := 0
      lanes := 0, loop := none }
  let t : Thread :=
    { t with
      pc := exitvec, wb := 0, status := .ready, replay := none, mstep := 0, markers := [], cmds := [], vec := v
      pend := t.pend.map (fun p => { p with behind := 0 }), flights := []
      stop := none, stopped := false, abandoned := false
      task := t.task.map (fun k => { k with removed := true }) }
  { t with regs := Map.put 2 pc (Map.put 1 (BitVec.ofNat 64 cause) t.regs) }

/-- The saved thread that a condition names. -/
def State.savedThread (s : State) (p : Thread → Bool) : Option Thread := s.savedThreads.find? p

/-- A saved thread's pending stores published at package scope under its key; its sends are left to perform. -/
def publishSaved (s : State) (t : Thread) : State :=
  let s := (s.setThread t.alias_ t).publish t.alias_ 2
  let left := (s.thread t.alias_).pend.reverse.map (fun p => (t.alias_, p.release))
  { s with threads := Map.del t.alias_ s.threads, sends := s.sends ++ left }

/-- A launch without a saved task; a saved crew that has lost its last task has ended, and where it was the next one, the
crew behind it is that again (05 R84). -/
def Launch.without (l : Launch) (p : Thread → Bool) : Launch :=
  let left := l.saved.map (fun c => { c with threads := c.threads.filter (fun t => !(p t)) })
  let gone := (left.filter (fun c => c.threads.isEmpty)).length
  let new : Launch := { l with saved := left.filter (fun c => !c.threads.isEmpty), finished := l.finished + gone }
  if new.nextIndex = l.nextIndex then new else new.unpark

/-- The reservation of a saved crew that has ended is given up. -/
def dropEnded (s : State) (ctx : Nat) (h : Word) (crew : Nat) : State :=
  if ((s.launch ctx h).map (fun l => l.saved.any (fun c => c.index == crew))).getD false then s
  else dropCrewReservation s ctx h crew

/-- A saved task taken out by `abort`. -/
def abortSaved (s : State) (t : Thread) (p : Thread → Bool) : State :=
  match t.task with
  | none => s
  | some k =>
    let s := publishSaved (dropHeld (cancelOf s t) t) t
    let s : State := { s with crews := s.crews.map (fun c => { c with saved := c.saved.filter (fun t => !(p t)) }) }
    let s := s.modLaunch k.ctx k.handle (fun l => (l.without p).ended true 0 t.alias_)
    let s := dropEnded s k.ctx k.handle k.crew
    finishCrew s k.crewId

/-- The task that a condition names is removed; a second removal acts as `abort` (log entry 50). -/
def removeTask (s : State) (p : Thread → Bool) (cause : Nat) (pc : Word) : State :=
  match s.threads.find? (fun x => p x.2) with
  | some (key, t) =>
    if (t.task.map (·.removed)).getD true then abortThread s key 0
    else
      let s := dropRequests (dropHeld (cancelOf s t) t) (.inl key)
      s.modThread key (fun t => t.remove (s.ctxAt t.ctx).exitvec cause pc)
  | none =>
    match s.savedThread p with
    | none => s
    | some t =>
      if (t.task.map (·.removed)).getD true then abortSaved s t p
      else
        mapThreads (dropHeld (cancelOf s t) t) (fun u =>
          if p u then u.remove (s.ctxAt u.ctx).exitvec cause pc else u)

/-! ## Completion of a launch (22 R338, R339) -/

/-- The completion word from its old value (22 R338). -/
def completionWord (aborts status old : Nat) : Nat :=
  min aborts 65535 * 2 ^ 48 + status % 65536 * 2 ^ 32 + (old + 1) % 2 ^ 32

/-- The completion word updated at its home: its new value, none where the update fails, and the state. -/
def updateDone (s : State) (ctx : Nat) (l : Launch) : Except Stop (Option Nat × State) :=
  if l.desc.done = 0 then .ok (none, s)
  else match checkAtomic s (deviceEnv ctx l.features) l.desc.done 8 false with
    | .error .wait => .error .wait
    | .error (.flt f) => .ok (none, launchNotice (s.meets f) ctx f.cause l.desc.done l.handle f.map)
    | .ok p =>
      match checkLink s l.desc.done p with
      | .error .wait => .error .wait
      | .error (.flt f) => .ok (none, launchNotice s ctx f.cause l.desc.done l.handle f.map)
      | .ok _ =>
        let new := completionWord l.aborts l.status (leNat (p.pas.map s.home) % 2 ^ 32)
        .ok (some new, s.writeHome (.completion l.order) .atomic false p.pas (leBytes 8 new))

/-- A thread whose key is among some. -/
def Agent.among (a : Agent) (keys : List Nat) : Bool :=
  match a with
  | .thread k => keys.contains k
  | _ => false

/-- The stores that the ended tasks of a launch published: their own, and those that their boundaries carried
(17 R288, 22 R338). -/
def State.taskStores (s : State) (keys : List Nat) : List Nat :=
  (s.hist.filter (fun e => e.who.among keys)).map (·.time) ++
  (s.pubs.filter (fun p => 2 ≤ p.scope && p.who.among keys)).flatMap (·.stores)

/-- A completion releases, at a scope, what its launch's tasks published (22 R338). -/
def State.completes (s : State) (l : Launch) (scope : Nat) : State :=
  s.published (.completion l.order) scope (s.taskStores l.keys)

/-- The sends of a launch's tasks perform: a publication of scope s covers them (17 R296, 22 R338). -/
def State.sendAll (s : State) (keys : List Nat) : State := s.sendWhere (fun x => keys.contains x.1)

/-- The live launch of a handle leaves its context. -/
def State.dropLaunch (s : State) (ctx : Nat) (h : Word) : State :=
  s.modCtx ctx (fun c => { c with launches := c.launches.filter (fun l => !(l.live && l.handle == h)) })

/-- Step 4 of 22 R338: a publication of scope s of what the tasks published, and then the Swap, unless the mirror lies
outside the context's windows. `new` is the completion word's new value, where it has one. -/
def sendMirror (s : State) (ctx : Nat) (l : Launch) (new : Option Nat) : State :=
  if l.desc.mirror = 0 then s.dropLaunch ctx l.handle
  else
    let s := (s.sendAll l.keys).completes l 3
    if !((s.ctxAt ctx).budget.holdsWindow l.desc.mirror.toNat 8) then
      (launchNotice s ctx 2 l.desc.mirror l.handle none).dropLaunch ctx l.handle
    else
      let w := new.getD (completionWord l.aborts l.status 0)
      s.modLaunch ctx l.handle (fun l => { l with mode := .mirror, swap := BitVec.ofNat 64 w })

/-- LAUNCH_COMPLETION: every crew has ended, and no saved position is still to be written. While the memory of the
completion word is not ready, STATE stands at 2 and the word is still to be updated. -/
def execLaunchCompletion (ctx : Nat) (handle : Word) (s : State) : Out :=
  match s.launch ctx handle with
  | none => .fault .noSuchAgent
  | some l =>
    if !(l.allEnded (s.crewsOf ctx handle)) || l.owes || l.mode == .draining || l.mode == .stopping then .next s
    else
      let u := s.completes l 2
      match (if l.stateDone then some u else savePosition u (.completion l.order) ctx l 1 [2]) with
      | none => .next s
      | some t =>
        match updateDone t ctx l with
        | .error _ => .next (t.modLaunch ctx handle (fun l => { l with stateDone := true }))
        | .ok (new, t) => .next (sendMirror (dropReservation t ctx handle) ctx l new)

/-- A launch whose mirror Swap is in flight leaves its context. -/
def State.dropMirror (s : State) (ctx : Nat) (h : Word) : State :=
  s.modCtx ctx (fun c =>
    match c.launches.find? (fun l => !l.live && l.handle == h) with
    | none => c
    | some l => { c with launches := c.launches.erase l })

/-- MIRROR_SWAP_COMPLETION: the host answers the Swap, with an error or without. With one, host memory may show the new
value or not. -/
def execMirrorSwapCompletion (ctx : Nat) (handle : Word) (error : Bool) (s : State) : Out :=
  match (s.ctxAt ctx).launches.find? (fun l => !l.live && l.handle == handle) with
  | none => .fault .noSuchAgent
  | some l =>
    let pas := (List.range 8).map (fun i => 0x8000000000000 + l.desc.mirror.toNat + i)
    let done := s.writeHome (.completion l.order) .atomic false pas (leBytes 8 l.swap.toNat)
    let s := s.dropMirror ctx handle
    let done := done.dropMirror ctx handle
    if error || pas.any s.linkError then
      .next (launchNotice (if Config.failedAtomicPerforms s.fresh then done.bump else s.bump) ctx 5 l.desc.mirror handle none)
    else .next done

end Sys2Proof.Machine
end

