-- ==== Sys2Proof/Machine/Launch.lean ====
section
/-! DEFINITION. Accepting a launch, and asking about one (02 R18 to R20; 04 R66 to R69). -/

namespace Sys2Proof.Machine

/-- A launch record's description, from its bytes. -/
def LaunchRec.ofBytes (l : List Byte) : LaunchRec :=
  { code := dword l 0, entry := bytesField l 8 4, fuse := bitAt (bytesField l 12 4) 0, crews := bytesField l 16 4,
    tasks := bytesField l 20 1, stages := bytesField l 21 1, vdecl := bytesField l 22 1, tiles := bytesField l 23 1,
    spad := bytesField l 24 4, prio := bytesField l 28 1, bw := bytesField l 29 1, param := dword l 4, done := dword l 5,
    prereq := [dword l 6, dword l 7, dword l 8, dword l 9], mirror := dword l 10 }

/-- A field beyond its limit or a reserved bit set (02 R18). -/
def badRecord (l : List Byte) : Bool :=
  let d := LaunchRec.ofBytes l
  d.code.toNat % 256 != 0 || d.entry % 4 != 0 || 1 < bytesField l 12 4 || d.crews == 0 || 0x1000000 < d.crews ||
  d.tasks == 0 || 16 < d.tasks || d.stages == 0 || 16 < d.stages || 16 < d.tasks * d.stages || 5 < d.vdecl ||
  8 < d.tiles || d.spad % 1024 != 0 || 0x800000 < d.spad || 7 < d.prio || 63 < d.bw || bytesField l 0x1E 2 != 0 ||
  d.done.toNat % 8 != 0 || d.mirror.toNat % 8 != 0 || bytesField l 0x58 8 != 0 || bytesField l 0x61 3 != 0 ||
  bytesField l 0x70 16 != 0

/-- One core of a context's set whose holdings suffice for a task (02 R19). -/
def someCore (c : Context) (d : LaunchRec) : Bool :=
  c.budget.coreList.any (fun k => 1 ≤ c.budget.threads.get k && d.tiles ≤ c.budget.tiles.get k && d.spad ≤ c.budget.spad.get k)

/-- The status of `launch`: the first check of 04 R67 that fails, after the alignment and the read. A record at
address 0 has 0 as its handle, which an empty prerequisite slot holds too; it is refused as naming itself (log entry
58). -/
def launchStatus (c : Context) (h : Word) (l : List Byte) : Nat :=
  let d := LaunchRec.ofBytes l
  let state := bytesField l 0x60 1
  if badRecord l then 17
  else if 1 < state || (state == 1 && d.crews ≤ bytesField l 0x64 4) then 18
  else if d.prereq.contains h then 19
  else if (c.launch h).isSome then 20
  else if c.budget.prio < d.prio then 21
  else if c.budget.bw.get d.bw = 0 then 22
  else if !(someCore c d) then 23
  else if 4096 ≤ (c.launches.filter Launch.live).length then 24
  else 0

/-- A launch as it stands when its record is accepted (02 R20, R21; 22 R337; 23 R348). -/
def newLaunch (s : State) (h : Word) (l : List Byte) : Launch :=
  let next := if bytesField l 0x60 1 = 1 then bytesField l 0x64 4 else 0
  { handle := h, desc := LaunchRec.ofBytes l, nextCrew := next, firstCrew := next, slices := bytesField l 0x68 8,
    placed := 0, finished := 0, saved := [], aborts := 0, status := 0, features := s.mgmt.accepted, order := s.fresh,
    mode := .open_, timer := none, drainFrom := none, waitFrom := none, reserveAt := none,
    accepted := s.publishedBy (.thread s.cur) 2 (s.now + 1), swap := 0, keys := [], due := false }

/-- A record offered to a context's queue: its status, and the state. -/
def acceptLaunch (s : State) (ctx : Nat) (h : Word) (l : List Byte) : Nat × State :=
  let st := launchStatus (s.ctxAt ctx) h l
  if st ≠ 0 then (st, s)
  else (0, (s.modCtx ctx (fun c => { c with launches := c.launches ++ [newLaunch s h l] })).bump)

def execLaunch (d a : BitVec 7) (s : State) : Out :=
  afterMarkers s fun _ =>
    let va := s.rd a
    let s := s.phase s.cur 2
    if va.toNat % 128 ≠ 0 then s.finish d 16
    else match loadHome s s.cur (s.env s.cur) va 128 128 with
      | .error e => stopAt s e
      | .ok (l, s) =>
        let r := acceptLaunch s s.me.ctx va l
        r.2.finish d (w64 r.1)

/-- STATE of `lquery` (04 R68). A launch of which a forced pre-emption saves crews, or has saved some that are not placed
again yet, is running: 4 and 5 are those of a slice end or a stop (05 R85; log entry 97). -/
def launchState (s : State) (ctx : Nat) (l : Launch) : Nat :=
  match l.mode with
  | .open_ => if l.placed ≠ 0 then 3 else if l.prereqsMet s ctx then 2 else 1
  | .draining | .stopping => 4
  | .waiting => 5
  | .mirror => 0

def execLquery (d a : BitVec 7) (s : State) : Out :=
  let ctx := s.me.ctx
  match s.launch ctx (s.rd a) with
  | none => s.finish d 0
  | some l => s.finish d (w64 (launchState s ctx l + l.placed * 2 ^ 14 + l.finished * 2 ^ 39))

end Sys2Proof.Machine
end

