-- ==== Sys2Proof/Machine/Context.lean ====
section
/-! DEFINITION. The context instructions (04 R54, R60 to R65). -/

namespace Sys2Proof.Machine

/-- A direct child of the executing context, or the cause of the refusal: a bad handle inside its subtree, a privilege
fault outside (03 R40, R41). -/
def childOf (s : State) (id : Word) : Except Nat Context :=
  let n := id.toNat
  let bad : Except Nat Context := .error (if s.inSubtree s.me.ctx n then 0x13 else 0x11)
  match Map.find n s.ctxs with
  | some c => if c.depth != 0 && c.parent == s.me.ctx then .ok c else bad
  | none => bad

/-- An instruction that names a direct child. -/
def withChild (s : State) (id : Word) (k : Context → Out) : Out :=
  match childOf s id with
  | .error c => instrFault s c
  | .ok c => k c

/-! ## ctxmk and ctxdestroy (04 R60 to R62) -/

/-- The bits that a delegation mask may hold (19 R313). -/
def delegBits : Nat := 0x1FE + 0x1F0000 + 2 ^ 48 + 2 ^ 50

def badDeleg (v : Nat) : Bool := Nat.lor v delegBits != delegBits

/-- A field of a descriptor out of its limits (04 R60, 23 R348; log entry 41). -/
def badDescriptor (l : List Byte) (features : Nat) : Bool :=
  let n := bytesField l 0x28 4
  bytesField l 2 2 == 0 || 4096 < bytesField l 2 2 || 3 < bytesField l 4 1 ||
  (bitAt (bytesField l 4 1) 1 && !(bitAt features 1)) || bytesField l 5 3 != 0 || bytesField l 8 8 % 0x10000 != 0 ||
  !(canonical (dword l 1)) || bytesField l 0x10 8 % 4 != 0 || bytesField l 0x18 8 % 4 != 0 ||
  bytesField l 0x20 8 % 4096 != 0 || n < 64 || 65536 < n || n != 2 ^ Nat.log2 n || bytesField l 0x2C 4 != 0 ||
  badDeleg (bytesField l 0x30 8) || (l.drop 0x40).any (· != 0)

/-- An interval that is free inside a parent's. -/
def freeInterval (s : State) (p : Context) (lo n : Nat) : Bool :=
  p.id < lo && lo + n ≤ p.id + p.count && (s.children p.id).all (fun c => lo + n ≤ c.id || c.id + c.count ≤ lo)

/-- The refusals of a descriptor. -/
def makeRefusals (s : State) (p : Context) (l : List Byte) : List Nat :=
  if badDescriptor l s.mgmt.accepted then [1]
  else refusals [(p.depth == 7, 6), (!(freeInterval s p (bytesField l 0 2) (bytesField l 2 2)), 5),
    (bitAt (bytesField l 4 1) 0 && p.depth != 0, 7)]

/-- A new child: it holds its interval and nothing else. -/
def newContext (p : Context) (l : List Byte) : Context :=
  { id := bytesField l 0 2, count := bytesField l 2 2, depth := p.depth + 1, parent := p.id, state := 1, run := false,
    isol := bitAt (bytesField l 4 1) 0, maproot := bytesField l 8 8, budget := .empty, revs := [], first := dword l 7,
    fqbase := dword l 4, fqlog2 := Nat.log2 (bytesField l 0x28 4), fqhead := 0, fqtail := 0, fqstores := [], dropped := 0,
    deleg := dword l 6, exitvec := dword l 3, trapvec := dword l 2, rev1 := bitAt (bytesField l 4 1) 1, imgbase := 0,
    imgcount := 0, recbase := 0, launches := [] }

def execCtxmk (d a : BitVec 7) (s : State) : Out :=
  supOnly s fun _ =>
    let va := s.rd a
    let s := s.phase s.cur 2
    if va.toNat % 128 ≠ 0 then s.finish d 0x8000000000000001
    else match loadHome s s.cur (s.env s.cur) va 128 128 with
      | .error e => stopAt s e
      | .ok (l, s) =>
        let p := s.ctxAt s.me.ctx
        let r := makeRefusals s p l
        if r.isEmpty then (s.setCtx (newContext p l)).finish d (w64 (bytesField l 0 2))
        else s.bump.finish d (0x8000000000000000 ||| w64 (reported s r))

def execCtxdestroy (a : BitVec 7) (s : State) : Out :=
  supOnly s fun _ => withChild s (s.rd a) fun c =>
    if c.state = 5 then .next s.retire
    else .next (s.setCtx { c with state := 5, revs := c.revs.map (fun r => { r with deadline := s.ns }) }).retire

/-! ## ctxgrant and ctxrevoke (04 R63) -/

/-- The root adds a key to its own ring, by a request whose fields are in their limits as any other (log entry 61). -/
def selfKey (s : State) (r : Request) : Nat × State :=
  let b := (s.ctxAt 0).budget
  if r.qual != 0 || r.grace != 0 || r.v1 != 0 || r.done != 0 || r.v0 == 0 || 0xFFFF < r.v0 then (1, s)
  else if !(b.keys.contains r.v0) && 256 ≤ b.keys.length then (2, s)
  else (0, s.modCtx 0 (fun c => { c with budget := c.budget.receive r }))

/-- A budget request read from memory after the prefix; a misaligned one gives status 1 and is not read. -/
def withRequest (d b : BitVec 7) (s : State) (k : Request → State → Out) : Out :=
  let va := s.rd b
  let t := s.phase s.cur 2
  if va.toNat % 32 ≠ 0 then t.finish d 1
  else match loadHome t t.cur (t.env t.cur) va 32 32 with
    | .error e => stopAt t e
    | .ok (l, t) => k (Request.ofBytes l) t

def execCtxgrant (d a b : BitVec 7) (s : State) : Out :=
  supOnly s fun _ => withRequest d b s fun r t =>
    if s.me.ctx = 0 && s.rd a = 0 && r.item = 13 then
      let x := selfKey t r
      x.2.finish d (w64 x.1)
    else withChild s (s.rd a) fun c =>
      let l := grantRefusals t (t.ctxAt t.me.ctx) c r
      if l.isEmpty then (t.setCtx { c with budget := c.budget.receive r }).finish d 0
      else t.bump.finish d (w64 (reported t l))

/-- ELEM of the records about a revocation. -/
def revElem (item qual : Nat) : Nat := item * 0x10000 + qual

/-- The reservation and the notice of a revocation (04 R56 step 1), with whose write its grace begins. None while the
notice cannot be written: it waits for the queue's memory, or behind an older record of the core (19 R312; log entry 68).
VA and PC of the notice are open (log entry 32). -/
def startRevocation (s : State) (c : Context) (r : Request) : Option State :=
  let v : Revocation :=
    { item := r.item, qual := r.qual, v0 := r.v0, v1 := r.v1, deadline := s.ns + 1000 * r.grace,
      done := BitVec.ofNat 64 r.done, core := coreOfKey s.cur, pc := s.me.curPc, phase := 0, cut := (0, 0) }
  let s := s.setCtx { c with revs := c.revs ++ [v] }
  (s.postAtOnce (coreOfKey s.cur) c.id (noticeEntry s c.id 0x20 (Config.openWord s.fresh) (Config.openWord (s.fresh + 1))
    (revElem r.item r.qual) (coreOfKey s.cur) 4 none)).map (fun s => s.bump.bump)

/-- `ctxrevoke` answers 0 once its notice is written; until then nothing of it has happened. -/
def execCtxrevoke (d a b : BitVec 7) (s : State) : Out :=
  supOnly s fun _ => withRequest d b s fun r t => withChild s (s.rd a) fun c =>
    let l := revokeRefusals c r
    if l.isEmpty then
      match startRevocation t c r with
      | none => .next s
      | some u => u.finish d 0
    else t.bump.finish d (w64 (reported t l))

/-! ## ctxrun, ctxstop and ctxq (04 R64, R65) -/

/-- A trap record that `ctxrun` writes: TOKEN 0, this core, thread 4. It counts in the core's SEQ (19 R311), and its
VA is FIRST (log entry 62). Which PCRES it carries is open (log entry 32). -/
def runRecord (s : State) (c : Context) (cause owner : Nat) (deleg : Bool) (elem : Nat) (map : Option Nat) : State :=
  let core := coreOfKey s.cur
  let r : Record :=
    { cause := cause, kind := 1, level := (s.ctxAt owner).depth, deleg := deleg, pcres := Config.freeBit s.fresh,
      misslvl := missLevel s c.id cause map, nested := false, ctx := c.id, core := core, thread := 4, token := 0,
      va := c.first, pc := s.me.curPc, elem := elem, cmd := 0, sect := 0, chunk := 0, hints := [], orig := (0, 0) }
  let s := s.modCore core (fun x => { x with seq := (nextToken s core 4 0 0).2 })
  (s.post core owner { record := r, resume := s.me.curPc, mstep := 0 }).bump

/-- `launch` of FIRST in the child, without the prefix of the instruction `launch` (log entry 62); none while its
memory is not ready. -/
def runFirst (s : State) (c : Context) : Option State :=
  if c.first = 0 then some s
  else if c.first.toNat % 128 ≠ 0 then some (runRecord s c 0x13 c.id false 16 none)
  else match loadHome s s.cur { deviceEnv c.id s.features with key := s.cur } c.first 128 128 with
    | .error .wait => none
    | .error (.flt f) =>
      let o := ownerOf s c.id f.cause f.map
      some (runRecord (s.meets f) c f.cause o.1 o.2 0 f.map)
    | .ok (l, s) =>
      let r := acceptLaunch s c.id c.first l
      some (if r.1 = 0 then r.2 else runRecord s c 0x13 c.id false r.1 none)

/-- The launches of a subtree that a stop is draining go on where every run bit is set, but for one whose crews have all
drained already: its saved position is written (04 R64, 02 R21). The slice timer of each starts
again at its next commit (05 R85). -/
def resumeSubtree (s : State) (ctx : Nat) : State :=
  { s with ctxs := s.ctxs.map (fun p => (p.1,
      if s.inSubtree ctx p.1 && runBits s p.1 then
        { p.2 with launches := p.2.launches.map (fun l =>
            if l.mode = .stopping && !(s.crewsOf p.1 l.handle).isEmpty then
              { l with mode := .open_, drainFrom := none, timer := none } else l) }
      else p.2)) }

def execCtxrun (a : BitVec 7) (s : State) : Out :=
  supOnly s fun _ => withChild s (s.rd a) fun c =>
    let go := s.setCtx { c with run := true, state := 2 }
    if c.state = 1 then
      match runFirst go c with
      | none => .next s
      | some t => .next t.retire
    else if c.state = 3 || c.state = 4 then .next (resumeSubtree go c.id).retire
    else .next s.retire

/-- The launches of a subtree that have placed crews and are not over drain, those without a running crew at once, and
their saved positions are to be written (02 R21; log entry 34); every launch gives up its reservations (05 R84). One that
a slice end is draining or has saved already is saved once for both (log entry 34). -/
def stopSubtree (s : State) (ctx : Nat) : State :=
  let s := (s.subtree ctx).foldl (fun s c => c.launches.foldl (fun s l =>
    if l.mode = .open_ && l.placed != 0 && !(l.allEnded (s.crewsOf c.id l.handle)) then drainLaunch s c.id l.handle .stopping else s) s) s
  { s with reserved := s.reserved.filter (fun r => !(s.inSubtree ctx r.ctx)) }

def execCtxstop (a : BitVec 7) (s : State) : Out :=
  supOnly s fun _ => withChild s (s.rd a) fun c =>
    if c.state = 2 then .next (stopSubtree (s.setCtx { c with run := false, state := 3 }) c.id).retire
    else .next s.retire

/-- The state word of `ctxq`. -/
def stateWord (s : State) (c : Context) : Nat :=
  c.state + c.depth * 2 ^ 4 + b2n c.run * 2 ^ 7 + c.id * 2 ^ 8 + c.count * 2 ^ 20 + c.revs.length * 2 ^ 33 +
  (s.crews.filter (fun x => x.ctx == c.id)).length % 2 ^ 12 * 2 ^ 36

/-- What `ctxq` answers of a live context. -/
def queryContext (s : State) (c : Context) (x : Nat) : Word :=
  let item := bitsAt x 0 8
  let q := bitsAt x 8 16
  if x = 0 then w64 (stateWord s c)
  else if 2 ^ 26 ≤ x then -1
  else if bitAt x 25 then
    (if item = 13 && !(bitAt x 24) then ((c.budget.keys[q]?).map w64).getD (-1) else -1)
  else if validQual item q then w64 (if bitAt x 24 then freeShown s c item q else holdingShown c item q)
  else -1

/-- `ctxq`. A free ID reads 0 under every selector (log entry 63). -/
def execCtxq (d a b : BitVec 7) (s : State) : Out :=
  supOnly s fun _ =>
    let id := (s.rd a).toNat
    if !(s.inSubtree s.me.ctx id) then instrFault s 0x11
    else match Map.find id s.ctxs with
      | none => s.finish d 0
      | some c => s.finish d (queryContext s c (s.rd b).toNat)

end Sys2Proof.Machine
end

