-- ==== Sys2Proof/Machine/VRed.lean ====
section
/-! DEFINITION. Reductions, segment reductions and permutations (08 R165, R166; 09 R190 to R197). -/

namespace Sys2Proof.Machine

/-! ## Reductions to a scalar (09 R190 to R192) -/

/-- A reduction: `f tag l` gives the pattern and the flags from the active elements in ascending order, and `ext`
widens the pattern. It raises no element fault: flags only, which `up` puts in flight. It reads AL, the register and
the mask once what can change them has finished (07 R133). -/
def reduceBy (up : State → Flags → State) (ok : Nat → Bool) (ext : Nat → Nat → Word)
    (f : Nat → List Nat → Nat × Flags) (d a : BitVec 7) (m : Bool) (s : State) : Out :=
  vecIssue s [a] fun _ =>
    let t := s.vtag a
    tagCheck s (ok t && maskOk s m) fun _ =>
      let act := activeElems s m
      let r := f t (act.map ((s.vreg a).read t))
      (countElems act.length (up (s.settled (elemsRead a m)) r.2)).finish d (ext t r.1)

/-- A reduction of the vector instructions. -/
def reduce (ok : Nat → Bool) (ext : Nat → Nat → Word) (f : Nat → List Nat → Nat × Flags) (d a : BitVec 7) (m : Bool)
    (s : State) : Out :=
  reduceBy (State.raiseFlight []) ok ext f d a m s

/-- An integer reduction: `op w acc x`, from an identity. -/
def intReduce (unit : Nat → Int) (op : Nat → Nat → Nat → Int) (d a : BitVec 7) (m : Bool) (s : State) : Out :=
  reduce isInt extendElem
    (fun t l => (l.foldl (fun acc x => wrapTo (tagWidth t) (op (tagWidth t) acc x)) (wrapTo (tagWidth t) (unit (tagWidth t))), 0))
    d a m s

def redMin (w x y : Nat) : Int := min (signedOf w x) (signedOf w y)
def redMax (w x y : Nat) : Int := max (signedOf w x) (signedOf w y)

def execVredadd (d a : BitVec 7) (m : Bool) (s : State) : Out := intReduce (fun _ => 0) opAdd d a m s
def execVredmin (d a : BitVec 7) (m : Bool) (s : State) : Out := intReduce (maxOf true) redMin d a m s
def execVredmax (d a : BitVec 7) (m : Bool) (s : State) : Out := intReduce (minOf true) redMax d a m s
def execVredminn (d a : BitVec 7) (m : Bool) (s : State) : Out :=
  intReduce (fun _ => -1) (fun _ x y => (min x y : Nat)) d a m s
def execVredand (d a : BitVec 7) (m : Bool) (s : State) : Out :=
  intReduce (fun _ => -1) (fun _ x y => (Nat.land x y : Int)) d a m s
def execVredor (d a : BitVec 7) (m : Bool) (s : State) : Out :=
  intReduce (fun _ => 0) (fun _ x y => (Nat.lor x y : Int)) d a m s
def execVredxor (d a : BitVec 7) (m : Bool) (s : State) : Out :=
  intReduce (fun _ => 0) (fun _ x y => (Nat.xor x y : Int)) d a m s
def execVredmaxn (d a : BitVec 7) (m : Bool) (s : State) : Out :=
  intReduce (fun _ => 0) (fun _ x y => (max x y : Nat)) d a m s

/-- The format of a float sum: FP64 for FP64, otherwise FP32 (08 R165). -/
def sumTag (t : Nat) : Nat := if t = 12 then 12 else 11

/-- An element converted exactly to the sum's format: inputs are flushed, the result is not (log entry 24). -/
def sumInput (q : FMode) (t x : Nat) : Nat × Flags := (fmtOr (sumTag t)).deliver 0 false (valOf q t x) 0

/-- One addition of a sum, rounded in the strip's mode. Its operands were flushed when they were converted. -/
def sumAdd (q : FMode) (t x y : Nat) : Nat × Flags :=
  fopAdd { q with daz := false } (sumTag t) x y

/-- Pairs added along one level of the tree. -/
def addPairs (add : Nat → Nat → Nat × Flags) : List Nat → List Nat × Flags
  | x :: y :: r =>
    let u := add x y
    let v := addPairs add r
    (u.1 :: v.1, orF u.2 v.2)
  | l => (l, 0)

/-- The levels of the tree. -/
def treeSum (add : Nat → Nat → Nat × Flags) : Nat → List Nat → Nat × Flags
  | 0, l => (l.headD 0, 0)
  | n + 1, l =>
    let u := addPairs add l
    let v := treeSum add n u.1
    (v.1, orF u.2 v.2)

/-- The number of levels for n elements. -/
def levels (n : Nat) : Nat := if n ≤ 1 then 0 else Nat.log2 (n - 1) + 1

/-- The pairwise tree over elements padded with +0.0 (08 R165). The sum of one element is that element, with no addition
whose result would flush (log entry 24). -/
def pairwise (q : FMode) (t : Nat) (l : List Nat) : Nat × Flags :=
  let xs := l.map (sumInput q t)
  let k := levels l.length
  let r := treeSum (sumAdd q t) k (xs.map (·.1) ++ List.replicate (2 ^ k - l.length) 0)
  (r.1, xs.foldl (fun f p => orF f p.2) r.2)

/-- The ascending sum (08 R166). -/
def ascending (q : FMode) (t : Nat) (l : List Nat) : Nat × Flags :=
  match l.map (sumInput q t) with
  | [] => (0, 0)
  | x :: r => r.foldl (fun acc y =>
      let u := sumAdd q t acc.1 y.1
      (u.1, orF (orF acc.2 y.2) u.2)) x

/-- The least or greatest by the rules of `fmin` and `fmax`, folded from the canonical NaN, which gives way. -/
def extreme (max_ : Bool) (q : FMode) (t : Nat) (l : List Nat) : Nat × Flags :=
  l.foldl (fun acc x =>
    let u := pickBits max_ q t acc.1 x
    (u.1, orF acc.2 u.2)) ((fmtOr t).nan, 0)

/-- A float reduction. -/
def fpReduce (f : FMode → Nat → List Nat → Nat × Flags) (d a : BitVec 7) (m : Bool) (s : State) : Out :=
  reduce isFF8 (fun _ x => w64 x) (f s.me.fmode) d a m s

def execVfredsum (d a : BitVec 7) (m : Bool) (s : State) : Out := fpReduce pairwise d a m s
def execVfredseq (d a : BitVec 7) (m : Bool) (s : State) : Out := fpReduce ascending d a m s
def execVfredmin (d a : BitVec 7) (m : Bool) (s : State) : Out := fpReduce (extreme false) d a m s
def execVfredmax (d a : BitVec 7) (m : Bool) (s : State) : Out := fpReduce (extreme true) d a m s

/-! ## Cross-element forms that write a vector -/

/-- Positions of vd written, the other positions below VL set by policy, and the instruction retired. -/
def writePositions (s : State) (d : BitVec 7) (tag : Nat) (z : Bool) (l : List (Nat × Nat)) : Out :=
  let s := (s.setTag d tag).writeElems d tag l
  let s := if z then
      s.writeElems d tag (((List.range s.me.vec.vl).filter (fun e => !(l.any (fun p => p.1 == e)))).map (fun e => (e, 0)))
    else s
  .next (countElems l.length s).retire

/-! ## Segment reductions (09 R193) -/

/-- A segment reduction: `f tag l` reduces the active elements of one granule. -/
def segReduce (ok : Nat → Bool) (res : Nat → Nat) (f : Nat → List Nat → Nat × Flags) (d a : BitVec 7) (m z : Bool)
    (s : State) : Out :=
  vecIssue s [d, a] fun _ =>
    let t := s.vtag a
    tagWrite s d (ok t && maskOk s m) fun _ =>
      let g := 2 ^ s.me.vec.gran
      let act := activeElems s m
      let out := (List.range ((s.me.vec.al + g - 1) / g)).map (fun j =>
        (j, f t ((act.filter (fun e => e / g == j)).map ((s.vreg a).read t))))
      writePositions (s.raiseFlight [.vreg d.toNat] (out.foldl (fun fl p => orF fl p.2.2) 0)) d (res t) z (out.map (fun p => (p.1, p.2.1)))

/-- An integer fold in the tag's signedness. -/
def foldInt (unit : Nat → Int) (op : Int → Int → Int) (t : Nat) (l : List Nat) : Nat × Flags :=
  (wrapTo (tagWidth t) ((l.map (numOf (isSignedTag t) (tagWidth t))).foldl op (unit t)), 0)

def execVsegsum (d a : BitVec 7) (m z : Bool) (s : State) : Out :=
  segReduce isInt id (foldInt (fun _ => 0) (· + ·)) d a m z s
def execVsegmin (d a : BitVec 7) (m z : Bool) (s : State) : Out :=
  segReduce isInt id (foldInt (fun t => maxOf (isSignedTag t) (tagWidth t)) min) d a m z s
def execVsegmax (d a : BitVec 7) (m z : Bool) (s : State) : Out :=
  segReduce isInt id (foldInt (fun t => minOf (isSignedTag t) (tagWidth t)) max) d a m z s
def execVsegfsum (d a : BitVec 7) (m z : Bool) (s : State) : Out :=
  segReduce isFF8 sumTag (pairwise s.me.fmode) d a m z s

/-! ## Permutations (09 R194) -/

/-- A source position below AL, or the fill 0. -/
def readBelow (s : State) (v : VReg) (t : Nat) (i : Nat) : Nat := if i < s.me.vec.al then v.read t i else 0

/-- A permutation: `src e` names the source position of element e, none for the fill. -/
def permute (d a : BitVec 7) (m z : Bool) (src : Nat → Option Nat) (s : State) : Out :=
  let t := s.vtag a
  let act := activeElems s m
  writePositions s d t z (act.map (fun e => (e, (src e).elim 0 (readBelow s (s.vreg a) t))))

def execVperm (d a b : BitVec 7) (m z : Bool) (s : State) : Out :=
  vecIssue s [d, a, b] fun _ =>
    tagWrite s d (isData (s.vtag a) && isInt (s.vtag b) && maskOk s m) fun _ =>
      permute d a m z (fun e => some ((s.vreg b).read (s.vtag b) e)) s

def execVslup (d a b : BitVec 7) (m z : Bool) (s : State) : Out :=
  vecIssue s [d, a] fun _ =>
    tagWrite s d (isData (s.vtag a) && maskOk s m) fun _ =>
      let k := (s.rd b).toNat
      permute d a m z (fun e => if k ≤ e then some (e - k) else none) s

def execVsldn (d a b : BitVec 7) (m z : Bool) (s : State) : Out :=
  vecIssue s [d, a] fun _ =>
    tagWrite s d (isData (s.vtag a) && maskOk s m) fun _ =>
      let k := (s.rd b).toNat
      permute d a m z (fun e => some (e + k)) s

def execVrev (d a : BitVec 7) (m z : Bool) (s : State) : Out :=
  vecIssue s [d, a] fun _ =>
    tagWrite s d (isData (s.vtag a) && maskOk s m) fun _ =>
      permute d a m z (fun e => some (s.me.vec.al - 1 - e)) s

/-! ## Compress, expand and indexes (09 R195) -/

/-- The elements below AL that a mask register selects, ascending. -/
def selectedBy (s : State) (b : BitVec 7) : List Nat := (List.range s.me.vec.al).filter (s.vreg b).bit

def execVcompress (d a b : BitVec 7) (z : Bool) (s : State) : Out :=
  vecIssue s [d, a, b] fun _ =>
    let t := s.vtag a
    tagWrite s d (isData t && s.vtag b == tagMsk) fun _ =>
      let sel := selectedBy s b
      writePositions s d t z ((List.range sel.length).zip (sel.map ((s.vreg a).read t)))

def execVexpand (d a b : BitVec 7) (z : Bool) (s : State) : Out :=
  vecIssue s [d, a, b] fun _ =>
    let t := s.vtag a
    tagWrite s d (isData t && s.vtag b == tagMsk) fun _ =>
      let sel := selectedBy s b
      writePositions s d t z (sel.zip ((List.range sel.length).map ((s.vreg a).read t)))

def execViota (d a : BitVec 7) (m z : Bool) (s : State) : Out :=
  vecIssue s [d, a] fun _ =>
    let t := s.me.vec.fmt
    tagWrite s d (s.vtag a == tagMsk && isInt t && maskOk s m) fun _ =>
      let act := activeElems s m
      let hits := act.filter (s.vreg a).bit
      writePositions s d t z (act.map (fun e => (e, wrapTo (tagWidth t) ((hits.filter (· < e)).length : Nat))))

def execVid (d : BitVec 7) (m z : Bool) (s : State) : Out :=
  vecIssue s [d] fun _ =>
    let t := s.me.vec.fmt
    tagWrite s d (isInt t && maskOk s m) fun _ =>
      let act := activeElems s m
      writePositions s d t z (act.map (fun e => (e, wrapTo (tagWidth t) (e : Nat))))

end Sys2Proof.Machine
end

