-- ==== Sys2Proof/Machine/Deprecated.lean ====
section
/-! DEFINITION. The deprecated instructions (19 R326, R327; 23 R348). -/

namespace Sys2Proof.Machine

/-- An instruction of opcode 0x6F: DEP must be accepted in the task's feature word. -/
def depIssue (s : State) (k : Unit → Out) : Out :=
  if bitAt (s.env s.cur).features 0 then k () else instrFault s 0x10

/-- The micro-step at which a deprecated instruction starts: 0, or MSTEP when it is issued again. -/
def Thread.depStart (t : Thread) : Nat := if t.replay.isSome then t.mstep else 0

/-- A fault of a micro-step traps with ES at its element and MSTEP at the step, and nothing is trimmed. `before` is the
thread at issue, whose registers a replay reads; the flags raised so far wait for the retirement (07 R130). -/
def depTrap (s : State) (before : Thread) (step elem : Nat) (f : Flt) : Out :=
  let s := (s.meets f).modMe (fun t => { t with mstep := step, vec := { t.vec with es := elem } })
  .next (holdFlags before (vectorTrap s before.vregs f.cause f.va elem [] f.map))

/-- Micro-step `k` stands still: the instruction is issued again and resumes there. -/
def depHold (before : Thread) (k elem : Nat) (s : State) : State :=
  holdFlags before (s.modMe (fun t => { (t.passBy s.word before.vregs) with mstep := k, vec := { t.vec with es := elem } }))

/-- The micro-steps from one on, `n` of them: each acts, or stops the instruction, and a forced pre-emption stops it at
its next one with ES and MSTEP for the image (19 R327). `fin` follows the last. -/
def depRun (before : Thread) (act : Nat → State → Except Stop State) (elemOf : Nat → Nat) (fin : State → Out) :
    Nat → Nat → State → Out
  | 0, _, s => fin s
  | n + 1, k, s =>
    if s.me.stop.any (fun b => b ≤ k) then
      .next ((depHold before k (elemOf k) s).modMe (fun t => { t with stop := none, stopped := true }))
    else match act k s with
      | .ok t => depRun before act elemOf fin n (k + 1) t
      | .error (.flt f) => depTrap s before k (elemOf k) f
      | .error .wait => .next (depHold before k (elemOf k) s)

/-- A request that finds every step done is past: with FREEZE set at issue the instruction has stopped nowhere, and the
thread runs on to the end of its strip (07 R131). -/
def depPast (before : Thread) (s : State) : State :=
  if before.vec.freeze then s.modMe (fun t => { t with stop := none }) else s

/-- Every micro-step of a deprecated instruction with `steps` of them. -/
def depAll (s issued : State) (act : Nat → State → Except Stop State) (elemOf : Nat → Nat) (fin : State → Out)
    (steps : Nat) : Out :=
  let k := s.me.depStart
  depRun s.me act elemOf (fun t => fin (depPast s.me t)) (steps - k) k issued

/-- The end of an instruction whose steps have done everything. -/
def depEnd (s : State) : Out := .next s.retire

/-- A(e) of `dvlds2`. -/
def pairAddr (s : State) (a b : BitVec 7) (e : Nat) : Word :=
  s.rd a + wordOf (e / 2) * s.rd b + wordOf (e % 2 * tagWidth s.me.vec.fmt)

def execDvlds2 (d a b : BitVec 7) (s : State) : Out :=
  depIssue s fun _ => vecIssue s [d] fun _ => tagWrite s d (loadFmt s false) fun _ =>
    let fmt := s.me.vec.fmt
    let w := tagWidth fmt
    depAll s (s.setTag d fmt)
      (fun e t =>
        match checkRead t (t.env t.cur) (pairAddr s a b e) w w with
        | .error x => .error x
        | .ok p =>
          let r := (t.beforeRead t.cur [p]).readBytes t.cur p.pas
          .ok (countElems 1 (countRead w (r.2.writeElems d fmt [(e, leNat r.1)]))))
      id depEnd s.me.vec.al

/-- `vredadd` for integers and `vfredseq` for floats, which raise no element fault. The partial result of the steps
done is what the elements below MSTEP give, in the source as it stood at issue, so that only a pre-emption shows the
steps. -/
def execDvred (d a : BitVec 7) (s : State) : Out :=
  depIssue s fun _ => vecIssue s [a] fun _ => tagCheck s (isInt (s.vtag a) || isF (s.vtag a)) fun _ =>
    depAll s s (fun _ t => .ok t) id
      (fun t =>
        let t := t.modVec (fun v => { v with es := 0 })
        if isInt (s.vtag a) then execVredadd d a false t
        else reduceBy (State.raiseFlight [.steps]) isF (fun _ x => w64 x) (ascending s.me.fmode) d a false t)
      s.me.vec.al

def execDmmac (d : BitVec 3) (a b : BitVec 7) (s : State) : Out :=
  depIssue s fun _ => tileIssue s [d] [a, b] fun _ =>
    tagCheck s (mopTags (s.vtag a) (s.vtag b) (s.tile d).tag) fun _ =>
      let q := s.me.fmode
      let psn := s.vtag a == tagPsn || s.vtag b == tagPsn
      let can : List Effect := .steps :: .tile d.toNat :: (if s.me.vec.freeze then [] else [.status])
      depAll s s
        (fun g t =>
          if psn then .error (.flt psnFault)
          else
            let r := mopGroups s q false false 128 (s.vreg a) (s.vreg b) [g] (t.tile d, 0)
            .ok (countElems (min 128 (s.me.vec.al - 128 * g)) (freezeIf true ((t.setTile d r.1).raiseFlight can r.2))))
        (fun g => 128 * g) depEnd ((s.me.vec.al + 127) / 128)

/-- One element of `dcopy`, read and then written. -/
def copyOne (s : State) (dst src : Word) (w : Nat) : Except Stop State :=
  match checkRead s (s.env s.cur) src w w with
  | .error x => .error x
  | .ok p =>
    match checkWrite s (s.env s.cur) dst w w with
    | .error x => .error x
    | .ok q =>
      let r := (s.beforeRead s.cur [p]).readBytes s.cur p.pas
      .ok (countElems 1 (countRead w (countWritten w ((r.2.store r.2.cur q.pas q.pas r.1).afterStore r.2.cur))))

def execDcopy (a b : BitVec 7) (s : State) : Out :=
  depIssue s fun _ => vecIssue s [] fun _ => tagCheck s (loadFmt s false) fun _ =>
    let w := tagWidth s.me.vec.fmt
    depAll s s (fun e t => copyOne t (s.rd a + wordOf (e * w)) (s.rd b + wordOf (e * w)) w) id depEnd s.me.vec.al

end Sys2Proof.Machine
end

