-- ==== Sys2Proof/Machine/Revoke.lean ====
section
/-! DEFINITION. Enforcing revocations, destroying contexts, and the hang watchdog (04 R56 to R59, R62; 10 R216, R217;
19 R322, R323). -/

namespace Sys2Proof.Machine

/-! ## The leaves of a map (10 R201, R202) -/

/-- A leaf of a context's map: where its entry lies, the address it maps and its size, and the entry. -/
structure Leaf where
  pa : Nat
  va : Nat
  size : Nat
  entry : MapEntry
  deriving DecidableEq, Repr

/-- What holds of each of some things, in their order; none when one of them must wait. -/
def gatherAll {α β : Type} (f : α → Option (List β)) : List α → Option (List β)
  | [] => some []
  | x :: r => (f x).bind (fun l => (gatherAll f r).map (l ++ ·))

/-- The entry of a table of a context's map that lies at an address of the levels above, as index, home and entry: nothing
where it is not valid, malformed, out of reach, reads poisoned, or has a link that answers with an error (log entry 87);
none while its memory is not ready (23 R347). -/
def entryAt (s : State) (c : Context) (table base i : Nat) : Option (List (Nat × Nat × MapEntry)) :=
  match walk s s.features (s.mapRoots c.parent) (base + 8 * i) with
  | .error .wait => none
  | .error _ => some []
  | .ok t =>
    if s.waitsAt t.pa then none
    else
      let e := MapEntry.ofNat (s.home8 t.pa)
      some (if e.v && !(e.malformed c.depth table s.features) && !(s.poisonHome t.pa) &&
        !(s.linkError t.pa) then [(i, t.pa, e)] else [])

/-- The indexes of a table's entries whose parts overlap a range of addresses; an empty range overlaps none. -/
def tableIndexes (at_ size lo hi : Nat) : List Nat :=
  let from_ := max lo at_
  let to_ := min hi (at_ + 8192 * size)
  if to_ ≤ from_ then []
  else
    let first := (from_ - at_) / size
    let last := (to_ - at_ + size - 1) / size
    (List.range (last - first)).map (first + ·)

/-- The valid, well-formed entries of a table whose parts overlap a range of addresses. -/
def tableEntries (s : State) (c : Context) (table base at_ size lo hi : Nat) : Option (List (Nat × Nat × MapEntry)) :=
  gatherAll (entryAt s c table base) (tableIndexes at_ size lo hi)

/-- The leaves of a context's map that lie in a range of its addresses, a 512-MiB leaf that overlaps it included. -/
def leavesOf (s : State) (c : Context) (lo hi : Nat) : Option (List Leaf) :=
  (tableEntries s c 0 c.maproot 0 (2 ^ 42) lo hi).bind (gatherAll (fun (i, _, e0) =>
    (tableEntries s c 1 e0.out (i * 2 ^ 42) (2 ^ 29) lo hi).bind (gatherAll (fun (j, pa, e1) =>
      let at_ := i * 2 ^ 42 + j * 2 ^ 29
      if !e1.t then some [{ pa := pa, va := at_, size := 2 ^ 29, entry := e1 }]
      else (tableEntries s c 2 e1.out at_ (2 ^ 16) lo hi).map (fun l => l.map (fun (k, pa, e2) =>
        { pa := pa, va := at_ + k * 2 ^ 16, size := 2 ^ 16, entry := e2 }))))))

/-- How many entries of a table, among those whose parts overlap a range, are read from host data that come with poison,
through the levels above or at their own home. -/
def entriesMet (s : State) (c : Context) (base at_ size lo hi : Nat) : Nat :=
  ((tableIndexes at_ size lo hi).filter (fun i =>
    match walk s s.features (s.mapRoots c.parent) (base + 8 * i) with
    | .error (.unread _ h) => h
    | .error _ => false
    | .ok t => s.hostPoisoned t.pa)).length

/-- The reads of a context's tables, over a range of its addresses, that meet poison of host data (10 R219). -/
def tablesMet (s : State) (c : Context) (lo hi : Nat) : Nat :=
  entriesMet s c c.maproot 0 (2 ^ 42) lo hi +
  (((tableEntries s c 0 c.maproot 0 (2 ^ 42) lo hi).getD []).map (fun (i, _, e0) =>
    entriesMet s c e0.out (i * 2 ^ 42) (2 ^ 29) lo hi +
    (((tableEntries s c 1 e0.out (i * 2 ^ 42) (2 ^ 29) lo hi).getD []).map (fun (j, _, e1) =>
      if e1.t then entriesMet s c e1.out (i * 2 ^ 42 + j * 2 ^ 29) (2 ^ 16) lo hi else 0)).sum)).sum

/-- The frames that a leaf reaches through the levels above, with their tiers. -/
def framesOf (s : State) (c : Context) (l : Leaf) : Option (List (Nat × Nat)) :=
  gatherAll (fun i =>
    match walk s s.features (s.mapRoots c.parent) (l.entry.out + i * 2 ^ 16) with
    | .error .wait => none
    | .error _ => some []
    | .ok t => some [(t.pa / 2 ^ 16, t.tier)]) (List.range (l.size / 2 ^ 16))

/-- The walks to a leaf's frames that meet poison of host data. -/
def framesMet (s : State) (c : Context) (l : Leaf) : Nat :=
  ((List.range (l.size / 2 ^ 16)).filter (fun i =>
    match walk s s.features (s.mapRoots c.parent) (l.entry.out + i * 2 ^ 16) with
    | .error (.unread _ h) => h
    | _ => false)).length

/-- A leaf that reaches a frame of host memory in some windows is revoked with them. -/
def leafIn (s : State) (c : Context) (r : Revocation) (l : Leaf) : Option (List Leaf) :=
  (framesOf s c l).map (fun fs => if fs.any (fun f =>
    f.2 == 2 && r.v0 ≤ f.1 * 2 ^ 16 - 0x8000000000000 && f.1 * 2 ^ 16 - 0x8000000000000 < r.v0 + r.v1) then [l] else [])

/-- The two parts of a range of addresses in the 55-bit space: in its lower half, and in the sign-extended upper half. -/
def Revocation.ranges (r : Revocation) : List (Nat × Nat) :=
  let half := 2 ^ 54
  let up := 2 ^ 64 - 2 ^ 55
  [(min r.v0 half, min (r.v0 + r.v1) half),
   (max r.v0 (up + half) - up, min (max (r.v0 + r.v1) (up + half)) (2 ^ 64) - up)]

/-- The leaves that a revocation clears (04 R57). -/
def revokedLeaves (s : State) (c : Context) (r : Revocation) : Option (List Leaf) :=
  if r.item = 3 then gatherAll (fun (x : Nat × Nat) => leavesOf s c x.1 x.2) r.ranges
  else if r.item = 4 then (leavesOf s c 0 (2 ^ 55)).bind (gatherAll (leafIn s c r))
  else some []

/-- The accesses of a revocation to a child's tables that meet poison of host data: those that find the leaves, and those
that find their frames (10 R219; log entry 74). -/
def revocationMeets (s : State) (c : Context) (r : Revocation) : Nat :=
  if r.item = 3 then
    (r.ranges.map (fun x => tablesMet s c x.1 x.2)).sum + (((revokedLeaves s c r).getD []).map (framesMet s c)).sum
  else if r.item = 4 then
    tablesMet s c 0 (2 ^ 55) + (((leavesOf s c 0 (2 ^ 55)).getD []).map (framesMet s c)).sum
  else 0

/-- Leaf entries cleared. -/
def clearLeaves (s : State) (ls : List Leaf) : State :=
  ls.foldl (fun s l =>
    s.writeHome .device .posted false ((List.range 8).map (l.pa + ·)) (List.replicate 8 0)) s

/-- Stores of the threads of a set of contexts to a set of frames perform at their homes: every access translated
through an invalidated entry has performed when a shoot-down completes (10 R217), the sends that ended tasks have left
among them. A supervisor thread's stores may be any context's (log entry 25). -/
def settleShot (s : State) (x : Shootdown) : State :=
  let inside (p : Pend) : Bool :=
    match x.frames with
    | none => true
    | some l => l.contains (p.pa / 2 ^ 16)
  let s := settleEvery s (fun k t =>
    if isSupervisor k || (x.lo ≤ t.ctx && t.ctx < x.lo + x.n) then (t.pend.filter inside).map (·.pa) else [])
  s.sendWhere (fun p => inside p.2)

/-- Composed translations of a set of contexts and frames dropped (10 R216). -/
def dropTlb (s : State) (x : Shootdown) : State :=
  { s with tlb := s.tlb.filter (fun e =>
      !(x.lo ≤ e.ctx && e.ctx < x.lo + x.n &&
        (match x.frames with
         | none => true
         | some l => l.contains (e.tr.pa / 2 ^ 16)))) }

/-! ## Shrinking the holdings (04 R57, R58) -/

/-- A carved item taken from a context's children, in ascending ID, until they hold no more than it does. -/
def trimChildren (item q : Nat) : Nat → State → Nat → State
  | 0, s, _ => s
  | n + 1, s, id =>
    (s.children id).foldl (fun s x =>
      let excess := grantedTo s id item q - (s.ctxAt id).budget.amount item q
      let x := s.ctxAt x.id
      let h := x.budget.amount item q
      if excess = 0 || h = 0 then s
      else trimChildren item q n (s.setCtx { x with budget := x.budget.setAmount item q (h - excess) }) x.id) s

/-- A carved item of a context lowered, and the rest taken below it. -/
def lowerItem (s : State) (id item q v : Nat) : State :=
  let s := s.modCtx id (fun c => { c with budget := c.budget.setAmount item q (c.budget.amount item q - v) })
  trimChildren item q 8 s id

/-- Every context of a subtree changed. -/
def State.modSubtree (s : State) (top : Nat) (f : Context → Context) : State :=
  { s with ctxs := s.ctxs.map (fun p => (p.1, if s.inSubtree top p.1 then f p.2 else p.2)) }

/-- A per-core item without some cores. -/
def PerCore.without (p : PerCore) (cores : List Nat) : PerCore :=
  { p with except_ := p.except_.filter (fun x => !(cores.contains x.1)) }

/-- A budget without some cores and what it holds on them (04 R50). -/
def Budget.loseCores (b : Budget) (cores : List Nat) : Budget :=
  { b with cores := cores.foldl clearBit b.cores, threads := b.threads.without cores, spad := b.spad.without cores
           tiles := b.tiles.without cores, iters := b.iters.without cores }

/-- A budget that holds a core of a quad among some. -/
def Budget.holdsOf (b : Budget) (cores : List Nat) (q : Nat) : Bool := cores.any (fun c => c / 4 == q && b.hasCore c)

/-- Some cores are about to be lost by a subtree: the reservations, and the quads offered, of its contexts that hold one
of a quad's (05 R84). -/
def loseReservations (s : State) (top : Nat) (cores : List Nat) : State :=
  let s : State := { s with reserved := s.reserved.filter (fun r =>
    !(s.inSubtree top r.ctx && (s.ctxAt r.ctx).budget.holdsOf cores r.quad)) }
  s.modSubtree top (fun c => { c with launches := c.launches.map (fun l =>
    { l with reserveAt := l.reserveAt.filter (fun q => !(c.budget.holdsOf cores q)) }) })

/-- The holdings of a child after a revocation. One of host windows takes the windows alone: the quotas of the device tiers
stay, whatever frames a cleared 512-MiB leaf reached besides (04 R57; log entry 100). -/
def shrink (s : State) (c : Context) (r : Revocation) : State :=
  match r.item with
  | 1 =>
    let l := r.cores c.budget
    (loseReservations s c.id l).modSubtree c.id (fun x => { x with budget := x.budget.loseCores l })
  | 3 => lowerItem (lowerItem s c.id 3 0 r.cut.1) c.id 3 1 r.cut.2
  | 4 => s.modSubtree c.id (fun x => { x with budget := { x.budget with
      hostwin := cutWindows r.v0 (r.v0 + r.v1) x.budget.hostwin } })
  | 11 => s.modSubtree c.id (fun x =>
      { x with budget := { x.budget with prio := min x.budget.prio r.v0 }
               launches := x.launches.map (fun l => { l with desc := { l.desc with prio := min l.desc.prio r.v0 } }) })
  | 12 => lowerItem s c.id 12 0 (c.budget.slice - r.v0)
  | 13 => s.modSubtree c.id (fun x => { x with budget := { x.budget with keys := x.budget.keys.filter (· != r.v0) } })
  | _ => (c.budget.keysOf r.item r.qual).foldl (fun s q => lowerItem s c.id r.item q r.v0) s

/-- The DONE word, and the notice where it cannot be written (04 R56 step e). None while it must wait. -/
def writeRevDone (s : State) (c : Context) (r : Revocation) : Option State :=
  if r.done = 0 then some s
  else match deviceWrite s .device c.parent s.features r.done 8 8 (leBytes 8 1) with
    | .ok s => some s
    | .error .wait => none
    | .error (.flt f) =>
      some (deviceNotice (s.meets f) c.parent f.cause r.done r.pc (revElem r.item r.qual) r.core 4 f.map)

/-- Steps (d) and (e) of R56. -/
def finishRevocation (s : State) (id : Nat) (r : Revocation) : Option State :=
  let s := shrink s (s.ctxAt id) r
  let s := s.modCtx id (fun c => { c with revs := c.revs.erase r })
  writeRevDone s (s.ctxAt id) r

/-! ## Enforcement (04 R56) -/

/-- The child has given up what is revoked (04 R56 step 2). What its own tasks use of an item counts against its free
amount (log entry 59). Every live launch above the new PRIO keeps it from being given up, one whose crews are all placed
too (log entry 101). -/
def givenUp (s : State) (c : Context) (r : Revocation) : Bool :=
  let sub := s.subtree c.id
  let below := sub.filter (fun x => x.id != c.id)
  match r.item with
  | 1 =>
    let l := r.cores c.budget
    below.all (fun x => l.all (fun k => !(x.budget.hasCore k))) &&
    l.all (fun k => sub.all (fun x => (tasksOn s x.id k).isEmpty))
  | 3 | 4 => false
  | 11 => below.all (fun x => x.budget.prio ≤ r.v0) && c.launches.all (fun l => !l.live || l.desc.prio ≤ r.v0)
  | 12 => below.all (fun x => x.budget.slice ≤ r.v0)
  | 13 => below.all (fun x => !(x.budget.keys.contains r.v0))
  | _ => (c.budget.keysOf r.item r.qual).all (fun q =>
      grantedTo s c.id r.item q + c.reserved r.item q + usedBy s c.id r.item q ≤ c.budget.amount r.item q)

/-- No task of the subtree uses what is revoked, and no crew is partly saved (04 R56 step b). -/
def drained (s : State) (c : Context) (r : Revocation) : Bool :=
  let l := r.cores c.budget
  (s.crews.filter (fun x => s.inSubtree c.id x.ctx)).all (fun x =>
    l.isEmpty || (x.saved.isEmpty && x.live.all (fun p => !(l.contains p.1))))

/-- A revocation of a context changed in place. -/
def modRevocation (s : State) (id : Nat) (r : Revocation) (f : Revocation → Revocation) : State :=
  s.modCtx id (fun c => { c with revs := c.revs.map (fun x => if x = r then f x else x) })

/-- The shoot-down of some leaves and their frames. A frame is counted once for each leaf that reaches it, and a leaf
that the levels above no longer translate counts none (04 R57; log entry 93). -/
def shootLeaves (s : State) (c : Context) (r : Revocation) (ls : List Leaf) (fs : List (Nat × Nat)) : State :=
  let s := clearLeaves s ls
  let cut := ((fs.filter (·.2 == 0)).length, (fs.filter (·.2 == 1)).length)
  let s := modRevocation s c.id r (fun r => { r with phase := 2, cut := cut })
  { s with shoot := s.shoot ++ [{ lo := c.id, n := c.count, frames := some (fs.map (·.1)) }] }

/-- Step (c): the leaves are cleared and their frames' shoot-down begins. None while a table that says which they are is
not ready (23 R347). -/
def startShootdown (s : State) (c : Context) (r : Revocation) : Option State :=
  (revokedLeaves s c r).bind (fun ls => (gatherAll (framesOf s c) ls).map
    (shootLeaves (s.count 0x106 (revocationMeets s c r)) c r ls))

/-- One step of the enforcement of a revocation: its tasks are marked for pre-emption, and once they have drained it is
carried out, or its shoot-down begins. -/
def enforce (s : State) (id : Nat) (r : Revocation) : State :=
  let s1 := if r.phase = 0 then modRevocation s id r (fun r => { r with phase := 1, deadline := s.ns }) else s
  let r1 := if r.phase = 0 then { r with phase := 1, deadline := s.ns } else r
  let c := s1.ctxAt id
  if r1.phase = 2 || !(drained s1 c r1) then s1
  else if r.item = 3 || r.item = 4 then (startShootdown s1 c r1).getD s1
  else (finishRevocation s1 id r1).getD s1

/-- The pending revocation that an event names. -/
def revocationOf (s : State) (ctx n : Nat) : Option Revocation := (s.ctxAt ctx).revs[n]?

/-- REVOCATION_ENFORCE: the child has given up what is revoked, or the enforcement under way goes on. -/
def execRevocationEnforce (ctx n : Nat) (s : State) : Out :=
  match revocationOf s ctx n with
  | none => .fault .noSuchAgent
  | some r => .next (if r.phase ≠ 0 || givenUp s (s.ctxAt ctx) r then enforce s ctx r else s)

/-- REVOCATION_GRACE_EXPIRY: the grace interval has ended. -/
def execRevocationGraceExpiry (ctx n : Nat) (s : State) : Out :=
  match revocationOf s ctx n with
  | none => .fault .noSuchAgent
  | some r => .next (if r.phase = 0 && r.deadline ≤ s.ns then enforce s ctx r else s)

/-- The revocations in their shoot-down. -/
def shootingRevs (s : State) : List (Nat × Revocation) :=
  s.ctxs.flatMap (fun c => (c.2.revs.filter (fun r => r.phase == 2)).map (fun r => (c.1, r)))

/-- SHOOT_DOWN_COMPLETE: every shoot-down in progress completes, and the revocations that waited for it. -/
def execShootDownComplete (s : State) : Out :=
  let t := s.shoot.foldl (fun s x => dropTlb (settleShot s x) x) { s with shoot := [] }
  match (shootingRevs s).foldl (fun t r => t.bind (fun t => finishRevocation t r.1 r.2)) (some t) with
  | some t => .next t
  | none => .next s

/-! ## Destroying a context (04 R62; 02 R21) -/

/-- The lowest crew placed and not completed, or the first not placed (02 R21). -/
def firstUnfinished (l : Launch) (running : List Crew) : Nat :=
  (running.map (·.index) ++ l.saved.map (·.index)).foldl min l.nextCrew

/-- A slice end's or a stop's crews have ended, and the position is still to be written. -/
def Launch.drained (l : Launch) (running : List Crew) : Bool :=
  (l.mode == .draining || l.mode == .stopping) && running.isEmpty

/-- What a slice end or a stop whose crews have ended counts of its save, which is made with that of the destruction. -/
def Launch.countDrained (l : Launch) (drained : Bool) : Launch := if drained then l.counted else l

/-- A live launch with a crew that has not completed ended by the destruction of its context: its crews, partly saved,
running and saved ones, are discarded, and a forced pre-emption that has not saved all of its crews by then saves them no
more. None while its record's memory must wait. -/
def endLaunch (s : State) (ctx : Nat) (l : Launch) : Option State :=
  let next := firstUnfinished l (s.crewsOf ctx l.handle)
  let drained := l.drained (s.crewsOf ctx l.handle)
  let mine (t : Thread) : Bool :=
    match t.task with
    | some k => k.ctx == ctx && k.handle == l.handle
    | none => false
  let abortAll (l : List Thread) (s : State) : State :=
    l.foldl (fun s t => abortSaved s t (fun u => u.alias_ == t.alias_ && mine u)) s
  let s := s.modLaunch ctx l.handle (fun l => { l with saving := [] })
  let s := abortAll ((s.crewsOf ctx l.handle).flatMap Crew.saved) s
  let s := (s.threads.filter (fun p => mine p.2)).foldl (fun s p => abortThread s p.1 0) s
  let s := abortAll ((((s.launch ctx l.handle).map Launch.saved).getD []).flatMap SavedCrew.threads) s
  if l.placed = 0 then some s else saveLaunch s ctx (l.countDrained drained) next

/-- Every revocation of a context that is being destroyed, forced. -/
def forceRevocations (s : State) (c : Context) : Option State :=
  c.revs.foldl (fun s r => s.bind (fun s => finishRevocation s c.id r)) (some s)

/-- What a destroyed context leaves in the cores: entries of its handlers, its faults, and handlers that run in it
(log entry 42). -/
def clearCores (s : State) (id : Nat) : State :=
  let dead := (s.held.filter (fun h => h.entry.record.ctx == id)).map (·.token)
  let s : State := { s with
    held := s.held.filter (fun h => h.entry.record.ctx != id)
    cores := s.cores.map (fun p => (p.1, { p.2 with
      pending := p.2.pending.filter (fun e => e.owner != id), blocked := p.2.blocked.filter (fun e => e.owner != id)
      stack := p.2.stack.filter (fun h => h.thread.ctx != id && !(dead.contains h.token)) })) }
  (s.threads.filter (fun p => isSupervisor p.1 && p.2.ctx == id)).foldl (fun s p =>
    nextHandler (s.modThread p.1 (fun t => { t with status := .eretWait, h := HRegs.reset, ctx := 0 })) (coreOfKey p.1)) s

/-- A context with nothing left in it goes: its interval is free, and a placement unit in its turn begins the next one's
(05 R83). -/
def freeContext (s : State) (id : Nat) : State :=
  { s with
    ctxs := Map.del id s.ctxs
    reserved := s.reserved.filter (fun r => r.ctx != id)
    active := s.active.map (fun p => (p.1, p.2.filter (fun x => x.1 != id)))
    turns := s.turns.filter (fun die => ((Map.getD die [] s.active).head?.map (·.1)) != some id) }

/-- One context destroyed: its launches end, its map's leaves are cleared and its composed translations dropped, its
revocations are carried out, each DONE word last (04 R56, R62), and its interval is free. -/
def destroyOne (s : State) (id : Nat) : Option State :=
  let c := s.ctxAt id
  match (c.launches.filter Launch.live).foldl (fun s l => s.bind (fun s => endLaunch s id l)) (some s) with
  | none => none
  | some s =>
    (leavesOf s c 0 (2 ^ 55)).bind (fun ls =>
      let s := clearLeaves (s.count 0x106 (tablesMet s c 0 (2 ^ 55))) ls
      let x : Shootdown := { lo := id, n := c.count, frames := none }
      (forceRevocations (dropTlb (settleShot s x) x) c).map (fun s => freeContext (clearCores s id) id))

/-- A subtree, deepest first. -/
def deepestFirst (s : State) (id : Nat) : List Nat :=
  (List.range 8).reverse.flatMap (fun d => ((s.subtree id).filter (fun c => c.depth == d)).map (·.id))

/-- A launch that is complete, or whose mirror Swap is in flight: its completion takes its course (22 R337, R338). -/
def Launch.completing (s : State) (ctx : Nat) (l : Launch) : Bool := !l.live || l.allEnded (s.crewsOf ctx l.handle)

/-- CONTEXT_DESTRUCTION: a context that is DESTROYING goes, with its subtree, once the launches that are complete have
taken the steps of their completion. -/
def execContextDestruction (ctx : Nat) (s : State) : Out :=
  if !(s.live ctx) || ctx = 0 then .fault .noSuchAgent
  else if (s.ctxAt ctx).state ≠ 5 || (s.subtree ctx).any (fun c => c.launches.any (Launch.completing s c.id)) then .next s
  else match (deepestFirst s ctx).foldl (fun s id => s.bind (fun s => destroyOne s id)) (some s) with
    | some t => .next t
    | none => .next s

/-! ## The hang watchdog (19 R323) -/

/-- The cores of a crew's tasks, those that are saved already among them. -/
def Crew.cores (c : Crew) : List Nat := c.live.map (·.1) ++ c.saved.map (fun t => coreOfKey (t.alias_ % 2048))

/-- The enforcements under way that pre-empt a crew, each by the TIME at which it began. -/
def enforcedSince (s : State) (c : Crew) : List Nat :=
  (s.path c.ctx).flatMap (fun id =>
    ((s.ctxAt id).revs.filter (fun r => r.phase != 0 &&
      (r.cores (s.ctxAt id).budget).any c.cores.contains)).map (·.deadline))

/-- TIME from which a task's drain counts: the earliest of its launch's drain and of the enforcements that pre-empt its
crew. -/
def drainStart (s : State) (key : Nat) (k : Task) : Option Nat :=
  let forced :=
    if targeted s key then (s.crews.filter (fun c => c.id == k.crewId)).flatMap (enforcedSince s) else []
  match ((s.launch k.ctx k.handle).bind (·.drainFrom)).toList ++ forced with
  | [] => none
  | x :: r => some (r.foldl min x)

/-- HANG_WATCHDOG: a task that has not ended within 4 × SLICE µs gets a hang record; it keeps running. -/
def execHangWatchdog (core slot : Nat) (s : State) : Out :=
  let key := threadKey core slot
  let t := s.thread key
  match t.task with
  | none => .fault .noSuchAgent
  | some k =>
    let watched := s.held.any (fun h => match h.by_ with
      | .hang c w n i => t.isTask c w n i
      | _ => false)
    match drainStart s key k with
    | none => .next s
    | some from_ =>
      if watched || s.ns < max from_ k.hangFrom + 4000 * (s.ctxAt k.ctx).budget.slice then .next s
      else
        let o := ownerOf s k.ctx 0x22 none
        let n := nextToken s core slot 0 0
        let r : Record :=
          { cause := 0x22, kind := 1, level := (s.ctxAt o.1).depth, deleg := false, pcres := false, misslvl := 0,
            nested := false, ctx := k.ctx, core := core, thread := slot, token := n.1, va := Config.openWord s.fresh,
            pc := t.curPc, elem := 0, cmd := 0, sect := 0, chunk := 0, hints := [], orig := (0, 0) }
        let e : Entry := { record := r, resume := t.curPc, mstep := 0 }
        let s := s.modCore core (fun c => { c with seq := n.2 })
        let s := { s with held := { token := n.1, entry := e, by_ := .hang k.ctx k.handle k.crew k.k } :: s.held }
        .next (s.post core o.1 e).bump

end Sys2Proof.Machine
end

