-- ==== Sys2Proof/Machine/System.lean ====
section
/-! DEFINITION. Calls, eret, releases, translation maintenance, islands, features, counters and the freeze
(05 R71 to R76; 19 R316 to R319, R324, R325, R328; 23 R348, R349, R351). -/

namespace Sys2Proof.Machine

/-! ## svc, upcall and ebreak (19 R316) -/

def execSvc (n : BitVec 18) (s : State) : Out := .next (serviceCall s 0x30 n.toNat)

/-- `upcall` has the effect of `phase.p` first (25 R366). -/
def execUpcall (n : BitVec 18) (s : State) : Out :=
  afterMarkers s fun _ => .next (serviceCall (s.phase s.cur 2) 0x31 n.toNat)

def execEbreak (n : BitVec 18) (s : State) : Out := .next (serviceCall s 0x32 n.toNat)

/-! ## eret (19 R317) -/

/-- The threads that a held fault concerns. -/
def HeldBy.concerns (b : HeldBy) (token : Nat) (t : Thread) : Bool :=
  match b with
  | .user => t.status == .trapped token
  | .supervisor => false
  | .engine serial _ => t.cmds.any (fun c => c.serial == serial)
  | .hang ctx handle crew k => t.isTask ctx handle crew k

/-- A suspended handler abandoned: the record it served is delivered again. -/
def abandonHandler (s : State) (core token : Nat) : State :=
  let c := s.coreAt core
  let s : State := { s with held := s.held.filter (fun h => h.token != token) }
  match c.stack.find? (fun h => h.token == token) with
  | none => s
  | some h =>
    redeliver (s.setCore core { c with stack := c.stack.filter (fun h => h.token != token) }) core h.thread.h.served.toList

/-- A release by `eret`, as `frel` makes one: the effect of `phase.p` on the executing thread first (25, 19 R318). -/
def releaseServed (s : State) (h : HRegs) (f : Held) : State := releaseHeld (s.phase s.cur 2) f h.epc h.mstep

/-- What an `eret` does with the held fault of the record that its handler served. -/
def settleServed (s : State) (core : Nat) (h : HRegs) (e : Entry) (f : Held) : State :=
  match f.by_ with
  | .supervisor =>
    if h.remove && (s.coreAt core).stack.any (fun x => x.token == f.token) then abandonHandler s core f.token
    else releaseServed s h f
  | b =>
    if h.remove then
      let s := removeTask s (b.concerns f.token) e.record.cause e.record.pc
      { s with held := s.held.filter (fun x => x.token != f.token) }
    else if h.keep then s
    else releaseServed s h f

def execEret (s : State) : Out :=
  supOnly s fun _ =>
    match s.me.h.served with
    | none => instrFault s 0x10
    | some e =>
      let core := coreOfKey s.cur
      let h := s.me.h
      let s := s.tally (fun c => { c with retired := (c.retired + 1) % 2 ^ 64 })
      let s := match s.held.find? (fun f => f.token == e.record.token) with
        | none => s
        | some f => settleServed s core h e f
      .next (nextHandler s core)

/-! ## frel and fdele (19 R318, R319) -/

/-- A token that no fault could have (19 R318). -/
def badToken (x : Nat) : Bool :=
  let t := bitsAt x 37 3
  t == 5 || t == 6 || (t != 7 && (bitsAt x 48 16 != 0 || bitsAt x 30 7 != 0))

/-- The EPC and MSTEP with which an executing handler releases a fault. -/
def releasePoint (h : HRegs) (f : Held) : Word × Nat :=
  match h.served with
  | some e => if e.record.token = f.token then (h.epc, h.mstep) else (f.entry.resume, f.entry.mstep)
  | none => (f.entry.resume, f.entry.mstep)

/-- A supervisor thread that waits at an `eret` looks again. -/
def wakeEret (s : State) (core : Nat) : State :=
  if (s.thread (threadKey core 4)).status = .eretWait then nextHandler s core else s

def execFrel (a : BitVec 7) (s : State) : Out :=
  supOnly s fun _ =>
    let x := (s.rd a).toNat
    if badToken x then instrFault s 0x13
    else match s.held.find? (fun f => f.token == x) with
      | none => .next (s.phase s.cur 2).retire
      | some f =>
        if !(s.inSubtree s.me.ctx f.entry.record.ctx) || f.entry.record.level < (s.ctxAt s.me.ctx).depth then
          instrFault s 0x11
        else
          let p := releasePoint s.me.h f
          let s := (s.phase s.cur 2).retire
          .next (wakeEret (releaseHeld s f p.1 p.2) (bitsAt x 40 8))

/-- A bad mask is refused after the thread's privilege and before the child's identity and rights, for 03 R41 does not list
where its check stands (19 R319; log entry 94). -/
def execFdele (a b : BitVec 7) (s : State) : Out :=
  supOnly s fun _ =>
    if badDeleg (s.rd b).toNat then instrFault s 0x10
    else withChild s (s.rd a) fun c => .next (s.setCtx { c with deleg := s.rd b }).retire

/-! ## tlbinv, tlbinvc and pgmig (19 R324, R325) -/

/-- Composed translations that may have used a map's entry for a page: those of the context in the page's 512-MiB part,
and those of its descendants. -/
def dropPage (s : State) (c : Context) (va : Word) : State :=
  { s with tlb := s.tlb.filter (fun e =>
      !(c.id < e.ctx && e.ctx < c.id + c.count) && !(e.ctx == c.id && e.vpn / 8192 == vpnOf va / 8192)) }

/-- The shoot-down of every translation of a child's interval. -/
def childShoot (c : Context) : Shootdown := { lo := c.id, n := c.count, frames := none }

def execTlbinv (d a b : BitVec 7) (s : State) : Out :=
  supOnly s fun _ => withChild s (s.rd a) fun c =>
    (dropPage (settleShot (s.phase s.cur 2) (childShoot c)) c (s.rd b)).finish d 0

def execTlbinvc (d a : BitVec 7) (s : State) : Out :=
  supOnly s fun _ => withChild s (s.rd a) fun c =>
    (dropTlb (settleShot (s.phase s.cur 2) (childShoot c)) (childShoot c)).finish d 0

/-- The leaf of one map for an address: the home of its entry, the entry, and the leaf's size. -/
def findLeaf (s : State) (features level root a : Nat) (up : Nat → Except Miss Trans) : Option (Nat × MapEntry × Nat) :=
  match up (root + 8 * bitsAt a 42 13) with
  | .error _ => none
  | .ok t0 =>
    let e0 := MapEntry.ofNat (s.home8 t0.pa)
    if !e0.v || e0.malformed level 0 features then none
    else match up (e0.out + 8 * bitsAt a 29 13) with
      | .error _ => none
      | .ok t1 =>
        let e1 := MapEntry.ofNat (s.home8 t1.pa)
        if !e1.v || e1.malformed level 1 features then none
        else if !e1.t then some (t1.pa, e1, 2 ^ 29)
        else match up (e1.out + 8 * bitsAt a 16 13) with
          | .error _ => none
          | .ok t2 =>
            let e2 := MapEntry.ofNat (s.home8 t2.pa)
            if !e2.v || e2.malformed level 2 features then none else some (t2.pa, e2, 2 ^ 16)

/-- The level-0 leaf behind an address of a context. -/
def leafAt0 (s : State) (features : Nat) : List Nat → Nat → Option (Nat × MapEntry × Nat)
  | [], _ => none
  | root :: rest, a =>
    match findLeaf s features rest.length root (a % 2 ^ 55) (walk s features rest) with
    | none => none
    | some (pa, e, size) => if rest.isEmpty then some (pa, e, size) else leafAt0 s features rest (e.out + a % size)

/-- A page of a migration: its translation, and the home of its 64-KiB level-0 leaf, where it has one. A walk that meets
poison or a link error in a table finds none (log entry 107). -/
def migPage (s : State) (va : Word) : Except Unit (Option (Trans × Nat)) :=
  let va := va &&& ~~~0xFFFF#64
  match freshTrans s s.me.ctx s.features va with
  | .error .wait => .error ()
  | .error _ => .ok none
  | .ok t =>
    match leafAt0 s s.features (s.mapRoots s.me.ctx) (va55 va) with
    | some (pa, _, size) => .ok (if size = 2 ^ 16 then some (t, pa) else none)
    | none => .ok none

/-- OUT and TIER of one leaf entry put into another (10 R201). -/
def takeOut (x y : Nat) : Nat := x % 2 ^ 7 + bitsAt y 7 2 * 2 ^ 7 + bitsAt x 9 16 * 2 ^ 9 + y / 2 ^ 25 * 2 ^ 25

/-- An address in a frame. -/
def inFrame (f pa : Nat) : Bool := pa / 2 ^ 16 == f

/-- Whether a line is poisoned in some L1 of the package. -/
def State.l1PoisonedAnywhere (s : State) (line : Nat) : Bool := s.cores.any (fun c => c.2.l1Poison.contains line)

/-- Whether some byte of line `l` of a frame meets a condition. -/
def anyOfLine (a l : Nat) (f : Nat → Bool) : Bool := (List.range 128).any (fun i => f (a * 2 ^ 16 + 128 * l + i))

/-- The lines of frame `b` that take poison from frame `a`: those of which a byte reads poisoned at its home there, and
those poisoned in an L1 (10 R210, R219; 23 R347; log entry 80). -/
def poisonMoved (s : State) (a b : Nat) : List Nat :=
  ((List.range 512).filter (fun l =>
    s.l1PoisonedAnywhere (a * 2 ^ 16 + 128 * l) ||
    anyOfLine a l s.poisonHome)).map (fun l => b * 2 ^ 16 + 128 * l)

/-- The poison of host data that a page's walk meets, counted (10 R219; log entry 74). -/
def meetsPage (s : State) (va : Word) : State :=
  match freshTrans s s.me.ctx s.features (va &&& ~~~0xFFFF#64) with
  | .error (.unread c h) => s.meets { cause := c, va := some va, map := none, host := h }
  | _ => s

/-- The poison that a copy of frame `a` meets in host data, counted for each line, and the lines that it newly poisons,
which no line of `a` was at its home or in an L1 before (10 R219; log entry 74). -/
def countMoved (s : State) (a : Nat) : State :=
  let new := (List.range 512).filter (fun l => !(s.l1PoisonedAnywhere (a * 2 ^ 16 + 128 * l)) &&
    !(anyOfLine a l s.poisonedAt) && anyOfLine a l s.poisonHome)
  (s.count 0x106 ((List.range 512).filter (fun l => anyOfLine a l s.hostPoisoned)).length).count 0x102 new.length

/-- A core's L1 without what it holds of a frame's lines. -/
def Core.withoutFrame (c : Core) (f : Nat) : Core :=
  { c with l1Poison := c.l1Poison.filter (fun l => !(inFrame f l))
           l1Fills := c.l1Fills.filter (fun p => !(inFrame f (p.1 * 128))) }

/-- The contents, the store history and the poison of frame `a` copied to frame `b`. The copies of lines of `b` in the L1s
and in the host's own caches go (log entry 80). -/
def copyFrame (s : State) (a b : Nat) : State :=
  let move (pa : Nat) : Nat := b * 2 ^ 16 + pa % 2 ^ 16
  { s with
    mem := (List.range (2 ^ 16)).foldl (fun m i => cellSet resetByte m (b * 2 ^ 16 + i) (s.home (a * 2 ^ 16 + i))) s.mem
    hist := (s.hist.filter (fun e => !(inFrame b e.pa))).flatMap (fun e =>
      if inFrame a e.pa then [e, { e with pa := move e.pa }] else [e])
    poison := s.poison.filter (fun p => !(inFrame b p)) ++ poisonMoved s a b
    snoop := s.snoop.filter (fun l => !(inFrame b (l.1 * 64)))
    cores := s.cores.map (fun c => (c.1, c.2.withoutFrame b))
    rings := s.rings.map (fun r => if inFrame a r.pa then { r with pa := move r.pa } else r) }

/-- Pending bytes of frame `a`, which the copy has taken with it, stay pending at frame `b`; those of `b` have performed
before the copy (10 R210). -/
def readdress (s : State) (a b : Nat) : State :=
  mapThreads s (fun t => { t with pend := t.pend.filterMap (fun p =>
    if inFrame b p.pa then none
    else if inFrame a p.pa then some { p with pa := b * 2 ^ 16 + p.pa % 2 ^ 16 } else some p) })

/-- The migration itself: every store to either frame performs, wherever its thread runs or is saved; the copy; the
exchange of the leaves; and the shoot-down of both frames. -/
def migrate (s : State) (a b ea eb : Nat) : State :=
  let s := settleFrames s [a, b]
  let s := readdress (copyFrame (countMoved s a) a b) a b
  let x := s.home8 ea
  let y := s.home8 eb
  let entry (pa v : Nat) (s : State) : State :=
    s.writeHome .device .posted false ((List.range 8).map (pa + ·)) (leBytes 8 v)
  let s := entry eb (takeOut y x) (entry ea (takeOut x y) s)
  { s with tlb := s.tlb.filter (fun e => !(inFrame a e.tr.pa || inFrame b e.tr.pa)) }

/-- The status of a migration, with what it moves when it is 0 (19 R325). -/
def migStatus (p q : Option (Trans × Nat)) : Nat × Option (Nat × Nat × Nat × Nat) :=
  match p with
  | none => (1, none)
  | some (t, ea) =>
    if t.rDeny.isSome || t.tier = 3 then (1, none)
    else match q with
      | none => (2, none)
      | some (u, eb) =>
        if u.rDeny.isSome || u.wDeny.isSome || 2 ≤ u.tier then (2, none)
        else if t.pa / 2 ^ 16 = u.pa / 2 ^ 16 then (3, none)
        else (0, some (t.pa / 2 ^ 16, u.pa / 2 ^ 16, ea, eb))

def execPgmig (d a b : BitVec 7) (s : State) : Out :=
  supOnly s fun _ =>
    let s' := s.phase s.cur 2
    match migPage s' (s.rd a), migPage s' (s.rd b) with
    | .ok p, .ok q =>
      let s' := meetsPage (meetsPage s' (s.rd a)) (s.rd b)
      let r := migStatus p q
      match r.2 with
      | none => s'.finish d (w64 r.1)
      | some (fa, fb, ea, eb) =>
        if s.waitsAt (fa * 2 ^ 16) || s.waitsAt (fb * 2 ^ 16) then .next s
        else (migrate s' fa fb ea eb).finish d 0
    | _, _ => .next s

/-! ## Islands (05 R71 to R76) -/

/-- Whether a context holds a quad whole. -/
def ownsQuad (s : State) (ctx q : Nat) : Bool := (quadCores q).all (s.ctxAt ctx).budget.hasCore

/-- An isl instruction: who may name the island, and which islands its form refuses (05 R73). -/
def withIsland (s : State) (a : BitVec 7) (refuses : Nat → Bool) (k : Nat → Out) : Out :=
  let n := (s.rd a).toNat
  let own := s.sup && (s.ctxAt s.me.ctx).isol
  if !s.rootSup && !own then instrFault s 0x11
  else if 89 < n then instrFault s 0x13
  else if !s.rootSup && !(n < 64 && ownsQuad s s.me.ctx n) then instrFault s 0x11
  else if refuses n then instrFault s 0x13
  else k n

/-- A supervisor thread at the start of the root's resident code (23 R346 step 6). -/
def startResident (s : State) (core : Nat) : State :=
  s.setThread (threadKey core 4) { Thread.reset with pc := 0x20000, regs := [(1, w64 s.mgmt.imglen)], status := .ready }

/-- A quad's cores at reset: scratchpads zeroed, nothing pending, and resident code at its start (05 R75; log entry
33). -/
def resetQuad (s : State) (q : Nat) : State :=
  let gone (pa : Nat) : Bool := isSpad pa && (pa - 2 ^ 60) / 2 ^ 25 == q
  let s : State := { s with
    mem := s.mem.filter (fun c => !(gone c.1)), hist := s.hist.filter (fun e => !(gone e.pa))
    poison := s.poison.filter (fun p => !(gone p)) }
  let s := (quadCores q).foldl (fun s c => s.setCore c Core.reset) s
  if s.mgmt.started then (quadCores q).foldl startResident s else s

/-- An island comes on at the frequency it had when it went off (log entry 95). -/
def execIslon (a : BitVec 7) (s : State) : Out :=
  withIsland s a (80 ≤ ·) fun n =>
    let i := s.island n
    if i.on then .next s.retire
    else
      let s := s.setIsland n { i with on := true, base := 0, since := s.ns }
      .next (if n < 64 then resetQuad s n else s).retire

/-- `isloff` waits, not retired, until the quad's tasks are saved. -/
def execIsloff (a : BitVec 7) (s : State) : Out :=
  withIsland s a (fun n => 80 ≤ n || n == coreOfKey s.cur / 4) fun n =>
    let i := s.island n
    let off (s : State) : State := s.setIsland n { s.settleIsland n with on := false, draining := false }
    if !i.on then .next s.retire
    else if 64 ≤ n then .next (off s).retire
    else if quadBusy s n || s.crews.any (fun c => c.quad == n) then .next (s.setIsland n { i with draining := true })
    else
      let s := off (flushQuad s n)
      .next ((quadKeys n).foldl (fun s k => s.setThread k Thread.reset) s).retire

def execIslfreq (a b : BitVec 7) (s : State) : Out :=
  withIsland s a (fun n => (64 ≤ n && n < 80) || 88 ≤ n) fun n =>
    .next (s.setIsland n { s.settleIsland n with mhz := max 600 (min 2400 ((s.rd b).toNat / 100 * 100)) }).retire

/-! ## The feature word (23 R348, R349) -/

/-- The offered word: DEP and REV1, PEER while some port is ready, which a failed one is not (23 R347), TIER2 while the
second tier is. -/
def offered (m : Mgmt) : Nat :=
  3 + 4 * b2n ((List.range 16).any (fun n => bitAt m.ready (25 + n) && !(bitAt m.failed (25 + n)))) + 8 * b2n (bitAt m.ready 41)

/-- A half of a 128-bit word. -/
def half (x h : Nat) : Nat := bitsAt x (64 * h) 64

/-- The accepted word with one half written. -/
def Mgmt.accept (m : Mgmt) (h : Nat) (v : Nat) : Mgmt :=
  let new := Nat.land v (half (offered m) h)
  { m with accepted := if h = 0 then new + half m.accepted 1 * 2 ^ 64 else half m.accepted 0 + new * 2 ^ 64 }

def execFeatq (d a : BitVec 7) (s : State) : Out :=
  rootOnly s fun _ =>
    let n := (s.rd a).toNat
    if 3 < n then instrFault s 0x13
    else s.finish d (w64 (half (if n < 2 then offered s.mgmt else s.mgmt.accepted) (n % 2)))

def execFeatset (a b : BitVec 7) (s : State) : Out :=
  rootOnly s fun _ =>
    let n := (s.rd a).toNat
    if 1 < n then instrFault s 0x13
    else
      let v := (s.rd b).toNat
      let s := s.phase s.cur 2
      .next { s with mgmt := s.mgmt.accept n v }.retire

/-! ## Counters (23 R351) -/

/-- A thread counter. -/
def Counters.get (c : Counters) : Nat → Nat
  | 0 => c.retired
  | 1 => c.elems
  | 2 => c.trims
  | 3 => c.traps
  | 4 => c.stalls
  | 5 => c.bytesRead
  | 6 => c.bytesWritten
  | _ => c.examined

/-- A package counter's number. -/
def isPackageCounter (n : Nat) : Bool := 0x100 ≤ n && n ≤ 0x107

/-- The stall cycles counted since the last read: free (log entry 18). -/
def stallTally (s : State) : State :=
  (s.tally (fun c => { c with stalls := (c.stalls + Config.stallCycles s.fresh) % 2 ^ 64 })).bump

/-- What older instructions have finished once a thread counter is read (07 R133; 23 R351): every one of them may retire,
complete elements or stall the thread; those that trim count trims, those that may stop at an element count traps; a matrix
form may count bytes; none that raises flags examines. -/
def counterWait (n : Nat) (s : State) : State :=
  if n = 2 then s.settled [.length]
  else if n = 3 then s.settled [.steps]
  else if n = 5 || n = 6 then s.settled [.counter n]
  else if n = 7 then s
  else s.flagsSettled

/-- A barrier marker that has not fired may trap, which a read of the traps waits for. -/
def execCntrd (d a : BitVec 7) (s : State) : Out :=
  let n := (s.rd a).toNat
  if n < 8 then
    if n = 3 && !s.me.markers.isEmpty then .next s
    else
      let s := counterWait n (if n = 4 then stallTally s else s)
      s.finish d (w64 (s.me.cnt.get n))
  else if isPackageCounter n then rootOnly s fun _ => s.finish d (w64 (Map.getD n 0 s.counters))
  else instrFault s 0x13

def execCntset (a b : BitVec 7) (s : State) : Out :=
  rootOnly s fun _ =>
    let n := (s.rd a).toNat
    if isPackageCounter n then .next { s with counters := Map.put n (s.rd b).toNat s.counters }.retire
    else instrFault s 0x13

/-! ## freeze (19 R328) -/

def execFreeze (s : State) : Out := rootOnly s fun _ => .next { s.retire with frozen := true }

end Sys2Proof.Machine
end

