-- ==== Sys2Proof/Machine/Events.lean ====
section
/-! DEFINITION. Steps of agents other than an issuing thread: deliveries, wake-ups, walks, bandwidth, errors, the host, peers,
bring-up and debug (05 R88 to R92; 06 R118; 10 R214, R219, R221; 17 R300, R301; 19 R315, R328; 23 R341 to R352).

An event whose condition does not hold leaves the state as it is. -/

namespace Sys2Proof.Machine

/-- A user thread or a supervisor thread that exists. -/
def isThread (core slot : Nat) : Bool := core < 256 && slot < 5

/-- An event of a thread. -/
def atThread (core slot : Nat) (k : Nat → Out) : Out :=
  if isThread core slot then k (threadKey core slot) else .fault .noSuchAgent

/-- An event of a core. -/
def atCore (core : Nat) (k : Unit → Out) : Out := if core < 256 then k () else .fault .noSuchAgent

/-- A meaning run with another thread as the executing one, which issues no word. -/
def runAs (s : State) (key : Nat) (f : State → Out) : Out :=
  match f { s with cur := key, word := 0 } with
  | .next t => .next { t with cur := s.cur, word := s.word }
  | o => o

/-! ## Records and handlers (19 R315) -/

/-- The oldest record of a core that waits, without it. -/
def dropBlocked (s : State) (core : Nat) : State := s.modCore core (fun c => { c with blocked := c.blocked.drop 1 })

/-- The oldest record that waits is written and delivered, when it can be: one that stands in its queue waits for room
alone, the machine check of a ninth handler for its queue's memory alone (19 R315; 23 R347). -/
def unblock (s : State) (core : Nat) : State :=
  match (s.coreAt core).blocked with
  | [] => s
  | e :: _ =>
    if e.written then
      if (s.coreAt core).pending.length < 256 then (dropBlocked s core).deliver core { e with written := false } else s
    else if e.first then
      match writeRecord s e.record (s.path 0) with
      | none => s
      | some w => (dropBlocked w.2 core).modCore core (fun c => c.putFirst { e with record := w.1 })
    else (postNow (dropBlocked s core) core e.owner e).getD s

def execRecordDelivery (core : Nat) (s : State) : Out := atCore core fun _ => .next (unblock s core)

/-- A supervisor thread that no handler occupies enters its next entry. -/
def enterNext (s : State) (core : Nat) : State :=
  let t := s.thread (threadKey core 4)
  if t.status = .off || t.h.served.isSome then s
  else if t.status = .eretWait then nextHandler s core
  else match nextEntry s core with
    | none => s
    | some e => enterHandler s core e

def execHandlerEntry (core : Nat) (s : State) : Out := atCore core fun _ => .next (enterNext s core)

/-! ## Wake-ups (05 R88; 06 R118; 11 R240; 17 R300, R301) -/

def execBarrierMarkerFire (core slot : Nat) (s : State) : Out :=
  atThread core slot fun key => .next (if (s.thread key).markersDue then fireMarker s key else s)

/-- A waiting thread looks at its condition again. -/
def repoll (s : State) (key : Nat) : Out :=
  match (s.thread key).status with
  | .waiting kind addr val scope => runAs s key (fun s => tryWait s kind addr val scope)
  | _ => .next s

def execWaitComplete (core slot : Nat) (s : State) : Out := atThread core slot (repoll s)

/-- A thread that waits for ring slots looks again. -/
def retryRing (s : State) (key : Nat) : Out :=
  match (s.thread key).status with
  | .ringWait write addr count dest => runAs s key (fun s => tryRing s write addr count dest)
  | _ => .next s

def execRingAcquireComplete (core slot : Nat) (s : State) : Out := atThread core slot (retryRing s)

/-- A thread made ready. -/
def wake (s : State) (key : Nat) : State := s.modThread key (fun t => { t with status := .ready })

/-- A thread that waits for lane groups issues its `setvl` or opens its strip again. -/
def wakeLanes (s : State) (key : Nat) : State :=
  if (s.thread key).status = .laneWait && !(freeGroups s (coreOfKey key)).isEmpty then wake s key else s

def execLaneGrantWake (core slot : Nat) (s : State) : Out := atThread core slot fun key => .next (wakeLanes s key)

def endPause (s : State) (key : Nat) : State :=
  match (s.thread key).status with
  | .pause u => if u ≤ s.cycle (coreOfKey key) then wake s key else s
  | _ => s

def execPauseExpiry (core slot : Nat) (s : State) : Out := atThread core slot fun key => .next (endPause s key)

/-- The awaited threads that are ready still: one that has stopped being ready is awaited no longer. -/
def stillAwaited (s : State) (core : Nat) (others : List Nat) : List Nat :=
  others.filter (fun k => (s.thread (threadKey core k)).status == .ready)

def endYield (s : State) (key : Nat) : State :=
  match (s.thread key).status with
  | .yield u others =>
    let left := stillAwaited s (coreOfKey key) others
    if left.isEmpty || u ≤ s.cycle (coreOfKey key) then wake s key
    else s.modThread key (fun t => { t with status := .yield u left })
  | _ => s

def execYieldRelease (core slot : Nat) (s : State) : Out := atThread core slot fun key => .next (endYield s key)

/-! ## Walks (10 R213, R214) -/

/-- A completed walk's translation is cached, beside those of older entries that no invalidation has dropped (10
R215); a walk that met a missing or malformed level caches nothing. -/
def execTableWalkComplete (ctx : Nat) (va : Word) (s : State) : Out :=
  if !(s.live ctx) then .fault .noSuchAgent
  else match freshTrans s ctx s.features va with
    | .error _ => .next s
    | .ok t =>
      let e : TlbEntry := { ctx := ctx, vpn := vpnOf va, tr := { t with pa := t.pa - t.pa % 2 ^ 16 } }
      .next { s with tlb := e :: s.tlb.filter (· != e) }

/-! ## Bandwidth (05 R91, R92) -/

/-- Whether a controller that publishes an occupancy flags a class of a weight. -/
def flagsClass (weight total own : Nat) : Bool := 512 ≤ total && weight * total < own * 1024

/-- The shares of a class along a path, without the root, as numerators over 1,024. -/
def shares (s : State) (ctx cls : Nat) : List Nat :=
  ((s.path ctx).filter (· != 0)).map (fun c => (s.ctxAt c).budget.bw.get cls)

/-- The allowance at a level of λ. -/
def allowanceOf (level : Nat) (sh : List Nat) : Option Nat :=
  if level = 0 then none else some (max 1 (256 / 2 ^ level * sh.foldl (· * ·) 1 / 1024 ^ sh.length))

/-- A throttle after a publication: the controllers that published, and those of them that flag. Whether any flags is
asked of the controllers of this publication alone (05 R92; log entry 77). -/
def Throttle.publish (t : Throttle) (from_ flagged : List Nat) (sh : List Nat) : Throttle :=
  let level := if flagged.isEmpty then t.level - 1 else min (t.level + 1) 7
  { level := level, flags := t.flags.filter (fun c => !(from_.contains c)) ++ flagged, allowance := allowanceOf level sh }

def execBwPublication (issuer ctx cls : Nat) (occ : List (Nat × Nat × Nat)) (s : State) : Out :=
  if !(s.live ctx) || 64 ≤ cls || occ.any (fun o => 30 ≤ o.1) then .fault .noSuchAgent
  else
    let weight := Map.getD cls 16 s.bwWeights
    let flagged := (occ.filter (fun o => flagsClass weight o.2.1 o.2.2)).map (·.1)
    let key := issuer * 64 + cls
    let t := (Map.getD key Throttle.reset s.throttles).publish (occ.map (·.1)) flagged (shares s ctx cls)
    .next { s with throttles := Map.put key t s.throttles }

/-! ## Errors (10 R219 to R221; 23 R351) -/

/-- A lane of a core retired, and counted once (10 R221). -/
def retireLane (s : State) (core lane : Nat) : State :=
  let mask := Map.getD (lane / 16) 0 (s.coreAt core).retired
  if bitAt mask (lane % 16) then s
  else (s.modCore core (fun c => { c with retired := Map.put (lane / 16) (setBit mask (lane % 16)) c.retired })).count 0x105 1

/-- The place of a word among a core's counts of errors. -/
def errorKey (w : LaneWord) : Nat := w.lane + 256 * w.word

/-- An error of a lane's word counted; at four corrections without a rewrite, or two uncorrectable errors, the lane
retires (10 R221). -/
def laneError (s : State) (w : LaneWord) (f : Nat × Nat → Nat × Nat) : Out :=
  if 256 ≤ w.core || 256 ≤ w.lane then .fault .noSuchAgent
  else
    let n := f (Map.getD (errorKey w) (0, 0) (s.coreAt w.core).wordErrs)
    let s := s.modCore w.core (fun c => { c with wordErrs := Map.put (errorKey w) n c.wordErrs })
    .next (if 4 ≤ n.1 || 2 ≤ n.2 then retireLane s w.core w.lane else s)

/-- A single-bit error is corrected and counted. -/
def execSramSingleBitError (e : Corrected) (s : State) : Out :=
  match e.word with
  | none => .next (s.count 0x100 1)
  | some w => laneError (s.count 0x100 1) w (fun n => (if e.rewritten then 1 else n.1 + 1, n.2))

/-- A line or word poisoned, and counted. -/
def poisonCounted (s : State) (pa : Nat) : State := (s.setPoison pa).count 0x102 1

/-- A line of device memory poisoned. -/
def poisonLine (s : State) (pa : Nat) (k : State → Out) : Out :=
  match tierOf pa with
  | some 0 => k (poisonCounted s pa)
  | some 1 => k (poisonCounted s pa)
  | _ => .fault .noSuchAgent

/-- An error resolved by a discard or a refetch. -/
def refetched (s : State) : State := s.count 0x101 1

/-- The tile that an error struck, on the thread that owns it. -/
def strikeTile (s : State) (key t : Nat) : State :=
  (s.modThread key (fun x => { x with tiles := Map.put t Tile.reset x.tiles, mcheck := x.mcheck ++ [t] })).count 0x104 1

/-- Whether an L1 data line is discarded and refetched: it lies in a page whose composed W is 0, and holds no pending
store of the thread (10 R219). -/
def discards (s : State) (key pa : Nat) (va : Word) : Bool :=
  let e := s.env key
  (match freshTrans s e.ctx e.features va with
   | .ok t => t.wDeny.isSome && poisonUnit t.pa == poisonUnit pa
   | .error _ => false) &&
  !((s.thread key).pend.any (fun p => poisonUnit p.pa == poisonUnit pa))

/-- The line of an address poisoned in an L1, and counted. -/
def poisonL1 (s : State) (core pa : Nat) : State :=
  (s.modCore (s.l1Of core pa) (fun c =>
    { c with l1Poison := poisonUnit pa :: c.l1Poison.filter (· != poisonUnit pa) })).count 0x102 1

/-- The outcome of an uncorrectable error (10 R219). -/
def sramOutcome (s : State) (k : State → Out) : SramPlace → Out
  | .vreg core slot v same =>
    if !(isThread core slot) || slot = 4 || 128 ≤ v then .fault .noSuchAgent
    else if same then k (refetched s)
    else k ((s.modThread (threadKey core slot) (fun t => t.setVreg v { t.vreg v with tag := tagPsn })).count 0x102 1)
  | .icode core => if core < 256 then k (refetched s) else .fault .noSuchAgent
  | .l1 core slot pa va =>
    if !(isThread core slot) || isSpad pa || 0x30000000000 ≤ pa then .fault .noSuchAgent
    else if discards s (threadKey core slot) pa va then k (refetched s) else k (poisonL1 s core pa)
  | .l2 pa same => if same then k (refetched s) else poisonLine s pa k
  | .spad core off =>
    if core < 256 && off < 0x800000 then k (poisonCounted s (spadPa core off)) else .fault .noSuchAgent
  | .tile core slot t =>
    if isThread core slot && slot < 4 && t < 8 then k (strikeTile s (threadKey core slot) t) else .fault .noSuchAgent
  | .mem pa => poisonLine s pa k

/-- An error in a lane's slice strikes the vector register cache; another place names no lane's word. -/
def execSramUncorrectableError (place : SramPlace) (at_ : Option LaneWord) (s : State) : Out :=
  match place, at_ with
  | .vreg core slot v same, some w =>
    if w.core = core then
      sramOutcome s (fun s => laneError s w (fun n => (n.1, n.2 + 1))) (.vreg core slot v same)
    else .fault .noSuchAgent
  | _, some _ => .fault .noSuchAgent
  | place, none => sramOutcome s (fun s => .next s) place

def execHbmEccCorrection (s : State) : Out := .next (s.count 0x103 1)

/-- The machine check of a struck tile, at an instruction boundary of the scalar side (10 R219). -/
def mcheckTrap (s : State) (key : Nat) : State :=
  let s := s.modThread key (fun t => { t with mcheck := t.mcheck.drop 1 })
  let pc := (s.thread key).curPc
  takeTrap s key { cause := 0x40, va := some 0, elem := 0, hints := [], map := none, pcres := true, pc := pc, resume := pc }

/-! ## Power (05 R76, R89; 23 R352) -/

/-- An island whose frequency an action may lower. -/
def lowers (n : Nat) : Bool := n < 64 || (80 ≤ n && n < 88)

/-- A frequency lowered in steps of 100 MHz, to no less than 600 (05 R76). -/
def lowerIsland (s : State) (n mhz : Nat) : State :=
  let new := max 600 (min 2400 (mhz / 100 * 100))
  if new < (s.island n).mhz then
    { s.setIsland n { s.settleIsland n with mhz := new } with mgmt := { s.mgmt with lowered := true } }
  else s

/-- Whether lane groups may be marked: a frequency has been lowered, or none can be (23 R352). -/
def mayGate (s : State) : Bool :=
  s.mgmt.lowered || ((List.range 88).filter lowers).all (fun n => (s.island n).mhz ≤ 600)

/-- Above LIMIT the controller lowers frequencies first and marks lane groups after; at or below it, it unmarks groups
(log entry 65). -/
def execPowerLimitAction (e : PowerEvent) (s : State) : Out :=
  let above := Config.powerLimit < e.power
  let s := if above then s else { s with mgmt := { s.mgmt with lowered := false } }
  match e.act with
  | .freq n mhz => if lowers n then .next (if above then lowerIsland s n mhz else s) else .fault .noSuchAgent
  | .gate core group =>
    if core < 256 && group < 16 then
      .next (if above && mayGate s then s.modCore core (fun c => { c with gated := setBit c.gated group }) else s)
    else .fault .noSuchAgent
  | .ungate core group =>
    if core < 256 && group < 16 then
      .next (if above then s else s.modCore core (fun c => { c with gated := clearBit c.gated group }))
    else .fault .noSuchAgent

/-! ## The host (04 R70; 23 R341 to R343, R346) -/

/-- The host link has trained, and is ready. -/
def State.hostLive (s : State) : Bool := s.mgmt.hostUp && bitAt s.mgmt.ready 0 && !(bitAt s.mgmt.failed 0)

/-- The end of the HDM range. -/
def hdmEnd : Nat := 0x30000000000

/-- The staging window (23 R346 step 4). -/
def stagingBase : Nat := 0x20000

def stagingSize : Nat := 0x10000000

/-- Host bytes performed at their homes in order; the reserve discards. -/
def hostStore (s : State) (pa : Nat) : List Byte → State
  | [] => s
  | b :: r =>
    let s := if inReserve pa then s else s.perform .host .posted none false pa b
    hostStore s (pa + 1) r

/-- Addresses from one on. -/
def span (pa n : Nat) : List Nat := (List.range n).map (pa + ·)

/-- Whether two ranges share an address. -/
def overlaps (a n b m : Nat) : Bool := a < b + m && b < a + n

def touchesReserve (pa n : Nat) : Bool := overlaps pa n 0xFFF0000000 0x10000000

/-- Host data that come with poison leave the lines they write poisoned; the reserve discards (log entry 66). -/
def hostPoisons (s : State) (off n : Nat) : State :=
  ((span off n).filter (fun pa => (pa % 128 == 0 || pa == off) && !(inReserve pa))).foldl poisonCounted s

/-- Bytes from the host at their homes, poisoned where they come with poison. -/
def hostPut (s : State) (off : Nat) (data : List Byte) (poison : Bool) : State :=
  let s := hostStore s off data
  if poison then hostPoisons s off data.length else s

/-- A host write through the HDM range. The host's own copies of the lines are the written ones no longer (log entry
86). -/
def hdmWrite (s : State) (off : Nat) (data : List Byte) (poison : Bool) : Out :=
  if (span off data.length).any s.waitsAt then .next s
  else
    let s := if touchesReserve off data.length || poison then s.count 0x106 1 else s
    let s := hostPut s off data poison
    .next { s with snoop := s.snoop.filter (fun l => !(overlaps off data.length (l.1 * 64) 64)) }

/-- Before the runtime verifies, a host write goes through the staging window; after it starts, through the HDM range.
-/
def execHostWrite (off : Nat) (data : HostData) (s : State) : Out :=
  let n := data.bytes.length
  if !s.hostLive then .next s
  else if s.mgmt.hdmOpen then
    if hdmEnd < off + n then .fault .outsideHdm else hdmWrite s off data.bytes data.poison
  else if stagingSize < off + n then .next s
  else if (span (stagingBase + off) n).any s.waitsAt then .next s
  else .next (hostPut (if data.poison then s.count 0x106 1 else s) (stagingBase + off) data.bytes data.poison)

/-- The home I/O die of a line (23 R343). -/
def lineDie (line : Nat) : Nat := homeDie (line * 64) / 4

/-- Lines that one snoop filter tracks. -/
def snoopSize : Nat := 524288

/-- A line admitted to its snoop filter, whose least recently used line goes when it is full. -/
def admitLine (s : State) (line : Nat) : State :=
  let mine := s.snoop.filter (fun l => lineDie l.1 == lineDie line)
  let kept := match mine with
    | [] => s.snoop
    | old :: _ => if snoopSize ≤ mine.length then s.snoop.erase old else s.snoop
  { s with snoop := kept ++ [(line, s.now)] }

/-- A host read of a line: from the host's own copy, if it still has one, or from the home. The home time of the copy
is answered. -/
def readLine (s : State) (line : Nat) : Option Nat × State :=
  match s.snoop.find? (fun l => l.1 == line) with
  | some l =>
    let rest := s.snoop.filter (fun l => l.1 != line)
    if Config.freeBit s.fresh then (some l.2, { s.bump with snoop := rest ++ [l] })
    else (none, { s.bump with snoop := rest ++ [(line, s.now)] })
  | none => (none, admitLine s line)

/-- The host's view of a byte: the home's value, or the one its copy holds. -/
def hostByte (s : State) (pa : Nat) : Option Nat → Byte
  | none => s.home pa
  | some t => (viewAt (fun e => e.time ≤ t) pa (s.home pa) s.hist).1

/-- Bytes read by the host, line by line. -/
def hostBytes (off n : Nat) : List Nat → State → List Byte × State
  | [], s => ([], s)
  | line :: r, s =>
    let q := readLine s line
    let l := (span (line * 64) 64).filter (fun pa => off ≤ pa && pa < off + n)
    let x := hostBytes off n r q.2
    (l.map (fun pa => hostByte s pa q.1) ++ x.1, x.2)

/-- The lines of a range. -/
def linesOf (off n : Nat) : List Nat := if n = 0 then [] else (List.range ((off + n - 1) / 64 - off / 64 + 1)).map (off / 64 + ·)

/-- Whether a read of device memory by the outside meets poison at the homes. -/
def poisonedBytes (s : State) (pa n : Nat) : Bool := (span pa n).any (fun a => s.poisonedAt a || s.failedAt a)

/-- Whether a read through the HDM range answers poisoned data. -/
def poisonedSpan (s : State) (pa n : Nat) : Bool := touchesReserve pa n || poisonedBytes s pa n

def hdmRead (s : State) (off n : Nat) : Out :=
  if !s.mgmt.hdmOpen then .next s
  else if hdmEnd < off + n then .fault .outsideHdm
  else if (span off n).any s.waitsAt then .next s
  else
    let bad := poisonedSpan s off n
    let s := if bad then s.count 0x106 1 else s
    let q := hostBytes off n ((linesOf off n).filter (fun l => !(inReserve (l * 64)))) s
    .next { q.2 with outbox := if bad then [] else q.1, outboxPoison := bad }

/-- IDENT (23 R346): the device, whether it stands on a module, and the power limit. -/
def identWord : Nat := 0x0880 + b2n Config.module * 2 ^ 16 + Config.powerLimit * 2 ^ 32

/-- The fields of the configuration window that the host reads, by offset. -/
def windowFields (m : Mgmt) : List (Nat × List Byte) :=
  [(0x000, leBytes 8 identWord), (0x008, leBytes 8 m.ready), (0x010, leBytes 8 m.failed),
   (0x018, leBytes 8 (half (offered m) 0)), (0x020, leBytes 8 (half (offered m) 1)),
   (0x028, leBytes 8 (half m.accepted 0)), (0x030, leBytes 8 (half m.accepted 1)),
   (0x040, leBytes 8 m.imglen), (0x050, leBytes 8 m.status), (0x100, m.sig), (0x180, m.key)]

/-- A byte of the configuration window as the host reads it; one outside the fields that are read is open
(log entry 66). -/
def windowByte (s : State) (o : Nat) : Byte :=
  match (windowFields s.mgmt).find? (fun f => f.1 ≤ o && o < f.1 + f.2.length) with
  | some f => f.2.getD (o - f.1) 0
  | none => (Config.openWord (s.fresh + o)).setWidth 8

/-- The configuration window is 4 KiB. -/
def windowRead (s : State) (off n : Nat) : Out :=
  if 4096 < off + n then .fault .configHole
  else .next { s.bump with outbox := (span off n).map (windowByte s), outboxPoison := false }

def execHostRead (place : HostPlace) (n : Nat) (s : State) : Out :=
  if !s.hostLive then .next s
  else if place.window then windowRead s place.off n else hdmRead s place.off n

/-! ## Peers (23 R344, R345) -/

/-- A port that works. -/
def State.portLive (s : State) (n : Nat) : Bool := bitAt s.mgmt.ready (25 + n) && !(bitAt s.mgmt.failed (25 + n))

/-- An event of a peer port. -/
def atPort (s : State) (n : Nat) (k : Port → Out) : Out :=
  if 16 ≤ n then .fault .noSuchAgent else if s.portLive n then k (s.port n) else .next s

/-- The payload of a flit: what lies between its header and its CRC. -/
def flitPayload (flit : List Byte) : List Byte := (flit.drop 8).take 240

/-- The CRC of a flit: over its header and its payload (log entry 64). -/
def flitCrc (body : List Byte) : List Byte := leBytes 8 (crc64 Config.crcInit Config.crcLsbFirst body).toNat

/-- Whether a flit passes its CRC. -/
def flitGood (flit : List Byte) : Bool := flit.length == 256 && flit.drop 248 == flitCrc (flit.take 248)

/-- The queued flits from the first that failed on, with it filled. -/
def fillFirst (x : List Byte) : List (Option (List Byte)) → List (Option (List Byte))
  | [] => []
  | none :: r => some x :: r
  | some y :: r => some y :: fillFirst x r

/-- The flits at the head of a queue that none before them holds back. -/
def readyFlits : List (Option (List Byte)) → List (List Byte) × List (Option (List Byte))
  | some x :: r => let q := readyFlits r; (x :: q.1, q.2)
  | l => ([], l)

/-- Flits that may be delivered are, in order (23 R344). -/
def Port.flush (p : Port) : Port :=
  let q := readyFlits p.queued
  { p with delivered := p.delivered ++ q.1, queued := q.2 }

/-- A port that has queued a flit: a new one in its place, a resent one in the place of the first that failed. A resent
flit for which nothing waits is dropped. -/
def Port.take (p : Port) (resent : Bool) (x : List Byte) : Port :=
  { p with queued := if resent then fillFirst x p.queued else p.queued ++ [some x] }

/-- A flit that passes its CRC is delivered in its order; one that fails is asked for again, and holds back those after
it (23 R344). -/
def execPeerFlitReceive (port : Nat) (flit : List Byte) (resent : Bool) (s : State) : Out :=
  atPort s port fun p =>
    if flitGood flit then .next (s.setPort port (p.take resent (flitPayload flit)).flush)
    else
      .next ((s.setPort port { p with asked := p.asked + 1, queued := if resent then p.queued else p.queued ++ [none] }).count
        0x107 1)

/-- The last `n` flits of the replay buffer, which holds 64, are sent again in their order: the failed one and the
younger ones after it (23 R344; log entry 64). -/
def execPeerRetryRequest (port n : Nat) (s : State) : Out :=
  atPort s port fun p =>
    .next ((s.setPort port { p with resent := p.resent ++ p.replay.drop (p.replay.length - n)
                                    unacked := max p.unacked (min n p.replay.length) }).count 0x107 1)

/-- The flits that a port sends in a turn: one for the stores that performed in its window since the last, and others
for its requests and answers. Their bytes up to the CRC are open (log entry 64). -/
def sentFlits (s : State) (n : Nat) : List (List Byte) :=
  let new := (s.hist.takeWhile (fun e => s.sentUpTo < e.time)).any (fun e =>
    !(isSpad e.pa) && tierOf e.pa == some 3 && peerPort e.pa == n && e.who != .peer n)
  (List.range (b2n new + Config.flitsSent s.fresh n)).map (fun k =>
    let body := (List.range 248).map (Config.flitByte s.fresh n k)
    body ++ flitCrc body)

/-- A replay buffer holds the last 64 flits. -/
def keepReplay (l : List (List Byte)) : List (List Byte) := l.drop (l.length - 64)

/-- A port sends flits, and its peer acknowledges a free number of the oldest that it has not acknowledged yet. -/
def Port.send (p : Port) (unacked : Nat) (l : List (List Byte)) : Port :=
  let replay := keepReplay (p.replay ++ l)
  { p with replay := replay, unacked := min unacked (min replay.length (p.unacked + l.length)) }

/-- Every port that works sends its flits. -/
def sendFlits (s : State) : State :=
  let t := ((List.range 16).filter s.portLive).foldl (fun t n =>
    t.setPort n ((t.port n).send (Config.flitsUnacked s.fresh n) (sentFlits s n))) s
  { t with sentUpTo := s.now }

/-- Whether `n` bytes lie in a port's inbound range, and in HBM or the second tier (23 R345). -/
def Port.admits (p : Port) (pa n : Nat) : Bool :=
  p.inBase * 2 ^ 28 ≤ pa && pa + n ≤ (p.inBase + p.inCount) * 2 ^ 28 && p.inCount != 0 && pa + n ≤ hdmEnd

/-- What an atomic puts in place of an old value (06 R112). -/
def atomicResult {w : Nat} (op : AtomicOp) (o x y : BitVec w) : BitVec w :=
  match op with
  | .add => o + y
  | .swap => y
  | .cas => if o = x then y else o
  | .and => o &&& y
  | .or => o ||| y
  | .xor => o ^^^ y
  | .min => if o.slt y then o else y
  | .max => if o.slt y then y else o
  | .minUnsigned => if o.ult y then o else y
  | .maxUnsigned => if o.ult y then y else o

/-- Bytes that a request touches. -/
def requestSize : PeerReq → Nat
  | .read n => n
  | .write l => l.length
  | .atomic _ half _ _ => if half then 4 else 8
  | .arrive _ => 32

/-- What a request writes over the old bytes, by offset. -/
def requestStores (old : List Byte) : PeerReq → List (Nat × List Byte)
  | .read _ => []
  | .write l => [(0, l)]
  | .atomic op true x y =>
    [(0, leBytes 4 (atomicResult op (BitVec.ofNat 32 (leNat old)) (x.setWidth 32) (y.setWidth 32)).toNat)]
  | .atomic op false x y => [(0, leBytes 8 (atomicResult op (BitVec.ofNat 64 (leNat old)) x y).toNat)]
  | .arrive n => barrierWrites old n

/-- What a request is answered with. -/
def requestAnswer (old : List Byte) : PeerReq → List Byte
  | .read _ => old
  | .write _ => []
  | .atomic _ _ _ _ => old
  | .arrive _ => old

/-- Whether a request reads. -/
def requestReads : PeerReq → Bool
  | .write _ => false
  | _ => true

/-- How a peer's store counts in the home order: published at scope s as it performs (17 R292, R296; log entry 67). An
arrival is one that those which read the phase observe with the phase's last one (18 R305). -/
def requestKind : PeerReq → StoreKind
  | .atomic _ _ _ _ => .atomic
  | .arrive _ => .counted
  | _ => .posted

/-- A request performed at its home. An atomic on poisoned data answers poison and writes nothing; an arrival that the
barrier refuses writes nothing, and the peer finds the refusal in the answer (17 R299). -/
def peerPerform (s : State) (port pa : Nat) (p : Port) (req : PeerReq) : State :=
  let pas := span pa (requestSize req)
  let bad := requestReads req && poisonedBytes s pa (requestSize req)
  let old := pas.map s.home
  let s := if bad then s.count 0x106 1
    else (requestStores old req).foldl (fun s w =>
      s.writeHome (.peer port) (requestKind req) false (span (pa + w.1) w.2.length) w.2) s
  s.setPort port { p with answer := some (if bad then [] else requestAnswer old req, bad) }

def execPeerInboundRequest (port pa : Nat) (req : PeerReq) (s : State) : Out :=
  atPort s port fun p =>
    if !(p.admits pa (requestSize req)) then .next ((s.setPort port { p with answer := none }).count 0x106 1)
    else if (span pa (requestSize req)).any s.waitsAt then .next s
    else .next (peerPerform s port pa p req)

/-! ## Reset and debug (19 R328; 23 R346) -/

/-- A bank that may be started (23 R346 step 1). -/
def Mgmt.qualifies (m : Mgmt) (b : Bank) : Bool := b.signed && m.rollback ≤ b.version

/-- The bank that starts: 1 is A, 2 is B, 0 neither; of two equal versions, A (log entry 4). -/
def Mgmt.choose (m : Mgmt) : Nat :=
  if m.qualifies m.bankA && m.qualifies m.bankB then (if m.bankA.version < m.bankB.version then 2 else 1)
  else if m.qualifies m.bankA then 1
  else if m.qualifies m.bankB then 2
  else 0

/-- The management controller after a reset: the flash and the one-time bits stay. -/
def Mgmt.restart (m : Mgmt) : Mgmt :=
  { Mgmt.reset with bankA := m.bankA, bankB := m.bankB, rollback := m.rollback, running := m.choose,
                    hostUp := m.choose != 0 }

/-- Memory that is not the package's own. -/
def outsidePa (pa : Nat) : Bool := !(isSpad pa) && (tierOf pa == some 2 || tierOf pa == some 3)

/-- Package reset: what is outside the package, and the flash, stay. -/
def packageReset (s : State) : State :=
  { State.reset with
    mem := s.mem.filter (fun c => outsidePa c.1), poison := s.poison.filter outsidePa, mgmt := s.mgmt.restart
    hostErr := s.hostErr, hostPoison := s.hostPoison, agenda := s.agenda, fresh := s.fresh }

def execPackageReset (s : State) : Out := .next (packageReset s)

def execDebugReset (s : State) : Out := .next (packageReset s)

/-- A link retrains: its unacknowledged flits are sent again. -/
def Port.retrain (p : Port) : Port :=
  { p with resent := p.resent ++ p.replay.drop (p.replay.length - p.unacked) }

/-- Every clock restarts, and the peer links send their unacknowledged flits again, one retry of each link that has some
(23 R344; log entry 64). -/
def execDebugResume (s : State) : Out :=
  .next (if s.frozen then
    ({ s with frozen := false, ports := s.ports.map (fun p => (p.1, p.2.retrain)) } : State).count 0x107
       (s.ports.filter (fun p => p.2.unacked != 0)).length
  else s)

/-! ## Bring-up (23 R346 to R348) -/

def Mgmt.setReady (m : Mgmt) (fn : Nat) : Mgmt := { m with ready := setBit m.ready fn }

def Mgmt.setFailed (m : Mgmt) (fn : Nat) : Mgmt := { m with failed := setBit m.failed fn }

def execFunctionReady (fn : Nat) (s : State) : Out :=
  if 41 < fn then .fault .noSuchAgent else .next { s with mgmt := s.mgmt.setReady fn }

def execFunctionFailed (fn : Nat) (s : State) : Out :=
  if 41 < fn then .fault .noSuchAgent else .next { s with mgmt := s.mgmt.setFailed fn }

/-- The running bank. -/
def Mgmt.bank (m : Mgmt) : Bank := if m.running = 2 then m.bankB else m.bankA

/-- The runtime image as it stands at its home. -/
def imageBytes (s : State) : List Byte := (span stagingBase s.mgmt.imglen).map s.home

def imglenOk (n : Nat) : Bool := 4 ≤ n && n ≤ 0x0FFE0000

/-- What a GO finds wrong before the signature is checked, of which one is reported (log entry 31). -/
def goProblems (s : State) : List Nat :=
  (if bitAt s.mgmt.ready 1 && !(bitAt s.mgmt.failed 1) then [] else [5]) ++
  (if imglenOk s.mgmt.imglen then [] else [6]) ++
  (if sha384 s.mgmt.key = s.mgmt.bank.keyHash then [] else [4])

/-- STATUS after a GO. -/
def goStatus (s : State) : Nat :=
  match goProblems s with
  | [] => if ecdsaVerify s.mgmt.key s.mgmt.sig (imageBytes s) then 2 else 3
  | l => l.getD (Config.refusalPick s.fresh % l.length) 5

def doGo (s : State) : State :=
  if s.mgmt.status = 2 then s else { s.bump with mgmt := { s.mgmt with status := goStatus s } }

def execGo (s : State) : Out := .next (if s.hostLive then doGo s else s)

/-- Every core's supervisor thread starts the root's resident code, and the HDM range opens. -/
def execRuntimeStart (s : State) : Out :=
  if s.mgmt.status = 2 && !s.mgmt.started then
    let s : State := { s with mgmt := { s.mgmt with started := true, hdmOpen := true } }
    .next (((List.range 256).filter (fun c => (s.island (c / 4)).on)).foldl startResident s)
  else .next s

/-- Roll-back bits are blown up to the running bank's version. -/
def doCommit (s : State) : State :=
  if s.mgmt.running = 0 then s
  else { s with mgmt := { s.mgmt with rollback := max s.mgmt.rollback s.mgmt.bank.version } }

def execCommit (s : State) : Out := .next (if s.hostLive then doCommit s else s)

/-- The other bank starts, where it qualifies (log entry 4); everything else stays as it is. -/
def doSwitch (s : State) : State :=
  let other := if s.mgmt.running = 1 then s.mgmt.bankB else s.mgmt.bankA
  if s.mgmt.running != 0 && s.mgmt.qualifies other then
    { s with mgmt := { s.mgmt with running := 3 - s.mgmt.running } }
  else s

def execSwitch (s : State) : Out := .next (if s.hostLive then doSwitch s else s)

/-- `half` names the high half. -/
def execFeataccWrite (half : Bool) (v : Word) (s : State) : Out :=
  .next (if s.hostLive then { s with mgmt := s.mgmt.accept (b2n half) v.toNat } else s)

/-- Bytes put over a field's bytes. -/
def patch (old : List Byte) (at_ : Nat) (data : List Byte) : List Byte :=
  old.take at_ ++ data ++ old.drop (at_ + data.length)

/-- A number of 8 bytes with some of them written. -/
def patch8 (x at_ : Nat) (data : List Byte) : Nat := leNat (patch (leBytes 8 x) at_ data)

/-- A command written to CMD. -/
def command (s : State) (n : Nat) : State :=
  match n with
  | 1 => doGo s
  | 2 => doCommit s
  | 3 => doSwitch s
  | _ => s

/-- The bytes of a write that fall in a field: where in it they begin, and the bytes. -/
def fieldPart (off : Nat) (data : List Byte) (base size : Nat) : Nat × List Byte :=
  let lo := max off base
  (lo - base, (data.drop (lo - off)).take (base + size - lo))

/-- A field changed by the bytes of a write that fall in it, if any do. -/
def onField (off : Nat) (data : List Byte) (base size : Nat) (f : Nat → List Byte → State → State) (s : State) : State :=
  match fieldPart off data base size with
  | (_, []) => s
  | (at_, l) => f at_ l s

/-- The management controller changed. -/
def State.modMgmt (s : State) (f : Mgmt → Mgmt) : State := { s with mgmt := f s.mgmt }

/-- Whether an offset lies in a field of the window. -/
def listedOffset (o : Nat) : Bool :=
  o < 0x38 || (0x40 ≤ o && o < 0x58) || (0x100 ≤ o && o < 0x160) || (0x180 ≤ o && o < 0x1E0)

/-- A host write to the configuration window, field by field in the order of their offsets; the fields that the table
gives for reading only keep their values. -/
def windowWrite (s : State) (off : Nat) (data : List Byte) : Out :=
  if (span off data.length).all listedOffset then
    let s := onField off data 0x28 8 (fun i l => (·.modMgmt (fun m => m.accept 0 (patch8 (half m.accepted 0) i l)))) s
    let s := onField off data 0x30 8 (fun i l => (·.modMgmt (fun m => m.accept 1 (patch8 (half m.accepted 1) i l)))) s
    let s := onField off data 0x40 8 (fun i l => (·.modMgmt (fun m => { m with imglen := patch8 m.imglen i l }))) s
    let s := onField off data 0x48 8 (fun i l s => command s (patch8 0 i l)) s
    let s := onField off data 0x100 96 (fun i l => (·.modMgmt (fun m => { m with sig := patch m.sig i l }))) s
    .next (onField off data 0x180 96 (fun i l => (·.modMgmt (fun m => { m with key := patch m.key i l }))) s)
  else .fault .configHole

def execConfigWindowWrite (off : Nat) (data : List Byte) (s : State) : Out :=
  if s.hostLive then windowWrite s off data else .next s

end Sys2Proof.Machine
end

