-- ==== Sys2Proof/Machine/VConv.lean ====
section
/-! DEFINITION. Vector conversions, block forms and the scale-and-split forms (08 R155 to R161; 09 R186 to R189). -/

namespace Sys2Proof.Machine

/-! ## Conversions (09 R186) -/

/-- A value of any tag that has one: a float, FP4 or E8M0 element. -/
def anyVal (q : FMode) (t x : Nat) : FV := if t = 16 then decodeE8m0 (x % 256) else valOf q t x

/-- A value delivered in any float, FP4 or E8M0 tag. -/
def anyTo (q : FMode) (t : Nat) (v : FV) : Nat × Flags :=
  if t = 16 then toE8m0 v else (fmtOr t).deliver q.rm q.ftz v 0

/-- Float-side tags of `vcvt`: F, F8, FP4 and E8M0. -/
def isCvt (t : Nat) : Bool := 9 ≤ t && t ≤ 16

/-- Float-side tags of the integer conversions: F, F8 and FP4. -/
def isCvtF (t : Nat) : Bool := 9 ≤ t && t ≤ 15

/-- A literal tag must be 1 to 21 (03 R27). -/
def literalTag (s : State) (t : BitVec 5) (k : Unit → Out) : Out :=
  if t = 0 || 21 < t.toNat then instrFault s 0x10 else k ()

/-- A conversion into the literal tag. -/
def convertTo (src dst : Nat → Bool) (f : FMode → Nat → Nat → Nat → Nat × Flags) (d a : BitVec 7) (t : BitVec 5)
    (m z : Bool) (s : State) : Out :=
  literalTag s t fun _ =>
    vecIssue s [d, a] fun _ =>
      let ta := s.vtag a
      let q := s.me.fmode
      tagWrite s d ((src ta || ta == tagPsn) && dst t.toNat && maskOk s m) fun _ =>
        elementwise s { d := d, tag := t.toNat, m := m, z := z } (ta == tagPsn)
          (fun e => f q ta t.toNat ((s.vreg a).read ta e))

/-- `vcvt`. -/
def cvtBits (q : FMode) (ta t x : Nat) : Nat × Flags := anyTo q t (anyVal q ta x)

def execVcvt (d a : BitVec 7) (t : BitVec 5) (m z : Bool) (s : State) : Out := convertTo isCvt isCvt cvtBits d a t m z s

def cvtToInt (q : FMode) (ta t x : Nat) : Nat × Flags :=
  let w := tagWidth t
  let r := toInt q.rm (minOf (isSignedTag t) w) (maxOf (isSignedTag t) w) (valOf q ta x)
  (wrapTo w r.1, r.2)

def execVcvtfi (d a : BitVec 7) (t : BitVec 5) (m z : Bool) (s : State) : Out := convertTo isCvtF isInt cvtToInt d a t m z s

def cvtFromInt (q : FMode) (ta t x : Nat) : Nat × Flags :=
  (fmtOr t).deliver q.rm q.ftz (ofInt (numOf (isSignedTag ta) (tagWidth ta) x)) 0

def execVcvtif (d a : BitVec 7) (t : BitVec 5) (m z : Bool) (s : State) : Out := convertTo isInt isCvtF cvtFromInt d a t m z s

def cvtInt (_ : FMode) (ta t x : Nat) : Nat × Flags := (wrapTo (tagWidth t) (numOf (isSignedTag ta) (tagWidth ta) x), 0)

def execVcvtint (d a : BitVec 7) (t : BitVec 5) (m z : Bool) (s : State) : Out := convertTo isInt isInt cvtInt d a t m z s

/-! ## MX blocks (09 R187) -/

/-- A value rounded into an I8 element of a block: the clamp raises overflow and inexact; a NaN gives 0 with invalid
(log entry 26). -/
def packI8 (rm : Nat) : FV → Nat × Flags
  | .nan _ => (0, fInvalid)
  | .inf n => (if n then 128 else 127, orF fOverflow fInexact)
  | .fin n m e =>
    let r := roundShift rm n m (-(e + 6)) false
    let v := dyadic n r.1
    if v < -128 || 127 < v then (if n then 128 else 127, orF fOverflow fInexact)
    else (wrapTo 1 v, if r.2 then fInexact else 0)

/-- One element packed under a scale. -/
def packElem (q : FMode) (t sc : Nat) (v : FV) : Nat × Flags :=
  if sc = 255 then (if t = 1 || t = 15 then 0 else (fmtOr t).nan, fInvalid)
  else
    let x := v.scale (127 - (sc : Int))
    if t = 1 then packI8 q.rm x else (fmtOr t).deliver q.rm q.ftz x 0

/-- Tags of a packed block: I8, E4M3, E5M2 and FP4. -/
def isPacked (t : Nat) : Bool := t == 1 || t == 13 || t == 14 || t == 15

def execVpack (d a b : BitVec 7) (m z : Bool) (s : State) : Out :=
  vecIssue s [d, a, b] fun _ =>
    let ta := s.vtag a
    let t := s.me.vec.fmt
    let q := s.me.fmode
    tagWrite s d ((isShortF ta || ta == tagPsn) && tagOrPsn (s.vtag b) 16 && isPacked t && maskOk s m) fun _ =>
      elementwise s { d := d, tag := t, m := m, z := z } (ta == tagPsn || s.vtag b == tagPsn)
        (fun e => packElem q t ((s.vreg b).read 16 (e / 32)) (valOf q ta ((s.vreg a).read ta e)))

/-- One element unpacked under a scale. -/
def unpackElem (q : FMode) (t sc x : Nat) : Nat × Flags :=
  if sc = 255 then (fmtFp32.nan, 0)
  else
    let k : Int := (sc : Int) - 127
    let v : FV := if t = 1 then (ofInt (signedOf 1 x)).scale (k - 6) else (valOf q t x).scale k
    fmtFp32.deliver q.rm q.ftz v 0

def execVunpack (d a b : BitVec 7) (m z : Bool) (s : State) : Out :=
  vecIssue s [d, a, b] fun _ =>
    let ta := s.vtag a
    let q := s.me.fmode
    tagWrite s d ((isPacked ta || ta == tagPsn) && tagOrPsn (s.vtag b) 16 && maskOk s m) fun _ =>
      elementwise s { d := d, tag := 11, m := m, z := z } (ta == tagPsn || s.vtag b == tagPsn)
        (fun e => unpackElem q ta ((s.vreg b).read 16 (e / 32)) ((s.vreg a).read ta e))

/-! ## CB2 codewords (08 R161, 09 R188) -/

/-- The sign bits of a codeword's eight weights. -/
def cb2Signs (x : Nat) : List Bool :=
  let s := (List.range 7).map (fun k => bitAt x (k + 1))
  s ++ [((s.filter id).length + x % 2) % 2 == 1]

/-- The eight weights of a codeword under a scale. -/
def cb2dec (x sc : Nat) : List FV :=
  (List.range 8).map (fun k =>
    if sc = 255 then .nan false
    else .fin ((cb2Signs x).getD k false) (1 + 2 * bitsAt x (8 + k) 1) ((sc : Int) - 128))

/-- A decoded codeword in FP32. -/
def cb2Words (q : FMode) (x sc : Nat) : List (Nat × Flags) := (cb2dec x sc).map (fun v => fmtFp32.deliver q.rm q.ftz v 0)

/-- `vcbdec`: elements are codewords, and each writes eight positions of vd below 65,536; the weights of positions beyond
them raise their flags as the others do (09 R188; log entry 106). -/
def execVcbdec (d a b : BitVec 7) (m z : Bool) (s : State) : Out :=
  vecIssue s [d, a, b] fun _ =>
    tagWrite s d (tagOrPsn (s.vtag a) 17 && tagOrPsn (s.vtag b) 16 && maskOk s m) fun _ =>
      let q := s.me.fmode
      let psn := s.vtag a == tagPsn || s.vtag b == tagPsn
      let en := s.me.enables
      let act := activeElems s m
      let res := act.map (fun e => (e, cb2Words q ((s.vreg a).read 17 e) ((s.vreg b).read 16 (e / 8))))
      let flagsOf (l : List (Nat × Flags)) : Flags := l.foldl (fun f p => orF f p.2) 0
      let chk : Nat → Option Stop := fun e =>
        if psn then some (.flt psnFault)
        else if res.any (fun p => p.1 == e && trapsOn en (flagsOf p.2)) then
          some (.flt { cause := 7, va := none, map := none })
        else none
      let spread (p : Nat × List Nat) : List (Nat × Nat) :=
        ((List.range 8).map (fun k => (8 * p.1 + k, p.2.getD k 0))).filter (fun w => w.1 < 65536)
      settleVec s (fun s => s.setTag d 11) (judge chk act)
        (fun n s =>
          let done := res.filter (fun p => p.1 < n)
          countElems done.length
            ((s.writeElems d 11 (done.flatMap (fun p => spread (p.1, p.2.map (·.1))))).raise [.vreg d.toNat]
              (done.foldl (fun f p => orF f (flagsOf p.2)) 0)))
        (fun n s =>
          if z then
            s.writeElems d 11 (((List.range s.me.vec.vl).filter (fun c => !(c < n && selected s m c))).flatMap
              (fun c => spread (c, [])))
          else s)

/-- One weight encoded: its sign, its magnitude bit and the flags. -/
def cb2encWeight (sc : Nat) (v : FV) : Nat × Nat × Flags :=
  if sc = 255 || v.isNan then (0, 0, fInvalid)
  else
    let t := v.scale (127 - (sc : Int))
    let one : FV := .fin false 1 0
    let mag := match t with
      | .fin _ m e => FV.fin false m e
      | _ => .inf false
    let big := cmpFV mag one != .lt
    let exact := cmpFV mag (.fin false 1 (-1)) == .eq || cmpFV mag (.fin false 3 (-1)) == .eq
    (b2n t.sign, b2n big, if exact then 0 else fInexact)

/-- Eight weights encoded under a scale. -/
def cb2enc (sc : Nat) (l : List FV) : Nat × Flags :=
  let w := l.map (cb2encWeight sc)
  let c := (w.map (·.1)).sum % 2
  (((List.range 8).map (fun k => ((w.getD k (0, 0, 0)).2.1) * 2 ^ (8 + k))).sum +
     ((List.range 7).map (fun k => ((w.getD k (0, 0, 0)).1) * 2 ^ (k + 1))).sum + c,
   w.foldl (fun f p => orF f p.2.2) 0)

def execVcbenc (d a b : BitVec 7) (m z : Bool) (s : State) : Out :=
  vecIssue s [d, a, b] fun _ =>
    let ta := s.vtag a
    let q := s.me.fmode
    tagWrite s d ((isShortF ta || ta == tagPsn) && tagOrPsn (s.vtag b) 16 && maskOk s m) fun _ =>
      elementwise s { d := d, tag := 17, m := m, z := z } (ta == tagPsn || s.vtag b == tagPsn)
        (fun e => cb2enc ((s.vreg b).read 16 (e / 8))
          ((List.range 8).map (fun k => valOf q ta ((s.vreg a).at_ ta (8 * e + k)))))

/-! ## Scale and split (09 R189) -/

/-- An exponent step beyond which every format overflows or underflows alike. -/
def stepInt (n : Int) : Int := clampInt (-8000) 8000 n

def execVfscale (d a b : BitVec 7) (m z : Bool) (s : State) : Out :=
  let q := s.me.fmode
  vecIssue s [d, a, b] fun _ =>
    let ta := s.vtag a
    let tb := s.vtag b
    tagWrite s d ((isF ta || ta == tagPsn) && (isSignedTag tb || tb == tagPsn) && maskOk s m) fun _ =>
      elementwise s { d := d, tag := ta, m := m, z := z } (ta == tagPsn || tb == tagPsn) (fun e =>
        (fmtOr ta).deliver q.rm q.ftz
          ((valOf q ta ((s.vreg a).read ta e)).scale (stepInt (signedOf (tagWidth tb) ((s.vreg b).read tb e)))) 0)

/-- A unary form of F tags whose result has a tag of its own. -/
def splitTo (tag : Nat) (f : FMode → Nat → Nat → Nat) (d a : BitVec 7) (m z : Bool) (s : State) : Out :=
  let q := s.me.fmode
  ewise d [a] m z isF (fun _ => tag) (fun t e => (f q t ((s.vreg a).read t e), 0)) s

/-- floor(log₂ |x|) as an I32 pattern. -/
def expoOf (v : FV) : Nat :=
  match v with
  | .fin _ m e => if m = 0 then 0x80000000 else wrapTo 4 ((Nat.log2 m : Int) + e)
  | _ => 0x7FFFFFFF

def execVfexpo (d a : BitVec 7) (m z : Bool) (s : State) : Out := splitTo 5 (fun q t x => expoOf (valOf q t x)) d a m z s

def execVfmant (d a : BitVec 7) (m z : Bool) (s : State) : Out :=
  fpUn isF (fun q t x =>
    match valOf q t x with
    | .fin n k _ =>
      if k = 0 then ((fmtOr t).signed n 0, 0) else (fmtOr t).deliver q.rm false (.fin n k (-(Nat.log2 k : Int))) 0
    | v => (fmtOr t).deliver q.rm false v 0) d a m z s

/-- The class bit of an operand as it is read. -/
def classBit (f : Fmt) (x : Nat) (v : FV) : Nat :=
  match v with
  | .inf n => if n then 0 else 7
  | .nan s => if s then 8 else 9
  | .fin n m _ =>
    let normal := bitsAt x f.mbits f.ebits != 0
    if m = 0 then (if n then 3 else 4)
    else if normal then (if n then 1 else 6)
    else (if n then 2 else 5)

def execVfclass (d a : BitVec 7) (m z : Bool) (s : State) : Out :=
  splitTo 4 (fun q t x => 2 ^ classBit (fmtOr t) x (valOf q t x)) d a m z s

end Sys2Proof.Machine
end

