-- ==== Sys2Proof/Machine/Matrix.lean ====
section
/-! DEFINITION. Weights through records and the plane forms (08 R162 to R164, R169; 12 R253 to R258). -/

namespace Sys2Proof.Machine

/-! ## What an accumulation reads -/

/-- The block integers of record rows: 128 columns each. -/
abbrev RowTable := List ((OpRec × Nat) × List Int)

/-- The scale bytes of K-blocks. -/
abbrev ScaleTable := List ((OpRec × Nat) × List Byte)

/-- Rows or K-blocks of records with the places of their planes or scale bytes, as a check phase found them. -/
abbrev Located := List ((OpRec × Nat) × List (Except Stop Place))

/-- The places of the planes of some rows. -/
def locateRows (s : State) (c : Nat) (keys : List (OpRec × Nat)) : Located :=
  keys.map (fun k => (k, planeChecks s .read k.1 c k.2))

/-- The places of the scale bytes of the K-blocks of some rows. -/
def locateScales (s : State) (c : Nat) (keys : List (OpRec × Nat)) : Located :=
  ((keys.filter (fun k => k.1.sbase != 0)).map (fun k => (k.1, k.2 / 64))).eraseDups.map
    (fun k => (k, scaleChecks s .read k.1 c k.2))

/-- All places of a list of rows or K-blocks. -/
def Located.places (l : Located) : List Place := l.flatMap (fun x => x.2.filterMap Except.toOption)

/-- The planes of some rows read for the executing thread. -/
def readRows (s : State) : Located → RowTable × State
  | [] => ([], s)
  | k :: r =>
    let v := readPlaces s k.2
    let q := readRows v.2 r
    ((k.1, (List.range 128).map (planeInt v.1)) :: q.1, q.2)

/-- The scale bytes of some K-blocks read for the executing thread. -/
def readScales (s : State) : Located → ScaleTable × State
  | [] => ([], s)
  | k :: r =>
    let v := readPlaces s k.2
    let q := readScales v.2 r
    ((k.1, v.1.flatten) :: q.1, q.2)

def lookRow (t : RowTable) (k : OpRec × Nat) (n : Nat) : Int := ((t.find? (fun x => x.1 == k)).map (·.2.getD n 0)).getD 0

/-- The scale byte of a K-block for a column; none for a record without scales, and for a block of which no active element
of a performed group has read it (12 R254; log entry 79). -/
def lookScale (t : ScaleTable) (k : OpRec × Nat) (n : Nat) : Option Nat :=
  (t.find? (fun x => x.1 == k)).map (fun x => (x.2.getD n 0).toNat)

/-! ## Accumulation (08 R169) -/

/-- An exact zero sum is +0. -/
def posZero (v : FV) : FV := if v.isZero then .fin false 0 0 else v

/-- The sum S of a K-block's products for one column, and of half its activations for a codebook record (08 R162,
R169). -/
def blockTerms (r : OpRec) (rows : RowTable) (n : Nat) (acts : List (Nat × FV)) : FV × Flags :=
  let ps := acts.map (fun a => mulFV a.2 (ofInt (lookRow rows (r, a.1) n)))
  let t := sumFV 0 (ps.map (·.1))
  let f := ps.foldl (fun f p => orF f p.2) t.2
  if r.cb then
    let h := sumFV 0 (acts.map (·.2))
    let u := addFV 0 t.1 (h.1.scale (-1))
    (u.1, orF (orF f h.2) u.2)
  else (t.1, f)

/-- The sum of a K-block with its scale. -/
def blockSum (r : OpRec) (rows : RowTable) (scale : Option Nat) (n : Nat) (acts : List (Nat × FV)) : FV × Flags :=
  let t := blockTerms r rows n acts
  let v := posZero t.1
  (match scale with
    | none => v
    | some sc => if sc = 255 then .nan false else v.scale ((sc : Int) - 127), t.2)

/-- A tile row's record and its covered K-blocks, each with the activations that are not zero. -/
structure RowPlan where
  oprec : OpRec
  blocks : List (Nat × List (Nat × FV))

/-- The plan of tile row i for the performed groups. -/
def rowPlan (s : State) (q : FMode) (m : Bool) (v : VReg) (k0 i : Nat) (gs : List Nat) (r : OpRec) : RowPlan :=
  let gs := gs.filter (fun g => k0 + g < r.k)
  { oprec := r
    blocks := (gs.map (fun g => (k0 + g) / 64)).eraseDups.map (fun kb =>
      (kb, (gs.filter (fun g => (k0 + g) / 64 == kb)).filterMap (fun g =>
        let a := operandVal s q m v (128 * g + i)
        if a.isZero then none else some (k0 + g, a)))) }

/-- One tile element over the K-blocks of its row's plan, one rounding each. -/
def accBlocks (q : FMode) (tag : Nat) (rows : RowTable) (scales : ScaleTable) (n : Nat) (r : OpRec) :
    List (Nat × List (Nat × FV)) → BitVec 32 × Flags → BitVec 32 × Flags
  | [], t => t
  | b :: bs, t =>
    let sum := blockSum r rows (lookScale scales (r, b.1) n) n b.2
    let u := accTile tag q t.1 sum.1
    accBlocks q tag rows scales n r bs (u.1, orF (orF t.2 sum.2) u.2)

/-- A tile accumulated: row i by plan i; a row without a record receives nothing. -/
def accumulate (q : FMode) (rows : RowTable) (scales : ScaleTable) (plans : List (Option RowPlan)) (t : Tile) : Tile × Flags :=
  t.map (fun i old =>
    match plans.getD (i / 128) none with
    | none => (old, 0)
    | some p => accBlocks q t.tag rows scales (i % 128) p.oprec p.blocks (old, 0))

/-- Activation tags of a record form, by the tile's tag (12 R253). -/
def actTags (ta tt : Nat) : Bool :=
  if tt = 11 then ta == 9 || ta == 10 || ta == 13 || ta == 14 || ta == 1 || ta == 3 || ta == tagPsn
  else if tt = 5 then ta == 1 || ta == 3 || ta == tagPsn
  else false

/-- Whether a tile accepts a record: an I32 tile takes no codebook and no scales. -/
def tileTakes (tt : Nat) (r : OpRec) : Bool := tt != 5 || (!r.cb && r.sbase == 0)

/-- A record row out of bounds (12 R254). -/
def boundsFlt : Flt := { cause := 8, va := none, map := none }

/-- Poison in a group's operand bytes traps as a machine check (12 R246); poison of a PSN register does not. -/
def poisonTrap (psn : Bool) (c : Nat) : Nat := if c = 4 && !psn then 0x40 else c

/-- The commit of a record form: rows and scales read where its checks found them, in `at_`, and the tile accumulated.
`uses` lists the rows of records that the performed groups read, and `can` what the form changes beside the tile. -/
def commitRows (q : FMode) (can : List Effect) (d : BitVec 3) (c : Nat) (uses : List (OpRec × Nat)) (plans : List (Option RowPlan))
    (performed : Bool) (done : Nat) (at_ s : State) : State :=
  if !performed then s
  else
    let rowsAt := locateRows at_ c uses.eraseDups
    let scalesAt := locateScales at_ c uses.eraseDups
    let s := s.beforeEngine s.cur (rowsAt.places ++ scalesAt.places)
    let rows := readRows s rowsAt
    let scales := readScales rows.2 scalesAt
    let r := accumulate q rows.1 scales.1 plans (scales.2.tile d)
    countElems done (freezeIf true ((scales.2.setTile d r.1).raise (.tile d.toNat :: .counter 5 :: can) r.2))

/-! ## mrw (12 R254) -/

/-- The lowest active element of a group. -/
def firstOf (act : List Nat) (g : Nat) : Option Nat := act.find? (fun e => e / 128 == g)

/-- A trapped record form keeps the records that its check phase has passed; a replay is past that check. -/
def keepRows (rows : List (Option OpRec)) : Out → Out
  | .next s => .next (s.modMe (fun t => { t with replay := t.replay.map (fun r => { r with rows := rows }) }))
  | o => o

/-- The rest of `mrw` after its use check, which poisoned record bytes (`bad`) leave undecided: they fault at the lowest
active element of each group (12 R246). -/
def useRecord (d : BitVec 3) (a : BitVec 7) (b : BitVec 4) (m : Bool) (qr : QReg) (bad : Option Flt) (s : State) : Out :=
  let r := qr.oprec
  let q := s.me.fmode
  let v := s.vreg a
  let act := activeElems s m
  let psn := v.tag == tagPsn && bad.isNone
  let c := qr.j0 / 128
  let checks (g : Nat) : List (Nat × Except Stop Place) :=
    match firstOf act g, bad with
    | none, _ => []
    | some e, some f => [(e, .error (.flt f))]
    | some e, none =>
      if psn then [(e, .error (.flt psnFault))]
      else if r.k ≤ qr.k0 + g then [(e, .error (.flt boundsFlt))]
      else (planeChecks s .read r c (qr.k0 + g) ++
        (if r.sbase = 0 then [] else scaleChecks s .read r c ((qr.k0 + g) / 64))).map (fun x => (e, x))
  settleBy 128 (poisonTrap psn) s id (verdictOf ((groupsBelow s s.me.vec.al).flatMap checks))
    (fun n s' =>
      let gs := if act.isEmpty then [] else groupsBelow s n
      let uses := (gs.filter (fun g => (firstOf act g).isSome)).map (fun g => (r, qr.k0 + g))
      let plans := (List.range 128).map (fun i => some (rowPlan s q m v qr.k0 i gs r))
      commitRows q [] d c uses plans (!gs.isEmpty) (act.filter (· < n)).length s s')
    (fun n s' => s'.setQreg b { qr with k0 := qr.k0 + (n + 127) / 128 })

/-- `mrw`: a replay whose use check had passed goes on; poison in the record's slot is met at its groups, or, without an
active element, as the slot's read meets it. -/
def execMrw (d : BitVec 3) (a : BitVec 7) (b : BitVec 4) (m : Bool) (s : State) : Out :=
  tileIssue s [d] [a] fun _ => granCheck s fun _ => withQreg s b fun qr =>
    let r := qr.oprec
    let tt := (s.tile d).tag
    tagCheck s (actTags (s.vtag a) tt && tileTakes tt r && maskOk s m) fun _ =>
      if (s.me.replay.map (fun x => !x.rows.isEmpty)).getD false then keepRows [some r] (useRecord d a b m qr none s)
      else match useCheck s qr 0 with
        | .ok (true, t) => keepRows [some r] (useRecord d a b m qr none t)
        | .ok (false, _) => instrFault s 0x14
        | .error .wait => .next s
        | .error (.flt f) =>
          if f.cause = 4 && !(activeElems s m).isEmpty then useRecord d a b m qr (some f) s else stopAt s (.flt f)

/-! ## mrx (12 R255) -/

/-- How a row's entry resolves: a record, none, or a refusal with its cause and the address of the refused slot. -/
inductive RowRes where
  | none_
  | rec_ (r : OpRec)
  | refused (cause : Nat) (va : Word)
  deriving DecidableEq, Repr

/-- The final record of an entry: it must be a plane record, used with PERM.USE, that the tile takes. -/
def finalRow (s : State) (tt slot : Nat) (k : RecKind) : RowRes :=
  match k with
  | .plane r =>
    if !(s.onRing r.owner && bitAt r.perm 0) then .refused 0x14 (slotAddr s slot)
    else if !(tileTakes tt r) then .refused 0x12 (slotAddr s slot)
    else .rec_ r
  | _ => .refused 0x13 (slotAddr s slot)

/-- One row's entry resolved. -/
def resolveRow (s : State) (tt entry : Nat) : Except Stop (RowRes × State) :=
  let sel := entry / 2 ^ 30 % 4
  let slot := entry % 65536
  let lim := s.myCtx.budget.records
  if sel = 3 then .ok (.none_, s)
  else if bitsAt entry 16 14 ≠ 0 || lim ≤ slot then .ok (.refused 0x13 (slotAddr s slot), s)
  else match readSlot s slot with
    | .error e => .error e
    | .ok (k, s) =>
      if sel = 0 then .ok (finalRow s tt slot k, s)
      else match k with
        | .link l =>
          let next := if sel = 1 then l.ada else l.adb
          if lim ≤ next then .ok (.refused 0x13 (slotAddr s next), s)
          else match readSlot s next with
            | .error e => .error e
            | .ok (k, s) => .ok (finalRow s tt next k, s)
        | _ => .ok (.refused 0x13 (slotAddr s slot), s)

/-- Every row's entry resolved, in order. -/
def resolveRows (s : State) (tt : Nat) : List Nat → Except Stop (List RowRes × State)
  | [] => .ok ([], s)
  | e :: r =>
    match resolveRow s tt e with
    | .error x => .error x
    | .ok (a, s) =>
      match resolveRows s tt r with
      | .error x => .error x
      | .ok (l, s) => .ok (a :: l, s)

/-- A refusal recorded: its bit in MREF0 or MREF1, and a notice. -/
def refuseRow (s : State) (i cause : Nat) (va : Word) : State :=
  let bit : Word := wordOf (2 ^ (i % 64))
  let s := s.modMe (fun t => { t with mx :=
    if i < 64 then { t.mx with mref0 := t.mx.mref0 ||| bit } else { t.mx with mref1 := t.mx.mref1 ||| bit } })
  postNotice s cause (some va) i [] none

/-- The refusals of rows from i on. -/
def refuseRows (s : State) (i : Nat) : List RowRes → State
  | [] => s
  | .refused c va :: r => refuseRows (refuseRow s i c va) (i + 1) r
  | _ :: r => refuseRows s (i + 1) r

def RowRes.record : RowRes → Option OpRec
  | .rec_ r => some r
  | _ => none

/-- The records of the rows, which a replayed `mrx` has resolved before, and the refusals. Entries in a PSN-tagged
register resolve to nothing. Poison in a slot traps as a scalar access does (12 R255; 06 R110; log entry 85). -/
def resolvedRows (s : State) (tt : Nat) (v : VReg) : Except Stop (List (Option OpRec) × State) :=
  match s.me.replay with
  | some r => .ok (r.rows, s)
  | none =>
    if v.tag = tagPsn then .ok ([], s)
    else match resolveRows s tt ((List.range 128).map (v.read 6)) with
      | .error x => .error x
      | .ok (l, s) => .ok (l.map RowRes.record, refuseRows s 0 l)

/-- The checks of element e of `mrx`: a PSN-tagged operand, the bounds of its row's record, and that row's bytes, which
fault at the element of the row (12 R255; log entry 85). -/
def mrxChecks (s : State) (psn : Bool) (recs : List (Option OpRec)) (e : Nat) : List (Nat × Except Stop Place) :=
  let j0 := s.me.mx.j0
  if psn then [(e, .error (.flt psnFault))]
  else match recs.getD (e % 128) none with
    | none => []
    | some r =>
      let row := s.me.mx.k0 + e / 128
      if r.k ≤ row || r.n < j0 + 128 then [(e, .error (.flt boundsFlt))]
      else (planeChecks s .read r (j0 / 128) row ++
        (if r.sbase = 0 then [] else scaleChecks s .read r (j0 / 128) (row / 64))).map (fun x => (e, x))

/-- `mrx`. While memory of a row is not ready nothing has happened, no refusal either. MXCUR.K0 keeps 21 bits (log entry
83). -/
def execMrx (d : BitVec 3) (a b : BitVec 7) (m : Bool) (s : State) : Out :=
  tileIssue s [d] [a, b] fun _ => granCheck s fun _ =>
    let tt := (s.tile d).tag
    tagCheck s ((s.vtag b == 6 || s.vtag b == tagPsn) && actTags (s.vtag a) tt && maskOk s m) fun _ =>
      match resolvedRows s tt (s.vreg b) with
      | .error e => stopAt s e
      | .ok (recs, t) =>
        let q := s.me.fmode
        let v := s.vreg a
        let act := activeElems s m
        let psn := v.tag == tagPsn || s.vtag b == tagPsn
        let k0 := s.me.mx.k0
        let judged := verdictOf (act.flatMap (mrxChecks t psn recs))
        if judged = .wait then .next s
        else keepRows recs (settleBy 128 (poisonTrap psn) t id judged
          (fun n s' =>
            let gs := if act.isEmpty then [] else groupsBelow s n
            let uses := (act.filter (· < n)).filterMap (fun e =>
              (recs.getD (e % 128) none).map (fun r => (r, k0 + e / 128)))
            let plans := (List.range 128).map (fun i => (recs.getD i none).map (rowPlan s q m v k0 i gs))
            commitRows q [.mx] d (s.me.mx.j0 / 128) uses plans (!gs.isEmpty) (act.filter (· < n)).length t s')
          (fun n s' => s'.modMe (fun t => { t with mx := { t.mx with k0 := (k0 + (n + 127) / 128) % 2 ^ 21 } })))

/-! ## mplane (08 R164, 12 R257) -/

/-- One column of a K-block as block integers: the scale byte, and for each row the integer and its exceptions. The
list holds the weights of rows below AL; the others count as 0. -/
def blockInts (l : List FV) : Nat × List (Int × Flags) :=
  let clean := l.map (fun v => match v with
    | .fin n m e => (FV.fin n m e, (0 : Flags))
    | _ => (FV.fin false 0 0, fInvalid))
  let exps : List Int := clean.filterMap (fun p => match p.1 with
    | .fin _ m e => if m = 0 then none else some ((Nat.log2 m : Int) + e)
    | _ => none)
  match exps with
  | [] => (0, clean.map (fun p => (0, p.2)))
  | x :: r =>
    let top := r.foldl max x
    let k := max (top - 14) (-127)
    ((k + 127).toNat, clean.map (fun p => match p.1 with
      | .fin n m e =>
        let t := roundShift 0 n m (k - e) false
        let q := dyadic n t.1
        if q = 32768 then (32767, orF p.2 fInexact) else (q, orF p.2 (if t.2 then fInexact else 0))
      | _ => (0, p.2)))

/-- What `mplane` writes of a granule: for each record row that one of the elements to be written stands in, the integer
of each column that they cover; and the scale bytes of its K-block. -/
structure Granule where
  rows : List (Nat × List (Option Int))
  scale : Option (Nat × List Nat)
  /-- The exceptions of its elements. -/
  flags : List (Nat × Flags)

/-- An element below AL. -/
def elemBelow (s : State) (e : Nat) : Bool := e < s.me.vec.al

/-- An element of those that are to be written, from `lo` up to below `hi`. -/
def elemIn (lo hi e : Nat) : Bool := lo ≤ e && e < hi

/-- A row none of whose elements is to be written is left alone. -/
def coveredRows (rows : List (Nat × List (Option Int))) : List (Nat × List (Option Int)) :=
  rows.filter (fun r => r.2.any Option.isSome)

/-- Granule j of an integer source: one record row. -/
def intGranule (v : VReg) (p row0 lo hi j : Nat) : Granule :=
  { rows := coveredRows [(row0 + j, (List.range 128).map (fun n =>
      let e := 128 * j + n
      if elemIn lo hi e then
        some (clampInt (-((2 ^ (p - 1) : Nat) : Int)) (((2 ^ (p - 1) : Nat) : Int) - 1)
          (signedOf (tagWidth v.tag) (v.read v.tag e)))
      else none))]
    scale := none, flags := [] }

/-- u of weight k of a codeword (08 R162). -/
def cb2U (x k : Nat) : Int :=
  let h : Int := (1 + 2 * bitsAt x (8 + k) 1 : Nat)
  ((if (cb2Signs x).getD k false then -h else h) - 1) / 2

/-- Granule j of a CB2 source: eight record rows. -/
def cb2Granule (v : VReg) (row0 lo hi j : Nat) : Granule :=
  { rows := coveredRows ((List.range 8).map (fun k => (row0 + 8 * j + k, (List.range 128).map (fun n =>
      let e := 128 * j + n
      if elemIn lo hi e then some (cb2U (v.read 17 e) k) else none))))
    scale := none, flags := [] }

/-- Granule j of a float source: one K-block. Every element of it below AL takes part in the conversion, whichever are
to be written. -/
def floatGranule (s : State) (q : FMode) (v : VReg) (row0 lo hi j : Nat) : Granule :=
  let at_ (k n : Nat) : Nat := 8192 * j + 128 * k + n
  let cols := (List.range 128).map (fun n =>
    blockInts (((List.range 64).filter (fun k => elemBelow s (at_ k n))).map (fun k => valOf q v.tag (v.read v.tag (at_ k n)))))
  { rows := coveredRows ((List.range 64).map (fun k => (row0 + 64 * j + k, (List.range 128).map (fun n =>
      if elemIn lo hi (at_ k n) then (((cols.getD n (0, [])).2)[k]?).map (·.1) else none))))
    scale := some ((row0 + 64 * j) / 64, cols.map (·.1))
    flags := (List.range 64).flatMap (fun k => (List.range 128).filterMap (fun n =>
      if elemIn lo hi (at_ k n) then (((cols.getD n (0, [])).2)[k]?).map (fun x => (at_ k n, x.2)) else none)) }

/-- A plane row with some columns replaced by bit p of their integers. -/
def newPlaneRow (old : List Byte) (p : Nat) (cols : List (Option Int)) : List Byte :=
  (List.range 16).map (fun i =>
    BitVec.ofNat 8 (((List.range 8).map (fun b =>
      let bit := match cols.getD (8 * i + b) none with
        | some x => (x / (2 ^ p : Nat) % 2 == 1)
        | none => (old.getD i 0).getLsbD b
      if bit then 2 ^ b else 0)).sum))

/-- The plane rows and scale bytes of a granule, as places with what is written to them. -/
def granuleWrites (s : State) (r : OpRec) (c : Nat) (g : Granule) : List (List Nat × List Byte) :=
  let pasOf (x : Except Stop Place) : List Nat := match x with
    | .ok p => p.pas
    | .error _ => []
  g.rows.flatMap (fun row => (List.range r.p).map (fun p =>
    let pas := pasOf (checkKeyed s .write r.owner (r.planeRow c p row.1) 16)
    (pas, newPlaneRow (pas.map (fun pa => (s.viewByte s.cur pa).1)) p row.2))) ++
  (match g.scale with
    | none => []
    | some (kb, l) =>
      let pas := (scaleChecks s .write r c kb).flatMap pasOf
      [(pas, l.map (BitVec.ofNat 8))])

/-- Stores of one instruction, over places in order. -/
def storePlaces (all : List Nat) (s : State) : List (List Nat × List Byte) → State
  | [] => s
  | w :: r => storePlaces all (s.store s.cur all w.1 w.2) r

/-- Whether a source tag, the granule, the record and the first row go together (12 R257). -/
def planeSource (ta gran row0 : Nat) (r : OpRec) : Bool :=
  if ta = 1 || ta = 3 || ta = 5 then gran == 7
  else if ta = 17 then gran == 7 && r.cb && row0 % 8 == 0
  else if isShortF ta then gran == 13 && r.p == 16 && r.sbase != 0 && row0 % 64 == 0
  else ta == tagPsn

/-- Granule j of a source, for the elements from `lo` up to below `hi`. -/
def granuleOf (s : State) (q : FMode) (v : VReg) (p row0 lo hi j : Nat) : Granule :=
  if v.tag = 17 then cb2Granule v row0 lo hi j
  else if isShortF v.tag then floatGranule s q v row0 lo hi j
  else intGranule v p row0 lo hi j

/-- The checks of a granule, at its lowest element to be written, and the enabled exceptions of its elements. -/
def granuleChecks (s : State) (r : OpRec) (c e en : Nat) (g : Granule) : List (Nat × Except Stop Place) :=
  (if g.rows.any (fun row => r.k ≤ row.1) then [(e, .error (.flt boundsFlt))]
   else (g.rows.flatMap (fun row => planeChecks s .write r c row.1) ++
     (match g.scale with
       | none => []
       | some (kb, _) => scaleChecks s .write r c kb)).map (fun x => (e, x))) ++
  (g.flags.filter (fun p => trapsOn en p.2)).map (fun p => (p.1, .error (.flt { cause := 7, va := none, map := none })))

/-- The granules of a size that hold an element from `lo` up to below `hi`. -/
def granulesIn (size lo hi : Nat) : List Nat :=
  (List.range ((hi + size - 1) / size)).filter (fun j => lo < (j + 1) * size && lo < hi)

/-- A trim covers whole granules, which are as large as the strip's. A trap at an element leaves those below it written,
and its replay writes the rest (07 R127). -/
def execMplane (d : BitVec 4) (a b : BitVec 7) (s : State) : Out :=
  vecIssue s [a] fun _ => withQreg s d fun qr =>
    let r := qr.oprec
    let v := s.vreg a
    let row0 := (s.rd b).toNat
    tagCheck s (planeSource v.tag s.me.vec.gran row0 r) fun _ =>
      withUse s qr 1 fun s =>
        let q := s.me.fmode
        let c := qr.j0 / 128
        let size := 2 ^ s.me.vec.gran
        let en := s.me.enables
        let psn := v.tag == tagPsn
        let lo := startElem s.me
        let al := s.me.vec.al
        let checks (j : Nat) : List (Nat × Except Stop Place) :=
          if psn then [(max lo (j * size), .error (.flt psnFault))]
          else granuleChecks s r c (max lo (j * size)) en (granuleOf s q v r.p row0 lo al j)
        settleVec s id (verdictOf ((granulesIn size lo al).flatMap checks))
          (fun n s' =>
            let gs := if psn then [] else (granulesIn size lo n).map (granuleOf s q v r.p row0 lo n)
            let ws := gs.flatMap (granuleWrites s r c)
            let s' := if ws.isEmpty then s' else (storePlaces (ws.flatMap (·.1)) s' ws).afterStore s'.cur
            countElems (n - min n lo)
              (countWritten ((ws.map (·.1.length)).sum)
                (s'.raise [.counter 6] ((gs.flatMap (·.flags)).foldl (fun f p => orF f p.2) 0))))
          (fun _ s => s)

/-! ## munplane (12 R258) -/

def execMunplane (d : BitVec 7) (a : BitVec 4) (b : BitVec 7) (s : State) : Out :=
  vecIssue s [d] fun _ => withQreg s a fun qr => chunkWait s d fun _ =>
    withUse s qr 2 fun s =>
      let r := qr.oprec
      let row0 := (s.rd b).toNat
      let c := qr.j0 / 128
      let act := activeElems s false
      let checks (e : Nat) : List (Nat × Except Stop Place) :=
        let row := row0 + e / 128
        if r.k ≤ row then [(e, .error (.flt boundsFlt))] else (planeChecks s .read r c row).map (fun x => (e, x))
      settleVec s (fun s => s.setTag d 5) (verdictOf (act.flatMap checks))
        (fun n s' =>
          let l := act.filter (· < n)
          let rowsAt := locateRows s c (l.map (fun e => (r, row0 + e / 128))).eraseDups
          let rows := readRows (s'.beforeEngine s'.cur rowsAt.places) rowsAt
          countElems l.length (rows.2.writeElems d 5
            (l.map (fun e => (e, wrapTo 4 (lookRow rows.1 (r, row0 + e / 128) (e % 128)))))))
        (fun _ s => s)

end Sys2Proof.Machine
end

