-- ==== Sys2Proof/Machine/Scalar.lean ====
section
/-! DEFINITION. The scalar integer instructions (06 R100 to R106). -/

namespace Sys2Proof.Machine

/-- A result computed from two registers. -/
def alu (f : Word → Word → Word) (d a b : BitVec 7) (s : State) : Out := s.finish d (f (s.rd a) (s.rd b))

/-- A shift amount: bits [5:0] of the operand (06 R100). -/
def shamt (x : Word) : Nat := x.toNat % 64

def execAdd (d a b : BitVec 7) (s : State) : Out := alu (fun x y => x + y) d a b s

def execSub (d a b : BitVec 7) (s : State) : Out := alu (fun x y => x - y) d a b s

def execAnd (d a b : BitVec 7) (s : State) : Out := alu (fun x y => x &&& y) d a b s

def execOr (d a b : BitVec 7) (s : State) : Out := alu (fun x y => x ||| y) d a b s

def execXor (d a b : BitVec 7) (s : State) : Out := alu (fun x y => x ^^^ y) d a b s

def execAndn (d a b : BitVec 7) (s : State) : Out := alu (fun x y => x &&& ~~~y) d a b s

def execOrn (d a b : BitVec 7) (s : State) : Out := alu (fun x y => x ||| ~~~y) d a b s

def execXnor (d a b : BitVec 7) (s : State) : Out := alu (fun x y => ~~~(x ^^^ y)) d a b s

def execSll (d a b : BitVec 7) (s : State) : Out := alu (fun x y => x <<< shamt y) d a b s

def execSrl (d a b : BitVec 7) (s : State) : Out := alu (fun x y => x >>> shamt y) d a b s

def execSra (d a b : BitVec 7) (s : State) : Out := alu (fun x y => x.sshiftRight (shamt y)) d a b s

def execRor (d a b : BitVec 7) (s : State) : Out := alu (fun x y => x.rotateRight (shamt y)) d a b s

def execMin (d a b : BitVec 7) (s : State) : Out := alu (fun x y => if x.slt y then x else y) d a b s

def execMax (d a b : BitVec 7) (s : State) : Out := alu (fun x y => if x.slt y then y else x) d a b s

def execMinn (d a b : BitVec 7) (s : State) : Out := alu (fun x y => if x.ult y then x else y) d a b s

def execMaxn (d a b : BitVec 7) (s : State) : Out := alu (fun x y => if x.ult y then y else x) d a b s

/-! ## Immediates (06 R101, R102) -/

/-- A result computed from a register and a signed imm11. -/
def aluImm (f : Word → Word → Word) (d a : BitVec 7) (imm : BitVec 11) (s : State) : Out :=
  s.finish d (f (s.rd a) (imm.signExtend 64))

def execAddi (d a : BitVec 7) (imm : BitVec 11) (s : State) : Out := aluImm (fun x y => x + y) d a imm s

def execAndi (d a : BitVec 7) (imm : BitVec 11) (s : State) : Out := aluImm (fun x y => x &&& y) d a imm s

def execOri (d a : BitVec 7) (imm : BitVec 11) (s : State) : Out := aluImm (fun x y => x ||| y) d a imm s

def execXori (d a : BitVec 7) (imm : BitVec 11) (s : State) : Out := aluImm (fun x y => x ^^^ y) d a imm s

def execSlli (d a : BitVec 7) (k : BitVec 6) (s : State) : Out := s.finish d (s.rd a <<< k.toNat)

def execSrli (d a : BitVec 7) (k : BitVec 6) (s : State) : Out := s.finish d (s.rd a >>> k.toNat)

def execSrai (d a : BitVec 7) (k : BitVec 6) (s : State) : Out := s.finish d ((s.rd a).sshiftRight k.toNat)

def execRori (d a : BitVec 7) (k : BitVec 6) (s : State) : Out := s.finish d ((s.rd a).rotateRight k.toNat)

/-- 1 when a condition on two registers holds, else 0 (06 R102). -/
def cmpRR (f : Word → Word → Bool) (d a b : BitVec 7) (s : State) : Out := s.finish d (b2w (f (s.rd a) (s.rd b)))

/-- 1 when a condition on a register and a sign-extended imm8 holds, else 0. -/
def cmpRI (f : Word → Word → Bool) (d a : BitVec 7) (imm : BitVec 8) (s : State) : Out :=
  s.finish d (b2w (f (s.rd a) (imm.signExtend 64)))

def execSeq (d a b : BitVec 7) (s : State) : Out := cmpRR (fun x y => x == y) d a b s

def execSne (d a b : BitVec 7) (s : State) : Out := cmpRR (fun x y => x != y) d a b s

def execSlt (d a b : BitVec 7) (s : State) : Out := cmpRR (fun x y => x.slt y) d a b s

def execSge (d a b : BitVec 7) (s : State) : Out := cmpRR (fun x y => !(x.slt y)) d a b s

def execSltn (d a b : BitVec 7) (s : State) : Out := cmpRR (fun x y => x.ult y) d a b s

def execSgen (d a b : BitVec 7) (s : State) : Out := cmpRR (fun x y => !(x.ult y)) d a b s

def execSeqi (d a : BitVec 7) (imm : BitVec 8) (s : State) : Out := cmpRI (fun x y => x == y) d a imm s

def execSnei (d a : BitVec 7) (imm : BitVec 8) (s : State) : Out := cmpRI (fun x y => x != y) d a imm s

def execSlti (d a : BitVec 7) (imm : BitVec 8) (s : State) : Out := cmpRI (fun x y => x.slt y) d a imm s

def execSgei (d a : BitVec 7) (imm : BitVec 8) (s : State) : Out := cmpRI (fun x y => !(x.slt y)) d a imm s

def execSltni (d a : BitVec 7) (imm : BitVec 8) (s : State) : Out := cmpRI (fun x y => x.ult y) d a imm s

def execSgeni (d a : BitVec 7) (imm : BitVec 8) (s : State) : Out := cmpRI (fun x y => !(x.ult y)) d a imm s

/-! ## Multiply and divide (06 R103) -/

/-- High 64 bits of the signed product. -/
def mulHigh (x y : Word) : Word := BitVec.ofInt 64 (x.toInt * y.toInt / 2 ^ 64)

/-- High 64 bits of the unsigned product. -/
def mulHighN (x y : Word) : Word := BitVec.ofNat 64 (x.toNat * y.toNat / 2 ^ 64)

/-- Signed quotient rounded toward zero; a divisor of 0 gives all ones. -/
def divS (x y : Word) : Word := if y = 0 then -1 else BitVec.ofInt 64 (x.toInt.tdiv y.toInt)

def divU (x y : Word) : Word := if y = 0 then -1 else BitVec.ofNat 64 (x.toNat / y.toNat)

/-- Signed remainder with the sign of the dividend; a divisor of 0 gives the dividend. -/
def remS (x y : Word) : Word := if y = 0 then x else BitVec.ofInt 64 (x.toInt.tmod y.toInt)

def remU (x y : Word) : Word := if y = 0 then x else BitVec.ofNat 64 (x.toNat % y.toNat)

def execMul (d a b : BitVec 7) (s : State) : Out := alu (fun x y => x * y) d a b s

def execMulh (d a b : BitVec 7) (s : State) : Out := alu mulHigh d a b s

def execMulhn (d a b : BitVec 7) (s : State) : Out := alu mulHighN d a b s

def execDiv (d a b : BitVec 7) (s : State) : Out := alu divS d a b s

def execDivn (d a b : BitVec 7) (s : State) : Out := alu divU d a b s

def execRem (d a b : BitVec 7) (s : State) : Out := alu remS d a b s

def execRemn (d a b : BitVec 7) (s : State) : Out := alu remU d a b s

/-! ## Bit operations (06 R104) -/

/-- Leading zero bits among the low `n`. -/
def leadingZeros : Nat → Nat → Nat
  | 0, _ => 0
  | n + 1, x => if bitAt x n then 0 else leadingZeros n x + 1

/-- Trailing zero bits, at most `n`. -/
def trailingZeros : Nat → Nat → Nat
  | 0, _ => 0
  | n + 1, x => if x % 2 = 1 then 0 else trailingZeros n (x / 2) + 1

/-- The low `n` bits in reverse order. -/
def reverseBits : Nat → Nat → Nat
  | 0, _ => 0
  | n + 1, x => x % 2 * 2 ^ n + reverseBits n (x / 2)

/-- A result computed from one register. -/
def unary (f : Word → Word) (d a : BitVec 7) (s : State) : Out := s.finish d (f (s.rd a))

def execClz (d a : BitVec 7) (s : State) : Out := unary (fun x => BitVec.ofNat 64 (leadingZeros 64 x.toNat)) d a s

def execCtz (d a : BitVec 7) (s : State) : Out := unary (fun x => BitVec.ofNat 64 (trailingZeros 64 x.toNat)) d a s

def execPopc (d a : BitVec 7) (s : State) : Out := unary (fun x => BitVec.ofNat 64 (popCount 64 x.toNat)) d a s

def execBrev (d a : BitVec 7) (s : State) : Out := unary (fun x => BitVec.ofNat 64 (reverseBits 64 x.toNat)) d a s

def execBswap (d a : BitVec 7) (s : State) : Out :=
  unary (fun x => BitVec.ofNat 64 (leNat (leBytes 8 x.toNat).reverse)) d a s

def execSxb (d a : BitVec 7) (s : State) : Out := unary (fun x => sext64 8 x.toNat) d a s

def execSxh (d a : BitVec 7) (s : State) : Out := unary (fun x => sext64 16 x.toNat) d a s

def execSxw (d a : BitVec 7) (s : State) : Out := unary (fun x => sext64 32 x.toNat) d a s

/-! ## Selects, scaled and multiply-add forms (06 R105) -/

def execSeln (d a b : BitVec 7) (s : State) : Out := s.finish d (if s.rd b ≠ 0 then s.rd a else s.rd d)

def execSelz (d a b : BitVec 7) (s : State) : Out := s.finish d (if s.rd b = 0 then s.rd a else s.rd d)

def execAdds (d a b : BitVec 7) (k : BitVec 4) (s : State) : Out := s.finish d (s.rd a + (s.rd b <<< k.toNat))

def execMadd (d a b : BitVec 7) (s : State) : Out := s.finish d (s.rd d + s.rd a * s.rd b)

def execMsub (d a b : BitVec 7) (s : State) : Out := s.finish d (s.rd d - s.rd a * s.rd b)

/-! ## Constants (06 R106) -/

def execLhi (d : BitVec 7) (imm : BitVec 18) (s : State) : Out := s.finish d (imm.signExtend 64 <<< 10)

def execLpc (d : BitVec 7) (imm : BitVec 18) (s : State) : Out :=
  s.finish d ((s.me.curPc &&& ~~~0x3FF#64) + (imm.signExtend 64 <<< 10))

def execLix (d : BitVec 7) (imm : BitVec 18) (s : State) : Out :=
  s.finish d ((s.rd d <<< 18) ||| imm.setWidth 64)

end Sys2Proof.Machine
end

