-- ==== Sys2Proof/Machine/ScalarFp.lean ====
section
/-! DEFINITION. Scalar binary64 (06 R115, R116). FLUSH never applies here. -/

namespace Sys2Proof.Machine

/-- A register read as binary64. -/
def fp64 (x : Word) : FV := fmtFp64.decode false x.toNat

/-- A result with its exceptions: an enabled one traps with cause 0x07 and writes nothing (06 R116). -/
def fpFinish (d : BitVec 7) (v : Word) (f : Flags) (s : State) : Out :=
  if trapsOn s.me.enables f then .next (trapAt s 7 none 0 none) else (s.raiseNow f).finish d v

/-- A binary64 result. -/
def fpResult (d : BitVec 7) (r : Nat × Flags) (s : State) : Out := fpFinish d (BitVec.ofNat 64 r.1) r.2 s

def execFadd (d a b : BitVec 7) (s : State) : Out :=
  let rm := s.me.rm
  fpResult d (fmtFp64.result rm false (addFV rm (fp64 (s.rd a)) (fp64 (s.rd b)))) s

def execFsub (d a b : BitVec 7) (s : State) : Out :=
  let rm := s.me.rm
  fpResult d (fmtFp64.result rm false (addFV rm (fp64 (s.rd a)) (fp64 (s.rd b)).negate)) s

def execFmul (d a b : BitVec 7) (s : State) : Out :=
  fpResult d (fmtFp64.result s.me.rm false (mulFV (fp64 (s.rd a)) (fp64 (s.rd b)))) s

def execFdiv (d a b : BitVec 7) (s : State) : Out :=
  fpResult d (fmtFp64.div s.me.rm false (fp64 (s.rd a)) (fp64 (s.rd b))) s

def execFsqrt (d a : BitVec 7) (s : State) : Out := fpResult d (fmtFp64.sqrt s.me.rm false (fp64 (s.rd a))) s

/-- Minimum or maximum: the selected operand as it stands. -/
def fpPick (max_ : Bool) (d a b : BitVec 7) (s : State) : Out :=
  let r := pickFV max_ (fp64 (s.rd a)) (fp64 (s.rd b))
  let v := match r.1 with
    | .first => s.rd a
    | .second => s.rd b
    | .nan => BitVec.ofNat 64 fmtFp64.nan
  fpFinish d v r.2 s

def execFmin (d a b : BitVec 7) (s : State) : Out := fpPick false d a b s

def execFmax (d a b : BitVec 7) (s : State) : Out := fpPick true d a b s

def execFcvtif (d a : BitVec 7) (s : State) : Out :=
  fpResult d (fmtFp64.deliver s.me.rm false (ofInt (s.rd a).toInt) 0) s

def execFcvtfi (d a : BitVec 7) (s : State) : Out :=
  let r := toInt s.me.rm (-(2 ^ 63)) (2 ^ 63 - 1) (fp64 (s.rd a))
  fpFinish d (BitVec.ofInt 64 r.1) r.2 s

/-- A comparison. -/
def fpCompare (op : Nat) (d a b : BitVec 7) (s : State) : Out :=
  let r := compareFV op (fp64 (s.rd a)) (fp64 (s.rd b))
  fpFinish d (b2w r.1) r.2 s

def execFlt (d a b : BitVec 7) (s : State) : Out := fpCompare 0 d a b s

def execFeq (d a b : BitVec 7) (s : State) : Out := fpCompare 1 d a b s

def execFle (d a b : BitVec 7) (s : State) : Out := fpCompare 2 d a b s

/-- gd + ga × gb with a single rounding. -/
def execFmac (d a b : BitVec 7) (s : State) : Out :=
  let rm := s.me.rm
  let p := mulFV (fp64 (s.rd a)) (fp64 (s.rd b))
  let t := addFV rm p.1 (fp64 (s.rd d))
  fpResult d (fmtFp64.result rm false (t.1, orF p.2 t.2)) s

end Sys2Proof.Machine
end

