-- ==== Sys2Proof/Machine/Dispatch.lean ====
section
/-! DEFINITION. The dispatch: one direct call of a meaning for each constructor of the syntax. -/

namespace Sys2Proof.Machine

/-- One instruction or event. -/
def exec (i : Instr) (s : State) : Host.Outcome State Fault Refusal :=
  match i with
  | .add d a b => Sys2Proof.Machine.execAdd d a b s
  | .sub d a b => Sys2Proof.Machine.execSub d a b s
  | .and d a b => Sys2Proof.Machine.execAnd d a b s
  | .or d a b => Sys2Proof.Machine.execOr d a b s
  | .xor d a b => Sys2Proof.Machine.execXor d a b s
  | .andn d a b => Sys2Proof.Machine.execAndn d a b s
  | .orn d a b => Sys2Proof.Machine.execOrn d a b s
  | .xnor d a b => Sys2Proof.Machine.execXnor d a b s
  | .sll d a b => Sys2Proof.Machine.execSll d a b s
  | .srl d a b => Sys2Proof.Machine.execSrl d a b s
  | .sra d a b => Sys2Proof.Machine.execSra d a b s
  | .ror d a b => Sys2Proof.Machine.execRor d a b s
  | .min d a b => Sys2Proof.Machine.execMin d a b s
  | .max d a b => Sys2Proof.Machine.execMax d a b s
  | .minn d a b => Sys2Proof.Machine.execMinn d a b s
  | .maxn d a b => Sys2Proof.Machine.execMaxn d a b s
  | .addi d a i_ => Sys2Proof.Machine.execAddi d a i_ s
  | .andi d a i_ => Sys2Proof.Machine.execAndi d a i_ s
  | .ori d a i_ => Sys2Proof.Machine.execOri d a i_ s
  | .xori d a i_ => Sys2Proof.Machine.execXori d a i_ s
  | .slli d a k => Sys2Proof.Machine.execSlli d a k s
  | .srli d a k => Sys2Proof.Machine.execSrli d a k s
  | .srai d a k => Sys2Proof.Machine.execSrai d a k s
  | .rori d a k => Sys2Proof.Machine.execRori d a k s
  | .seq d a b => Sys2Proof.Machine.execSeq d a b s
  | .sne d a b => Sys2Proof.Machine.execSne d a b s
  | .slt d a b => Sys2Proof.Machine.execSlt d a b s
  | .sge d a b => Sys2Proof.Machine.execSge d a b s
  | .sltn d a b => Sys2Proof.Machine.execSltn d a b s
  | .sgen d a b => Sys2Proof.Machine.execSgen d a b s
  | .seqi d a i_ => Sys2Proof.Machine.execSeqi d a i_ s
  | .snei d a i_ => Sys2Proof.Machine.execSnei d a i_ s
  | .slti d a i_ => Sys2Proof.Machine.execSlti d a i_ s
  | .sgei d a i_ => Sys2Proof.Machine.execSgei d a i_ s
  | .sltni d a i_ => Sys2Proof.Machine.execSltni d a i_ s
  | .sgeni d a i_ => Sys2Proof.Machine.execSgeni d a i_ s
  | .mul d a b => Sys2Proof.Machine.execMul d a b s
  | .mulh d a b => Sys2Proof.Machine.execMulh d a b s
  | .mulhn d a b => Sys2Proof.Machine.execMulhn d a b s
  | .div d a b => Sys2Proof.Machine.execDiv d a b s
  | .divn d a b => Sys2Proof.Machine.execDivn d a b s
  | .rem d a b => Sys2Proof.Machine.execRem d a b s
  | .remn d a b => Sys2Proof.Machine.execRemn d a b s
  | .clz d a => Sys2Proof.Machine.execClz d a s
  | .ctz d a => Sys2Proof.Machine.execCtz d a s
  | .popc d a => Sys2Proof.Machine.execPopc d a s
  | .brev d a => Sys2Proof.Machine.execBrev d a s
  | .bswap d a => Sys2Proof.Machine.execBswap d a s
  | .sxb d a => Sys2Proof.Machine.execSxb d a s
  | .sxh d a => Sys2Proof.Machine.execSxh d a s
  | .sxw d a => Sys2Proof.Machine.execSxw d a s
  | .lhi d i_ => Sys2Proof.Machine.execLhi d i_ s
  | .lpc d i_ => Sys2Proof.Machine.execLpc d i_ s
  | .lix d i_ => Sys2Proof.Machine.execLix d i_ s
  | .seln d a b => Sys2Proof.Machine.execSeln d a b s
  | .selz d a b => Sys2Proof.Machine.execSelz d a b s
  | .adds d a b s_ => Sys2Proof.Machine.execAdds d a b s_ s
  | .madd d a b => Sys2Proof.Machine.execMadd d a b s
  | .msub d a b => Sys2Proof.Machine.execMsub d a b s
  | .j s_ => Sys2Proof.Machine.execJ s_ s
  | .jal s_ => Sys2Proof.Machine.execJal s_ s
  | .jr a => Sys2Proof.Machine.execJr a s
  | .jalr d a => Sys2Proof.Machine.execJalr d a s
  | .beqz a s_ => Sys2Proof.Machine.execBeqz a s_ s
  | .bnez a s_ => Sys2Proof.Machine.execBnez a s_ s
  | .bltz a s_ => Sys2Proof.Machine.execBltz a s_ s
  | .bgez a s_ => Sys2Proof.Machine.execBgez a s_ s
  | .bgtz a s_ => Sys2Proof.Machine.execBgtz a s_ s
  | .blez a s_ => Sys2Proof.Machine.execBlez a s_ s
  | .btrim s_ => Sys2Proof.Machine.execBtrim s_ s
  | .bdone s_ => Sys2Proof.Machine.execBdone s_ s
  | .winb n => Sys2Proof.Machine.execWinb n s
  | .winba n => Sys2Proof.Machine.execWinba n s
  | .hintYield => Sys2Proof.Machine.execHintYield s
  | .hintPause n => Sys2Proof.Machine.execHintPause n s
  | .hintPrefi s_ => Sys2Proof.Machine.execHintPrefi s_ s
  | .svc n => Sys2Proof.Machine.execSvc n s
  | .upcall n => Sys2Proof.Machine.execUpcall n s
  | .eret => Sys2Proof.Machine.execEret s
  | .exit a => Sys2Proof.Machine.execExit a s
  | .abort a => Sys2Proof.Machine.execAbort a s
  | .crd d c => Sys2Proof.Machine.execCrd d c s
  | .cwr a c => Sys2Proof.Machine.execCwr a c s
  | .cxchg d a c => Sys2Proof.Machine.execCxchg d a c s
  | .ebreak n => Sys2Proof.Machine.execEbreak n s
  | .coord d w => Sys2Proof.Machine.execCoord d w s
  | .probe d a => Sys2Proof.Machine.execProbe d a s
  | .probec d a b => Sys2Proof.Machine.execProbec d a b s
  | .ld d a w k => Sys2Proof.Machine.execLd d a w k s
  | .st d a w k => Sys2Proof.Machine.execSt d a w k s
  | .ldx d a b w => Sys2Proof.Machine.execLdx d a b w s
  | .stx d a b w => Sys2Proof.Machine.execStx d a b w s
  | .amoadd d a b => Sys2Proof.Machine.execAmoadd d a b s
  | .amoswap d a b => Sys2Proof.Machine.execAmoswap d a b s
  | .amocas d a b => Sys2Proof.Machine.execAmocas d a b s
  | .amoand d a b => Sys2Proof.Machine.execAmoand d a b s
  | .amoor d a b => Sys2Proof.Machine.execAmoor d a b s
  | .amoxor d a b => Sys2Proof.Machine.execAmoxor d a b s
  | .amomin d a b => Sys2Proof.Machine.execAmomin d a b s
  | .amomax d a b => Sys2Proof.Machine.execAmomax d a b s
  | .amominn d a b => Sys2Proof.Machine.execAmominn d a b s
  | .amomaxn d a b => Sys2Proof.Machine.execAmomaxn d a b s
  | .amoaddW d a b => Sys2Proof.Machine.execAmoaddW d a b s
  | .amoswapW d a b => Sys2Proof.Machine.execAmoswapW d a b s
  | .amocasW d a b => Sys2Proof.Machine.execAmocasW d a b s
  | .amoandW d a b => Sys2Proof.Machine.execAmoandW d a b s
  | .amoorW d a b => Sys2Proof.Machine.execAmoorW d a b s
  | .amoxorW d a b => Sys2Proof.Machine.execAmoxorW d a b s
  | .cacheFlush a => Sys2Proof.Machine.execCacheFlush a s
  | .cacheInval a => Sys2Proof.Machine.execCacheInval a s
  | .cacheZero a => Sys2Proof.Machine.execCacheZero a s
  | .cachePref a => Sys2Proof.Machine.execCachePref a s
  | .fadd d a b => Sys2Proof.Machine.execFadd d a b s
  | .fsub d a b => Sys2Proof.Machine.execFsub d a b s
  | .fmul d a b => Sys2Proof.Machine.execFmul d a b s
  | .fdiv d a b => Sys2Proof.Machine.execFdiv d a b s
  | .fsqrt d a => Sys2Proof.Machine.execFsqrt d a s
  | .fmin d a b => Sys2Proof.Machine.execFmin d a b s
  | .fmax d a b => Sys2Proof.Machine.execFmax d a b s
  | .fcvtif d a => Sys2Proof.Machine.execFcvtif d a s
  | .fcvtfi d a => Sys2Proof.Machine.execFcvtfi d a s
  | .flt d a b => Sys2Proof.Machine.execFlt d a b s
  | .feq d a b => Sys2Proof.Machine.execFeq d a b s
  | .fle d a b => Sys2Proof.Machine.execFle d a b s
  | .fmac d a b => Sys2Proof.Machine.execFmac d a b s
  | .phase s_ => Sys2Proof.Machine.execPhase s_ s
  | .arrive a b s_ => Sys2Proof.Machine.execArrive a b s_ s
  | .waitb a b s_ => Sys2Proof.Machine.execWaitb a b s_ s
  | .waitv a b s_ => Sys2Proof.Machine.execWaitv a b s_ s
  | .waitc a b s_ => Sys2Proof.Machine.execWaitc a b s_ s
  | .vacq a => Sys2Proof.Machine.execVacq a s
  | .racqr d a b => Sys2Proof.Machine.execRacqr d a b s
  | .rrelr a b => Sys2Proof.Machine.execRrelr a b s
  | .racqw d a b => Sys2Proof.Machine.execRacqw d a b s
  | .rrelw a b => Sys2Proof.Machine.execRrelw a b s
  | .xcopy d a b => Sys2Proof.Machine.execXcopy d a b s
  | .xquery d a => Sys2Proof.Machine.execXquery d a s
  | .xcancel d a => Sys2Proof.Machine.execXcancel d a s
  | .tlbinv d a b => Sys2Proof.Machine.execTlbinv d a b s
  | .tlbinvc d a => Sys2Proof.Machine.execTlbinvc d a s
  | .pgmig d a b => Sys2Proof.Machine.execPgmig d a b s
  | .setvl d a g f t => Sys2Proof.Machine.execSetvl d a g f t s
  | .vdecl c => Sys2Proof.Machine.execVdecl c s
  | .loop a n => Sys2Proof.Machine.execLoop a n s
  | .loopP a n => Sys2Proof.Machine.execLoopP a n s
  | .bump d a s_ => Sys2Proof.Machine.execBump d a s_ s
  | .vmv d a m z => Sys2Proof.Machine.execVmv d a m z s
  | .vsplat d a m z => Sys2Proof.Machine.execVsplat d a m z s
  | .vext d a b => Sys2Proof.Machine.execVext d a b s
  | .vins d a b => Sys2Proof.Machine.execVins d a b s
  | .vperm d a b m z => Sys2Proof.Machine.execVperm d a b m z s
  | .vslup d a b m z => Sys2Proof.Machine.execVslup d a b m z s
  | .vsldn d a b m z => Sys2Proof.Machine.execVsldn d a b m z s
  | .vrev d a m z => Sys2Proof.Machine.execVrev d a m z s
  | .vcompress d a b z => Sys2Proof.Machine.execVcompress d a b z s
  | .vexpand d a b z => Sys2Proof.Machine.execVexpand d a b z s
  | .viota d a m z => Sys2Proof.Machine.execViota d a m z s
  | .vid d m z => Sys2Proof.Machine.execVid d m z s
  | .vredadd d a m => Sys2Proof.Machine.execVredadd d a m s
  | .vredmin d a m => Sys2Proof.Machine.execVredmin d a m s
  | .vredmax d a m => Sys2Proof.Machine.execVredmax d a m s
  | .vredminn d a m => Sys2Proof.Machine.execVredminn d a m s
  | .vredand d a m => Sys2Proof.Machine.execVredand d a m s
  | .vredor d a m => Sys2Proof.Machine.execVredor d a m s
  | .vredxor d a m => Sys2Proof.Machine.execVredxor d a m s
  | .vredmaxn d a m => Sys2Proof.Machine.execVredmaxn d a m s
  | .vfredsum d a m => Sys2Proof.Machine.execVfredsum d a m s
  | .vfredseq d a m => Sys2Proof.Machine.execVfredseq d a m s
  | .vfredmin d a m => Sys2Proof.Machine.execVfredmin d a m s
  | .vfredmax d a m => Sys2Proof.Machine.execVfredmax d a m s
  | .mand d a b => Sys2Proof.Machine.execMand d a b s
  | .mor d a b => Sys2Proof.Machine.execMor d a b s
  | .mxor d a b => Sys2Proof.Machine.execMxor d a b s
  | .mnot d a => Sys2Proof.Machine.execMnot d a s
  | .mpopc d a m => Sys2Proof.Machine.execMpopc d a m s
  | .mfirst d a m => Sys2Proof.Machine.execMfirst d a m s
  | .mlast d a m => Sys2Proof.Machine.execMlast d a m s
  | .vretag d a t => Sys2Proof.Machine.execVretag d a t s
  | .vtagq d a => Sys2Proof.Machine.execVtagq d a s
  | .vshape d a => Sys2Proof.Machine.execVshape d a s
  | .vsegsum d a m z => Sys2Proof.Machine.execVsegsum d a m z s
  | .vsegmin d a m z => Sys2Proof.Machine.execVsegmin d a m z s
  | .vsegmax d a m z => Sys2Proof.Machine.execVsegmax d a m z s
  | .vsegfsum d a m z => Sys2Proof.Machine.execVsegfsum d a m z s
  | .vmaxvl d => Sys2Proof.Machine.execVmaxvl d s
  | .vlanes d => Sys2Proof.Machine.execVlanes d s
  | .vaddr d a b m z => Sys2Proof.Machine.execVaddr d a b m z s
  | .vadd d a b m z => Sys2Proof.Machine.execVadd d a b m z s
  | .vaddX d a b m z => Sys2Proof.Machine.execVaddX d a b m z s
  | .vsub d a b m z => Sys2Proof.Machine.execVsub d a b m z s
  | .vsubX d a b m z => Sys2Proof.Machine.execVsubX d a b m z s
  | .vand d a b m z => Sys2Proof.Machine.execVand d a b m z s
  | .vor d a b m z => Sys2Proof.Machine.execVor d a b m z s
  | .vxor d a b m z => Sys2Proof.Machine.execVxor d a b m z s
  | .vandn d a b m z => Sys2Proof.Machine.execVandn d a b m z s
  | .vsll d a b m z => Sys2Proof.Machine.execVsll d a b m z s
  | .vsrl d a b m z => Sys2Proof.Machine.execVsrl d a b m z s
  | .vsra d a b m z => Sys2Proof.Machine.execVsra d a b m z s
  | .vror d a b m z => Sys2Proof.Machine.execVror d a b m z s
  | .vsllX d a b m z => Sys2Proof.Machine.execVsllX d a b m z s
  | .vsrlX d a b m z => Sys2Proof.Machine.execVsrlX d a b m z s
  | .vsraX d a b m z => Sys2Proof.Machine.execVsraX d a b m z s
  | .vrorX d a b m z => Sys2Proof.Machine.execVrorX d a b m z s
  | .vmul d a b m z => Sys2Proof.Machine.execVmul d a b m z s
  | .vmulh d a b m z => Sys2Proof.Machine.execVmulh d a b m z s
  | .vmulhn d a b m z => Sys2Proof.Machine.execVmulhn d a b m z s
  | .vmacc d a b m z => Sys2Proof.Machine.execVmacc d a b m z s
  | .vmin d a b m z => Sys2Proof.Machine.execVmin d a b m z s
  | .vmax d a b m z => Sys2Proof.Machine.execVmax d a b m z s
  | .vminn d a b m z => Sys2Proof.Machine.execVminn d a b m z s
  | .vmaxn d a b m z => Sys2Proof.Machine.execVmaxn d a b m z s
  | .vaddsat d a b m z => Sys2Proof.Machine.execVaddsat d a b m z s
  | .vsubsat d a b m z => Sys2Proof.Machine.execVsubsat d a b m z s
  | .vaddsatn d a b m z => Sys2Proof.Machine.execVaddsatn d a b m z s
  | .vsubsatn d a b m z => Sys2Proof.Machine.execVsubsatn d a b m z s
  | .vseq d a b m z => Sys2Proof.Machine.execVseq d a b m z s
  | .vsne d a b m z => Sys2Proof.Machine.execVsne d a b m z s
  | .vslt d a b m z => Sys2Proof.Machine.execVslt d a b m z s
  | .vsltn d a b m z => Sys2Proof.Machine.execVsltn d a b m z s
  | .vseqX d a b m z => Sys2Proof.Machine.execVseqX d a b m z s
  | .vsneX d a b m z => Sys2Proof.Machine.execVsneX d a b m z s
  | .vsltX d a b m z => Sys2Proof.Machine.execVsltX d a b m z s
  | .vsltnX d a b m z => Sys2Proof.Machine.execVsltnX d a b m z s
  | .vdiv d a b m z => Sys2Proof.Machine.execVdiv d a b m z s
  | .vdivn d a b m z => Sys2Proof.Machine.execVdivn d a b m z s
  | .vrem d a b m z => Sys2Proof.Machine.execVrem d a b m z s
  | .vremn d a b m z => Sys2Proof.Machine.execVremn d a b m z s
  | .vabs d a m z => Sys2Proof.Machine.execVabs d a m z s
  | .vneg d a m z => Sys2Proof.Machine.execVneg d a m z s
  | .vclz d a m z => Sys2Proof.Machine.execVclz d a m z s
  | .vpopc d a m z => Sys2Proof.Machine.execVpopc d a m z s
  | .vwiden d a m z => Sys2Proof.Machine.execVwiden d a m z s
  | .vwidenn d a m z => Sys2Proof.Machine.execVwidenn d a m z s
  | .vnarrow d a m z => Sys2Proof.Machine.execVnarrow d a m z s
  | .vnarrowsat d a m z => Sys2Proof.Machine.execVnarrowsat d a m z s
  | .vmerge d a b z => Sys2Proof.Machine.execVmerge d a b z s
  | .vmergeX d a b z => Sys2Proof.Machine.execVmergeX d a b z s
  | .vdot4 d a b m z => Sys2Proof.Machine.execVdot4 d a b m z s
  | .vdot4n d a b m z => Sys2Proof.Machine.execVdot4n d a b m z s
  | .vdot2 d a b m z => Sys2Proof.Machine.execVdot2 d a b m z s
  | .vmaccX d a b m z => Sys2Proof.Machine.execVmaccX d a b m z s
  | .vclamp d a b m z => Sys2Proof.Machine.execVclamp d a b m z s
  | .vfadd d a b m z => Sys2Proof.Machine.execVfadd d a b m z s
  | .vfaddX d a b m z => Sys2Proof.Machine.execVfaddX d a b m z s
  | .vfsub d a b m z => Sys2Proof.Machine.execVfsub d a b m z s
  | .vfsubX d a b m z => Sys2Proof.Machine.execVfsubX d a b m z s
  | .vfmul d a b m z => Sys2Proof.Machine.execVfmul d a b m z s
  | .vfmulX d a b m z => Sys2Proof.Machine.execVfmulX d a b m z s
  | .vfdiv d a b m z => Sys2Proof.Machine.execVfdiv d a b m z s
  | .vfdivX d a b m z => Sys2Proof.Machine.execVfdivX d a b m z s
  | .vfma d a b m z => Sys2Proof.Machine.execVfma d a b m z s
  | .vfms d a b m z => Sys2Proof.Machine.execVfms d a b m z s
  | .vfnma d a b m z => Sys2Proof.Machine.execVfnma d a b m z s
  | .vfnms d a b m z => Sys2Proof.Machine.execVfnms d a b m z s
  | .vfmaX d a b m z => Sys2Proof.Machine.execVfmaX d a b m z s
  | .vfmsX d a b m z => Sys2Proof.Machine.execVfmsX d a b m z s
  | .vfnmaX d a b m z => Sys2Proof.Machine.execVfnmaX d a b m z s
  | .vfnmsX d a b m z => Sys2Proof.Machine.execVfnmsX d a b m z s
  | .vfmin d a b m z => Sys2Proof.Machine.execVfmin d a b m z s
  | .vfmax d a b m z => Sys2Proof.Machine.execVfmax d a b m z s
  | .vfabs d a m z => Sys2Proof.Machine.execVfabs d a m z s
  | .vfneg d a m z => Sys2Proof.Machine.execVfneg d a m z s
  | .vfeq d a b m z => Sys2Proof.Machine.execVfeq d a b m z s
  | .vflt d a b m z => Sys2Proof.Machine.execVflt d a b m z s
  | .vfle d a b m z => Sys2Proof.Machine.execVfle d a b m z s
  | .vfun d a b m z => Sys2Proof.Machine.execVfun d a b m z s
  | .vfeqX d a b m z => Sys2Proof.Machine.execVfeqX d a b m z s
  | .vfltX d a b m z => Sys2Proof.Machine.execVfltX d a b m z s
  | .vfleX d a b m z => Sys2Proof.Machine.execVfleX d a b m z s
  | .vfunX d a b m z => Sys2Proof.Machine.execVfunX d a b m z s
  | .vfsqrt d a m z => Sys2Proof.Machine.execVfsqrt d a m z s
  | .vfrsqrt d a m z => Sys2Proof.Machine.execVfrsqrt d a m z s
  | .vfrcp d a m z => Sys2Proof.Machine.execVfrcp d a m z s
  | .vfexp2 d a m z => Sys2Proof.Machine.execVfexp2 d a m z s
  | .vflog2 d a m z => Sys2Proof.Machine.execVflog2 d a m z s
  | .vftanh d a m z => Sys2Proof.Machine.execVftanh d a m z s
  | .vfsigm d a m z => Sys2Proof.Machine.execVfsigm d a m z s
  | .vfgelu d a m z => Sys2Proof.Machine.execVfgelu d a m z s
  | .vcvt d a t m z => Sys2Proof.Machine.execVcvt d a t m z s
  | .vcvtfi d a t m z => Sys2Proof.Machine.execVcvtfi d a t m z s
  | .vcvtif d a t m z => Sys2Proof.Machine.execVcvtif d a t m z s
  | .vcvtint d a t m z => Sys2Proof.Machine.execVcvtint d a t m z s
  | .vpack d a b m z => Sys2Proof.Machine.execVpack d a b m z s
  | .vunpack d a b m z => Sys2Proof.Machine.execVunpack d a b m z s
  | .vcbdec d a b m z => Sys2Proof.Machine.execVcbdec d a b m z s
  | .vcbenc d a b m z => Sys2Proof.Machine.execVcbenc d a b m z s
  | .vfscale d a b m z => Sys2Proof.Machine.execVfscale d a b m z s
  | .vfexpo d a m z => Sys2Proof.Machine.execVfexpo d a m z s
  | .vfmant d a m z => Sys2Proof.Machine.execVfmant d a m z s
  | .vfclass d a m z => Sys2Proof.Machine.execVfclass d a m z s
  | .vfdot2 d a b m z => Sys2Proof.Machine.execVfdot2 d a b m z s
  | .vfdot4 d a b m z => Sys2Proof.Machine.execVfdot4 d a b m z s
  | .vfclampX d a b m z => Sys2Proof.Machine.execVfclampX d a b m z s
  | .vfrelu d a m z => Sys2Proof.Machine.execVfrelu d a m z s
  | .vfwadd d a b m z => Sys2Proof.Machine.execVfwadd d a b m z s
  | .vfwmul d a b m z => Sys2Proof.Machine.execVfwmul d a b m z s
  | .vfwma d a b m z => Sys2Proof.Machine.execVfwma d a b m z s
  | .vfsgnj d a b m z => Sys2Proof.Machine.execVfsgnj d a b m z s
  | .vfsgnjn d a b m z => Sys2Proof.Machine.execVfsgnjn d a b m z s
  | .vfsgnjx d a b m z => Sys2Proof.Machine.execVfsgnjx d a b m z s
  | .vld d a b m z => Sys2Proof.Machine.execVld d a b m z s
  | .vldNt d a b m z => Sys2Proof.Machine.execVldNt d a b m z s
  | .vldBc d a b m z => Sys2Proof.Machine.execVldBc d a b m z s
  | .vst d a b m => Sys2Proof.Machine.execVst d a b m s
  | .vstNt d a b m => Sys2Proof.Machine.execVstNt d a b m s
  | .vlds d a b m z => Sys2Proof.Machine.execVlds d a b m z s
  | .vsts d a b m => Sys2Proof.Machine.execVsts d a b m s
  | .vgather d a b m z => Sys2Proof.Machine.execVgather d a b m z s
  | .vgatherNt d a b m z => Sys2Proof.Machine.execVgatherNt d a b m z s
  | .vscatter d a b m => Sys2Proof.Machine.execVscatter d a b m s
  | .vscatterO d a b m => Sys2Proof.Machine.execVscatterO d a b m s
  | .vamoadd d a b m z => Sys2Proof.Machine.execVamoadd d a b m z s
  | .vamomin d a b m z => Sys2Proof.Machine.execVamomin d a b m z s
  | .vamomax d a b m z => Sys2Proof.Machine.execVamomax d a b m z s
  | .vamoswap d a b m z => Sys2Proof.Machine.execVamoswap d a b m z s
  | .vamoand d a b m z => Sys2Proof.Machine.execVamoand d a b m z s
  | .vamoor d a b m z => Sys2Proof.Machine.execVamoor d a b m z s
  | .vamoxor d a b m z => Sys2Proof.Machine.execVamoxor d a b m z s
  | .vamofadd d a b m z => Sys2Proof.Machine.execVamofadd d a b m z s
  | .tld d a m z => Sys2Proof.Machine.execTld d a m z s
  | .tst d a m => Sys2Proof.Machine.execTst d a m s
  | .vldsp d a b m z => Sys2Proof.Machine.execVldsp d a b m z s
  | .vstsp d a b m => Sys2Proof.Machine.execVstsp d a b m s
  | .vpref a b m => Sys2Proof.Machine.execVpref a b m s
  | .vprobe d a b m z => Sys2Proof.Machine.execVprobe d a b m z s
  | .mld d a b z => Sys2Proof.Machine.execMld d a b z s
  | .mldt d a b z => Sys2Proof.Machine.execMldt d a b z s
  | .vflush a b m => Sys2Proof.Machine.execVflush a b m s
  | .vinval a b m => Sys2Proof.Machine.execVinval a b m s
  | .qld d a => Sys2Proof.Machine.execQld d a s
  | .qmk d a => Sys2Proof.Machine.execQmk d a s
  | .qdrop d => Sys2Proof.Machine.execQdrop d s
  | .qwin d a b => Sys2Proof.Machine.execQwin d a b s
  | .dvlds2 d a b => Sys2Proof.Machine.execDvlds2 d a b s
  | .dvred d a => Sys2Proof.Machine.execDvred d a s
  | .dmmac d a b => Sys2Proof.Machine.execDmmac d a b s
  | .dcopy a b => Sys2Proof.Machine.execDcopy a b s
  | .mop d a b m => Sys2Proof.Machine.execMop d a b m s
  | .mops d a b m => Sys2Proof.Machine.execMops d a b m s
  | .mopn d a b m => Sys2Proof.Machine.execMopn d a b m s
  | .mrw d a b m => Sys2Proof.Machine.execMrw d a b m s
  | .mrx d a b m => Sys2Proof.Machine.execMrx d a b m s
  | .mzero d => Sys2Proof.Machine.execMzero d s
  | .mrd d a b z => Sys2Proof.Machine.execMrd d a b z s
  | .mwr d a b => Sys2Proof.Machine.execMwr d a b s
  | .mscale d a => Sys2Proof.Machine.execMscale d a s
  | .mplane d a b => Sys2Proof.Machine.execMplane d a b s
  | .munplane d a b => Sys2Proof.Machine.execMunplane d a b s
  | .itopen d a => Sys2Proof.Machine.execItopen d a s
  | .itclose a => Sys2Proof.Machine.execItclose a s
  | .next d a z => Sys2Proof.Machine.execNext d a z s
  | .next2 d a b z => Sys2Proof.Machine.execNext2 d a b z s
  | .enough a => Sys2Proof.Machine.execEnough a s
  | .itsave a => Sys2Proof.Machine.execItsave a s
  | .ctxmk d a => Sys2Proof.Machine.execCtxmk d a s
  | .ctxdestroy a => Sys2Proof.Machine.execCtxdestroy a s
  | .ctxgrant d a b => Sys2Proof.Machine.execCtxgrant d a b s
  | .ctxrevoke d a b => Sys2Proof.Machine.execCtxrevoke d a b s
  | .ctxrun a => Sys2Proof.Machine.execCtxrun a s
  | .ctxstop a => Sys2Proof.Machine.execCtxstop a s
  | .ctxq d a b => Sys2Proof.Machine.execCtxq d a b s
  | .launch d a => Sys2Proof.Machine.execLaunch d a s
  | .lquery d a => Sys2Proof.Machine.execLquery d a s
  | .frel a => Sys2Proof.Machine.execFrel a s
  | .fdele a b => Sys2Proof.Machine.execFdele a b s
  | .islon a => Sys2Proof.Machine.execIslon a s
  | .isloff a => Sys2Proof.Machine.execIsloff a s
  | .islfreq a b => Sys2Proof.Machine.execIslfreq a b s
  | .featq d a => Sys2Proof.Machine.execFeatq d a s
  | .featset a b => Sys2Proof.Machine.execFeatset a b s
  | .cntrd d a => Sys2Proof.Machine.execCntrd d a s
  | .cntset a b => Sys2Proof.Machine.execCntset a b s
  | .freeze => Sys2Proof.Machine.execFreeze s
  | .recordDelivery core => Sys2Proof.Machine.execRecordDelivery core s
  | .handlerEntry core => Sys2Proof.Machine.execHandlerEntry core s
  | .placeCrew die => Sys2Proof.Machine.execPlaceCrew die s
  | .reservation quad ctx handle => Sys2Proof.Machine.execReservation quad ctx handle s
  | .sliceEnd ctx handle => Sys2Proof.Machine.execSliceEnd ctx handle s
  | .savedPositionWrite ctx handle => Sys2Proof.Machine.execSavedPositionWrite ctx handle s
  | .stopDrained ctx => Sys2Proof.Machine.execStopDrained ctx s
  | .forcedPreemption core slot => Sys2Proof.Machine.execForcedPreemption core slot s
  | .revocationEnforce ctx n => Sys2Proof.Machine.execRevocationEnforce ctx n s
  | .revocationGraceExpiry ctx n => Sys2Proof.Machine.execRevocationGraceExpiry ctx n s
  | .shootDownComplete => Sys2Proof.Machine.execShootDownComplete s
  | .contextDestruction ctx => Sys2Proof.Machine.execContextDestruction ctx s
  | .hangWatchdog core slot => Sys2Proof.Machine.execHangWatchdog core slot s
  | .launchCompletion ctx handle => Sys2Proof.Machine.execLaunchCompletion ctx handle s
  | .barrierMarkerFire core slot => Sys2Proof.Machine.execBarrierMarkerFire core slot s
  | .waitComplete core slot => Sys2Proof.Machine.execWaitComplete core slot s
  | .ringAcquireComplete core slot => Sys2Proof.Machine.execRingAcquireComplete core slot s
  | .laneGrantWake core slot => Sys2Proof.Machine.execLaneGrantWake core slot s
  | .pauseExpiry core slot => Sys2Proof.Machine.execPauseExpiry core slot s
  | .yieldRelease core slot => Sys2Proof.Machine.execYieldRelease core slot s
  | .copySector core slot cmd chunk sector => Sys2Proof.Machine.execCopySector core slot cmd chunk sector s
  | .ringSlotAcquire core slot cmd => Sys2Proof.Machine.execRingSlotAcquire core slot cmd s
  | .tableWalkComplete ctx va => Sys2Proof.Machine.execTableWalkComplete ctx va s
  | .bwPublication issuer ctx cls occ => Sys2Proof.Machine.execBwPublication issuer ctx cls occ s
  | .sramSingleBitError e => Sys2Proof.Machine.execSramSingleBitError e s
  | .sramUncorrectableError place at_ => Sys2Proof.Machine.execSramUncorrectableError place at_ s
  | .powerLimitAction e => Sys2Proof.Machine.execPowerLimitAction e s
  | .hostWrite off data => Sys2Proof.Machine.execHostWrite off data s
  | .hostRead place n => Sys2Proof.Machine.execHostRead place n s
  | .peerFlitReceive port flit resent => Sys2Proof.Machine.execPeerFlitReceive port flit resent s
  | .peerRetryRequest port n => Sys2Proof.Machine.execPeerRetryRequest port n s
  | .peerInboundRequest port pa req => Sys2Proof.Machine.execPeerInboundRequest port pa req s
  | .packageReset => Sys2Proof.Machine.execPackageReset s
  | .functionReady fn => Sys2Proof.Machine.execFunctionReady fn s
  | .functionFailed fn => Sys2Proof.Machine.execFunctionFailed fn s
  | .go => Sys2Proof.Machine.execGo s
  | .runtimeStart => Sys2Proof.Machine.execRuntimeStart s
  | .commit => Sys2Proof.Machine.execCommit s
  | .switch => Sys2Proof.Machine.execSwitch s
  | .feataccWrite half v => Sys2Proof.Machine.execFeataccWrite half v s
  | .configWindowWrite off data => Sys2Proof.Machine.execConfigWindowWrite off data s
  | .debugResume => Sys2Proof.Machine.execDebugResume s
  | .debugReset => Sys2Proof.Machine.execDebugReset s
  | .fqbaseWrite v => Sys2Proof.Machine.execFqbaseWrite v s
  | .fqheadWrite v => Sys2Proof.Machine.execFqheadWrite v s
  | .fqtailRead d => Sys2Proof.Machine.execFqtailRead d s
  | .ecauseWrite v => Sys2Proof.Machine.execEcauseWrite v s
  | .fpflagsWrite v => Sys2Proof.Machine.execFpflagsWrite v s
  | .bwclsWrite v => Sys2Proof.Machine.execBwclsWrite v s
  | .mirrorSwapCompletion ctx handle error => Sys2Proof.Machine.execMirrorSwapCompletion ctx handle error s
  | .hbmEccCorrection => Sys2Proof.Machine.execHbmEccCorrection s

end Sys2Proof.Machine
end

