-- ==== Sys2Proof/WellFormed.lean ====
section
/-! DEFINITION. Which terms of the syntax are instructions of the manual: the limits that a field's width does not
already impose, and that do not depend on state (03 R27, R31; 07 R122, R123, R134; 15 next2). -/

namespace Sys2Proof

/-- The static limits of an instruction's fields. -/
def WellFormed : Instr → Bool
  | .coord _ w => w != 7#3
  | .ld _ _ w _ => w != 7#3
  | .ldx _ _ _ w => w != 7#3
  | .setvl _ _ _ _ t => 1 ≤ t.toNat && t.toNat ≤ 17
  | .vdecl c => c.toNat ≤ 5
  | .loop _ n => 1 ≤ n.toNat && n.toNat ≤ 32
  | .loopP _ n => 1 ≤ n.toNat && n.toNat ≤ 32
  | .vmv d _ m _ => !(m && d == 0#7)
  | .vsplat d _ m _ => !(m && d == 0#7)
  | .vperm d _ _ m _ => !(m && d == 0#7)
  | .vslup d _ _ m _ => !(m && d == 0#7)
  | .vsldn d _ _ m _ => !(m && d == 0#7)
  | .vrev d _ m _ => !(m && d == 0#7)
  | .viota d _ m _ => !(m && d == 0#7)
  | .vid d m _ => !(m && d == 0#7)
  | .vretag _ _ t => 1 ≤ t.toNat && t.toNat ≤ 21
  | .vsegsum d _ m _ => !(m && d == 0#7)
  | .vsegmin d _ m _ => !(m && d == 0#7)
  | .vsegmax d _ m _ => !(m && d == 0#7)
  | .vsegfsum d _ m _ => !(m && d == 0#7)
  | .vaddr d _ _ m _ => !(m && d == 0#7)
  | .vadd d _ _ m _ => !(m && d == 0#7)
  | .vaddX d _ _ m _ => !(m && d == 0#7)
  | .vsub d _ _ m _ => !(m && d == 0#7)
  | .vsubX d _ _ m _ => !(m && d == 0#7)
  | .vand d _ _ m _ => !(m && d == 0#7)
  | .vor d _ _ m _ => !(m && d == 0#7)
  | .vxor d _ _ m _ => !(m && d == 0#7)
  | .vandn d _ _ m _ => !(m && d == 0#7)
  | .vsll d _ _ m _ => !(m && d == 0#7)
  | .vsrl d _ _ m _ => !(m && d == 0#7)
  | .vsra d _ _ m _ => !(m && d == 0#7)
  | .vror d _ _ m _ => !(m && d == 0#7)
  | .vsllX d _ _ m _ => !(m && d == 0#7)
  | .vsrlX d _ _ m _ => !(m && d == 0#7)
  | .vsraX d _ _ m _ => !(m && d == 0#7)
  | .vrorX d _ _ m _ => !(m && d == 0#7)
  | .vmul d _ _ m _ => !(m && d == 0#7)
  | .vmulh d _ _ m _ => !(m && d == 0#7)
  | .vmulhn d _ _ m _ => !(m && d == 0#7)
  | .vmacc d _ _ m _ => !(m && d == 0#7)
  | .vmin d _ _ m _ => !(m && d == 0#7)
  | .vmax d _ _ m _ => !(m && d == 0#7)
  | .vminn d _ _ m _ => !(m && d == 0#7)
  | .vmaxn d _ _ m _ => !(m && d == 0#7)
  | .vaddsat d _ _ m _ => !(m && d == 0#7)
  | .vsubsat d _ _ m _ => !(m && d == 0#7)
  | .vaddsatn d _ _ m _ => !(m && d == 0#7)
  | .vsubsatn d _ _ m _ => !(m && d == 0#7)
  | .vseq d _ _ m _ => !(m && d == 0#7)
  | .vsne d _ _ m _ => !(m && d == 0#7)
  | .vslt d _ _ m _ => !(m && d == 0#7)
  | .vsltn d _ _ m _ => !(m && d == 0#7)
  | .vseqX d _ _ m _ => !(m && d == 0#7)
  | .vsneX d _ _ m _ => !(m && d == 0#7)
  | .vsltX d _ _ m _ => !(m && d == 0#7)
  | .vsltnX d _ _ m _ => !(m && d == 0#7)
  | .vdiv d _ _ m _ => !(m && d == 0#7)
  | .vdivn d _ _ m _ => !(m && d == 0#7)
  | .vrem d _ _ m _ => !(m && d == 0#7)
  | .vremn d _ _ m _ => !(m && d == 0#7)
  | .vabs d _ m _ => !(m && d == 0#7)
  | .vneg d _ m _ => !(m && d == 0#7)
  | .vclz d _ m _ => !(m && d == 0#7)
  | .vpopc d _ m _ => !(m && d == 0#7)
  | .vwiden d _ m _ => !(m && d == 0#7)
  | .vwidenn d _ m _ => !(m && d == 0#7)
  | .vnarrow d _ m _ => !(m && d == 0#7)
  | .vnarrowsat d _ m _ => !(m && d == 0#7)
  | .vdot4 d _ _ m _ => !(m && d == 0#7)
  | .vdot4n d _ _ m _ => !(m && d == 0#7)
  | .vdot2 d _ _ m _ => !(m && d == 0#7)
  | .vmaccX d _ _ m _ => !(m && d == 0#7)
  | .vclamp d _ _ m _ => !(m && d == 0#7)
  | .vfadd d _ _ m _ => !(m && d == 0#7)
  | .vfaddX d _ _ m _ => !(m && d == 0#7)
  | .vfsub d _ _ m _ => !(m && d == 0#7)
  | .vfsubX d _ _ m _ => !(m && d == 0#7)
  | .vfmul d _ _ m _ => !(m && d == 0#7)
  | .vfmulX d _ _ m _ => !(m && d == 0#7)
  | .vfdiv d _ _ m _ => !(m && d == 0#7)
  | .vfdivX d _ _ m _ => !(m && d == 0#7)
  | .vfma d _ _ m _ => !(m && d == 0#7)
  | .vfms d _ _ m _ => !(m && d == 0#7)
  | .vfnma d _ _ m _ => !(m && d == 0#7)
  | .vfnms d _ _ m _ => !(m && d == 0#7)
  | .vfmaX d _ _ m _ => !(m && d == 0#7)
  | .vfmsX d _ _ m _ => !(m && d == 0#7)
  | .vfnmaX d _ _ m _ => !(m && d == 0#7)
  | .vfnmsX d _ _ m _ => !(m && d == 0#7)
  | .vfmin d _ _ m _ => !(m && d == 0#7)
  | .vfmax d _ _ m _ => !(m && d == 0#7)
  | .vfabs d _ m _ => !(m && d == 0#7)
  | .vfneg d _ m _ => !(m && d == 0#7)
  | .vfeq d _ _ m _ => !(m && d == 0#7)
  | .vflt d _ _ m _ => !(m && d == 0#7)
  | .vfle d _ _ m _ => !(m && d == 0#7)
  | .vfun d _ _ m _ => !(m && d == 0#7)
  | .vfeqX d _ _ m _ => !(m && d == 0#7)
  | .vfltX d _ _ m _ => !(m && d == 0#7)
  | .vfleX d _ _ m _ => !(m && d == 0#7)
  | .vfunX d _ _ m _ => !(m && d == 0#7)
  | .vfsqrt d _ m _ => !(m && d == 0#7)
  | .vfrsqrt d _ m _ => !(m && d == 0#7)
  | .vfrcp d _ m _ => !(m && d == 0#7)
  | .vfexp2 d _ m _ => !(m && d == 0#7)
  | .vflog2 d _ m _ => !(m && d == 0#7)
  | .vftanh d _ m _ => !(m && d == 0#7)
  | .vfsigm d _ m _ => !(m && d == 0#7)
  | .vfgelu d _ m _ => !(m && d == 0#7)
  | .vcvt d _ t m _ => !(m && d == 0#7) && 1 ≤ t.toNat && t.toNat ≤ 21
  | .vcvtfi d _ t m _ => !(m && d == 0#7) && 1 ≤ t.toNat && t.toNat ≤ 21
  | .vcvtif d _ t m _ => !(m && d == 0#7) && 1 ≤ t.toNat && t.toNat ≤ 21
  | .vcvtint d _ t m _ => !(m && d == 0#7) && 1 ≤ t.toNat && t.toNat ≤ 21
  | .vpack d _ _ m _ => !(m && d == 0#7)
  | .vunpack d _ _ m _ => !(m && d == 0#7)
  | .vcbdec d _ _ m _ => !(m && d == 0#7)
  | .vcbenc d _ _ m _ => !(m && d == 0#7)
  | .vfscale d _ _ m _ => !(m && d == 0#7)
  | .vfexpo d _ m _ => !(m && d == 0#7)
  | .vfmant d _ m _ => !(m && d == 0#7)
  | .vfclass d _ m _ => !(m && d == 0#7)
  | .vfdot2 d _ _ m _ => !(m && d == 0#7)
  | .vfdot4 d _ _ m _ => !(m && d == 0#7)
  | .vfclampX d _ _ m _ => !(m && d == 0#7)
  | .vfrelu d _ m _ => !(m && d == 0#7)
  | .vfwadd d _ _ m _ => !(m && d == 0#7)
  | .vfwmul d _ _ m _ => !(m && d == 0#7)
  | .vfwma d _ _ m _ => !(m && d == 0#7)
  | .vfsgnj d _ _ m _ => !(m && d == 0#7)
  | .vfsgnjn d _ _ m _ => !(m && d == 0#7)
  | .vfsgnjx d _ _ m _ => !(m && d == 0#7)
  | .vld d _ _ m _ => !(m && d == 0#7)
  | .vldNt d _ _ m _ => !(m && d == 0#7)
  | .vldBc d _ _ m _ => !(m && d == 0#7)
  | .vlds d _ _ m _ => !(m && d == 0#7)
  | .vgather d _ _ m _ => !(m && d == 0#7)
  | .vgatherNt d _ _ m _ => !(m && d == 0#7)
  | .vamoadd d _ _ m _ => !(m && d == 0#7)
  | .vamomin d _ _ m _ => !(m && d == 0#7)
  | .vamomax d _ _ m _ => !(m && d == 0#7)
  | .vamoswap d _ _ m _ => !(m && d == 0#7)
  | .vamoand d _ _ m _ => !(m && d == 0#7)
  | .vamoor d _ _ m _ => !(m && d == 0#7)
  | .vamoxor d _ _ m _ => !(m && d == 0#7)
  | .vamofadd d _ _ m _ => !(m && d == 0#7)
  | .tld d _ m _ => !(m && d == 0#7)
  | .vldsp d _ _ m _ => !(m && d == 0#7)
  | .vprobe d _ _ m _ => !(m && d == 0#7)
  | .next2 d _ b _ => d != b
  | _ => true

end Sys2Proof
end

