-- ==== Sys2Proof/Decode.lean ====
section
/-! DEFINITION. The decoder, total on every word and rejecting by name (03 R24 to R46), and the encoder.

Bit 31 is the most significant bit of the word (R24); each group function reads one primary opcode, its variant
field first, then its zero fields and register limits that do not depend on state (R27, R28, R31). -/

namespace Sys2Proof

/-- Why a word is no instruction. Every reason is an encoding fault, cause 0x10 (03 R41 step 1). -/
inductive Reject where
  /-- A variant value the opcode tables do not list. -/
  | variant
  /-- A nonzero bit where a field must be zero (R28). -/
  | reserved
  /-- A register number outside its class (R27), or two destinations that coincide. -/
  | register
  /-- m = 1 with v0 as vector destination (R31). -/
  | maskBit
  /-- A literal format tag that is not assigned (R27, R36). -/
  | tag
  /-- A literal count outside its range (R123, R134). -/
  | range
  deriving DecidableEq, Repr

noncomputable def dec00 (word : BitVec 32) : Except Reject Instr :=
  match (word.extractLsb' 0 4).toNat with
  | 0 =>
    let d := word.extractLsb' 18 7
    let a := word.extractLsb' 11 7
    let b := word.extractLsb' 4 7
    .ok (.add d a b)
  | 1 =>
    let d := word.extractLsb' 18 7
    let a := word.extractLsb' 11 7
    let b := word.extractLsb' 4 7
    .ok (.sub d a b)
  | 2 =>
    let d := word.extractLsb' 18 7
    let a := word.extractLsb' 11 7
    let b := word.extractLsb' 4 7
    .ok (.and d a b)
  | 3 =>
    let d := word.extractLsb' 18 7
    let a := word.extractLsb' 11 7
    let b := word.extractLsb' 4 7
    .ok (.or d a b)
  | 4 =>
    let d := word.extractLsb' 18 7
    let a := word.extractLsb' 11 7
    let b := word.extractLsb' 4 7
    .ok (.xor d a b)
  | 5 =>
    let d := word.extractLsb' 18 7
    let a := word.extractLsb' 11 7
    let b := word.extractLsb' 4 7
    .ok (.andn d a b)
  | 6 =>
    let d := word.extractLsb' 18 7
    let a := word.extractLsb' 11 7
    let b := word.extractLsb' 4 7
    .ok (.orn d a b)
  | 7 =>
    let d := word.extractLsb' 18 7
    let a := word.extractLsb' 11 7
    let b := word.extractLsb' 4 7
    .ok (.xnor d a b)
  | 8 =>
    let d := word.extractLsb' 18 7
    let a := word.extractLsb' 11 7
    let b := word.extractLsb' 4 7
    .ok (.sll d a b)
  | 9 =>
    let d := word.extractLsb' 18 7
    let a := word.extractLsb' 11 7
    let b := word.extractLsb' 4 7
    .ok (.srl d a b)
  | 10 =>
    let d := word.extractLsb' 18 7
    let a := word.extractLsb' 11 7
    let b := word.extractLsb' 4 7
    .ok (.sra d a b)
  | 11 =>
    let d := word.extractLsb' 18 7
    let a := word.extractLsb' 11 7
    let b := word.extractLsb' 4 7
    .ok (.ror d a b)
  | 12 =>
    let d := word.extractLsb' 18 7
    let a := word.extractLsb' 11 7
    let b := word.extractLsb' 4 7
    .ok (.min d a b)
  | 13 =>
    let d := word.extractLsb' 18 7
    let a := word.extractLsb' 11 7
    let b := word.extractLsb' 4 7
    .ok (.max d a b)
  | 14 =>
    let d := word.extractLsb' 18 7
    let a := word.extractLsb' 11 7
    let b := word.extractLsb' 4 7
    .ok (.minn d a b)
  | 15 =>
    let d := word.extractLsb' 18 7
    let a := word.extractLsb' 11 7
    let b := word.extractLsb' 4 7
    .ok (.maxn d a b)
  | _ => .error .variant

noncomputable def dec01 (word : BitVec 32) : Except Reject Instr :=
  let d := word.extractLsb' 18 7
  let a := word.extractLsb' 11 7
  let i := word.extractLsb' 0 11
  .ok (.addi d a i)

noncomputable def dec02 (word : BitVec 32) : Except Reject Instr :=
  let d := word.extractLsb' 18 7
  let a := word.extractLsb' 11 7
  let i := word.extractLsb' 0 11
  .ok (.andi d a i)

noncomputable def dec03 (word : BitVec 32) : Except Reject Instr :=
  let d := word.extractLsb' 18 7
  let a := word.extractLsb' 11 7
  let i := word.extractLsb' 0 11
  .ok (.ori d a i)

noncomputable def dec04 (word : BitVec 32) : Except Reject Instr :=
  let d := word.extractLsb' 18 7
  let a := word.extractLsb' 11 7
  let i := word.extractLsb' 0 11
  .ok (.xori d a i)

noncomputable def dec05 (word : BitVec 32) : Except Reject Instr :=
  match (word.extractLsb' 9 2).toNat with
  | 0 =>
    if word.extractLsb' 6 3 ≠ 0#3 then .error .reserved else
    let d := word.extractLsb' 18 7
    let a := word.extractLsb' 11 7
    let k := word.extractLsb' 0 6
    .ok (.slli d a k)
  | 1 =>
    if word.extractLsb' 6 3 ≠ 0#3 then .error .reserved else
    let d := word.extractLsb' 18 7
    let a := word.extractLsb' 11 7
    let k := word.extractLsb' 0 6
    .ok (.srli d a k)
  | 2 =>
    if word.extractLsb' 6 3 ≠ 0#3 then .error .reserved else
    let d := word.extractLsb' 18 7
    let a := word.extractLsb' 11 7
    let k := word.extractLsb' 0 6
    .ok (.srai d a k)
  | 3 =>
    if word.extractLsb' 6 3 ≠ 0#3 then .error .reserved else
    let d := word.extractLsb' 18 7
    let a := word.extractLsb' 11 7
    let k := word.extractLsb' 0 6
    .ok (.rori d a k)
  | _ => .error .variant

noncomputable def dec06 (word : BitVec 32) : Except Reject Instr :=
  match (word.extractLsb' 0 4).toNat with
  | 0 =>
    let d := word.extractLsb' 18 7
    let a := word.extractLsb' 11 7
    let b := word.extractLsb' 4 7
    .ok (.seq d a b)
  | 1 =>
    let d := word.extractLsb' 18 7
    let a := word.extractLsb' 11 7
    let b := word.extractLsb' 4 7
    .ok (.sne d a b)
  | 2 =>
    let d := word.extractLsb' 18 7
    let a := word.extractLsb' 11 7
    let b := word.extractLsb' 4 7
    .ok (.slt d a b)
  | 3 =>
    let d := word.extractLsb' 18 7
    let a := word.extractLsb' 11 7
    let b := word.extractLsb' 4 7
    .ok (.sge d a b)
  | 4 =>
    let d := word.extractLsb' 18 7
    let a := word.extractLsb' 11 7
    let b := word.extractLsb' 4 7
    .ok (.sltn d a b)
  | 5 =>
    let d := word.extractLsb' 18 7
    let a := word.extractLsb' 11 7
    let b := word.extractLsb' 4 7
    .ok (.sgen d a b)
  | _ => .error .variant

noncomputable def dec07 (word : BitVec 32) : Except Reject Instr :=
  match (word.extractLsb' 8 3).toNat with
  | 0 =>
    let d := word.extractLsb' 18 7
    let a := word.extractLsb' 11 7
    let i := word.extractLsb' 0 8
    .ok (.seqi d a i)
  | 1 =>
    let d := word.extractLsb' 18 7
    let a := word.extractLsb' 11 7
    let i := word.extractLsb' 0 8
    .ok (.snei d a i)
  | 2 =>
    let d := word.extractLsb' 18 7
    let a := word.extractLsb' 11 7
    let i := word.extractLsb' 0 8
    .ok (.slti d a i)
  | 3 =>
    let d := word.extractLsb' 18 7
    let a := word.extractLsb' 11 7
    let i := word.extractLsb' 0 8
    .ok (.sgei d a i)
  | 4 =>
    let d := word.extractLsb' 18 7
    let a := word.extractLsb' 11 7
    let i := word.extractLsb' 0 8
    .ok (.sltni d a i)
  | 5 =>
    let d := word.extractLsb' 18 7
    let a := word.extractLsb' 11 7
    let i := word.extractLsb' 0 8
    .ok (.sgeni d a i)
  | _ => .error .variant

noncomputable def dec08 (word : BitVec 32) : Except Reject Instr :=
  match (word.extractLsb' 0 4).toNat with
  | 0 =>
    let d := word.extractLsb' 18 7
    let a := word.extractLsb' 11 7
    let b := word.extractLsb' 4 7
    .ok (.mul d a b)
  | 1 =>
    let d := word.extractLsb' 18 7
    let a := word.extractLsb' 11 7
    let b := word.extractLsb' 4 7
    .ok (.mulh d a b)
  | 2 =>
    let d := word.extractLsb' 18 7
    let a := word.extractLsb' 11 7
    let b := word.extractLsb' 4 7
    .ok (.mulhn d a b)
  | 3 =>
    let d := word.extractLsb' 18 7
    let a := word.extractLsb' 11 7
    let b := word.extractLsb' 4 7
    .ok (.div d a b)
  | 4 =>
    let d := word.extractLsb' 18 7
    let a := word.extractLsb' 11 7
    let b := word.extractLsb' 4 7
    .ok (.divn d a b)
  | 5 =>
    let d := word.extractLsb' 18 7
    let a := word.extractLsb' 11 7
    let b := word.extractLsb' 4 7
    .ok (.rem d a b)
  | 6 =>
    let d := word.extractLsb' 18 7
    let a := word.extractLsb' 11 7
    let b := word.extractLsb' 4 7
    .ok (.remn d a b)
  | _ => .error .variant

noncomputable def dec09 (word : BitVec 32) : Except Reject Instr :=
  match (word.extractLsb' 0 4).toNat with
  | 0 =>
    if word.extractLsb' 4 7 ≠ 0#7 then .error .reserved else
    let d := word.extractLsb' 18 7
    let a := word.extractLsb' 11 7
    .ok (.clz d a)
  | 1 =>
    if word.extractLsb' 4 7 ≠ 0#7 then .error .reserved else
    let d := word.extractLsb' 18 7
    let a := word.extractLsb' 11 7
    .ok (.ctz d a)
  | 2 =>
    if word.extractLsb' 4 7 ≠ 0#7 then .error .reserved else
    let d := word.extractLsb' 18 7
    let a := word.extractLsb' 11 7
    .ok (.popc d a)
  | 3 =>
    if word.extractLsb' 4 7 ≠ 0#7 then .error .reserved else
    let d := word.extractLsb' 18 7
    let a := word.extractLsb' 11 7
    .ok (.brev d a)
  | 4 =>
    if word.extractLsb' 4 7 ≠ 0#7 then .error .reserved else
    let d := word.extractLsb' 18 7
    let a := word.extractLsb' 11 7
    .ok (.bswap d a)
  | 5 =>
    if word.extractLsb' 4 7 ≠ 0#7 then .error .reserved else
    let d := word.extractLsb' 18 7
    let a := word.extractLsb' 11 7
    .ok (.sxb d a)
  | 6 =>
    if word.extractLsb' 4 7 ≠ 0#7 then .error .reserved else
    let d := word.extractLsb' 18 7
    let a := word.extractLsb' 11 7
    .ok (.sxh d a)
  | 7 =>
    if word.extractLsb' 4 7 ≠ 0#7 then .error .reserved else
    let d := word.extractLsb' 18 7
    let a := word.extractLsb' 11 7
    .ok (.sxw d a)
  | _ => .error .variant

noncomputable def dec0A (word : BitVec 32) : Except Reject Instr :=
  let d := word.extractLsb' 18 7
  let i := word.extractLsb' 0 18
  .ok (.lhi d i)

noncomputable def dec0B (word : BitVec 32) : Except Reject Instr :=
  let d := word.extractLsb' 18 7
  let i := word.extractLsb' 0 18
  .ok (.lpc d i)

noncomputable def dec0C (word : BitVec 32) : Except Reject Instr :=
  let d := word.extractLsb' 18 7
  let i := word.extractLsb' 0 18
  .ok (.lix d i)

noncomputable def dec0D (word : BitVec 32) : Except Reject Instr :=
  match (word.extractLsb' 0 4).toNat with
  | 0 =>
    let d := word.extractLsb' 18 7
    let a := word.extractLsb' 11 7
    let b := word.extractLsb' 4 7
    .ok (.seln d a b)
  | 1 =>
    let d := word.extractLsb' 18 7
    let a := word.extractLsb' 11 7
    let b := word.extractLsb' 4 7
    .ok (.selz d a b)
  | _ => .error .variant

noncomputable def dec0E (word : BitVec 32) : Except Reject Instr :=
  let d := word.extractLsb' 18 7
  let a := word.extractLsb' 11 7
  let b := word.extractLsb' 4 7
  let s := word.extractLsb' 0 4
  .ok (.adds d a b s)

noncomputable def dec0F (word : BitVec 32) : Except Reject Instr :=
  match (word.extractLsb' 0 4).toNat with
  | 0 =>
    let d := word.extractLsb' 18 7
    let a := word.extractLsb' 11 7
    let b := word.extractLsb' 4 7
    .ok (.madd d a b)
  | 1 =>
    let d := word.extractLsb' 18 7
    let a := word.extractLsb' 11 7
    let b := word.extractLsb' 4 7
    .ok (.msub d a b)
  | _ => .error .variant

noncomputable def dec10 (word : BitVec 32) : Except Reject Instr :=
  let s := word.extractLsb' 0 25
  .ok (.j s)

noncomputable def dec11 (word : BitVec 32) : Except Reject Instr :=
  let s := word.extractLsb' 0 25
  .ok (.jal s)

noncomputable def dec12 (word : BitVec 32) : Except Reject Instr :=
  match (word.extractLsb' 0 4).toNat with
  | 0 =>
    if word.extractLsb' 18 7 ≠ 0#7 then .error .reserved else
    if word.extractLsb' 4 7 ≠ 0#7 then .error .reserved else
    let a := word.extractLsb' 11 7
    .ok (.jr a)
  | 1 =>
    if word.extractLsb' 4 7 ≠ 0#7 then .error .reserved else
    let d := word.extractLsb' 18 7
    let a := word.extractLsb' 11 7
    .ok (.jalr d a)
  | _ => .error .variant

noncomputable def dec13 (word : BitVec 32) : Except Reject Instr :=
  match (word.extractLsb' 15 3).toNat with
  | 0 =>
    let a := word.extractLsb' 18 7
    let s := word.extractLsb' 0 15
    .ok (.beqz a s)
  | 1 =>
    let a := word.extractLsb' 18 7
    let s := word.extractLsb' 0 15
    .ok (.bnez a s)
  | 2 =>
    let a := word.extractLsb' 18 7
    let s := word.extractLsb' 0 15
    .ok (.bltz a s)
  | 3 =>
    let a := word.extractLsb' 18 7
    let s := word.extractLsb' 0 15
    .ok (.bgez a s)
  | 4 =>
    let a := word.extractLsb' 18 7
    let s := word.extractLsb' 0 15
    .ok (.bgtz a s)
  | 5 =>
    let a := word.extractLsb' 18 7
    let s := word.extractLsb' 0 15
    .ok (.blez a s)
  | 6 =>
    if word.extractLsb' 18 7 ≠ 0#7 then .error .reserved else
    let s := word.extractLsb' 0 15
    .ok (.btrim s)
  | 7 =>
    if word.extractLsb' 18 7 ≠ 0#7 then .error .reserved else
    let s := word.extractLsb' 0 15
    .ok (.bdone s)
  | _ => .error .variant

noncomputable def dec14 (word : BitVec 32) : Except Reject Instr :=
  match (word.extractLsb' 10 1).toNat with
  | 0 =>
    if word.extractLsb' 18 7 ≠ 0#7 then .error .reserved else
    if word.extractLsb' 11 7 ≠ 0#7 then .error .reserved else
    let n := word.extractLsb' 0 10
    .ok (.winb n)
  | 1 =>
    if word.extractLsb' 18 7 ≠ 0#7 then .error .reserved else
    if word.extractLsb' 11 7 ≠ 0#7 then .error .reserved else
    let n := word.extractLsb' 0 10
    .ok (.winba n)
  | _ => .error .variant

noncomputable def dec15 (word : BitVec 32) : Except Reject Instr :=
  match (word.extractLsb' 16 2).toNat with
  | 0 =>
    if word.extractLsb' 18 7 ≠ 0#7 then .error .reserved else
    if word.extractLsb' 0 16 ≠ 0#16 then .error .reserved else
    .ok (.hintYield)
  | 1 =>
    if word.extractLsb' 18 7 ≠ 0#7 then .error .reserved else
    let n := word.extractLsb' 0 16
    .ok (.hintPause n)
  | 2 =>
    if word.extractLsb' 18 7 ≠ 0#7 then .error .reserved else
    let s := word.extractLsb' 0 16
    .ok (.hintPrefi s)
  | _ => .error .variant

noncomputable def dec16 (word : BitVec 32) : Except Reject Instr :=
  if word.extractLsb' 18 7 ≠ 0#7 then .error .reserved else
  let n := word.extractLsb' 0 18
  .ok (.svc n)

noncomputable def dec17 (word : BitVec 32) : Except Reject Instr :=
  if word.extractLsb' 18 7 ≠ 0#7 then .error .reserved else
  let n := word.extractLsb' 0 18
  .ok (.upcall n)

noncomputable def dec18 (word : BitVec 32) : Except Reject Instr :=
  if word.extractLsb' 18 7 ≠ 0#7 then .error .reserved else
  if word.extractLsb' 0 18 ≠ 0#18 then .error .reserved else
  .ok (.eret)

noncomputable def dec19 (word : BitVec 32) : Except Reject Instr :=
  match (word.extractLsb' 10 1).toNat with
  | 0 =>
    if word.extractLsb' 18 7 ≠ 0#7 then .error .reserved else
    if word.extractLsb' 0 10 ≠ 0#10 then .error .reserved else
    let a := word.extractLsb' 11 7
    .ok (.exit a)
  | 1 =>
    if word.extractLsb' 18 7 ≠ 0#7 then .error .reserved else
    if word.extractLsb' 0 10 ≠ 0#10 then .error .reserved else
    let a := word.extractLsb' 11 7
    .ok (.abort a)
  | _ => .error .variant

noncomputable def dec1A (word : BitVec 32) : Except Reject Instr :=
  if word.extractLsb' 11 7 ≠ 0#7 then .error .reserved else
  let d := word.extractLsb' 18 7
  let c := word.extractLsb' 0 11
  .ok (.crd d c)

noncomputable def dec1B (word : BitVec 32) : Except Reject Instr :=
  if word.extractLsb' 18 7 ≠ 0#7 then .error .reserved else
  let a := word.extractLsb' 11 7
  let c := word.extractLsb' 0 11
  .ok (.cwr a c)

noncomputable def dec1C (word : BitVec 32) : Except Reject Instr :=
  let d := word.extractLsb' 18 7
  let a := word.extractLsb' 11 7
  let c := word.extractLsb' 0 11
  .ok (.cxchg d a c)

noncomputable def dec1D (word : BitVec 32) : Except Reject Instr :=
  if word.extractLsb' 18 7 ≠ 0#7 then .error .reserved else
  let n := word.extractLsb' 0 18
  .ok (.ebreak n)

noncomputable def dec1E (word : BitVec 32) : Except Reject Instr :=
  if word.extractLsb' 11 7 ≠ 0#7 then .error .reserved else
  if word.extractLsb' 3 8 ≠ 0#8 then .error .reserved else
  let d := word.extractLsb' 18 7
  let w := word.extractLsb' 0 3
  if w == 7#3 then .error .variant else
  .ok (.coord d w)

noncomputable def dec1F (word : BitVec 32) : Except Reject Instr :=
  match (word.extractLsb' 0 4).toNat with
  | 0 =>
    if word.extractLsb' 4 7 ≠ 0#7 then .error .reserved else
    let d := word.extractLsb' 18 7
    let a := word.extractLsb' 11 7
    .ok (.probe d a)
  | 1 =>
    let d := word.extractLsb' 18 7
    let a := word.extractLsb' 11 7
    let b := word.extractLsb' 4 7
    .ok (.probec d a b)
  | _ => .error .variant

noncomputable def dec20 (word : BitVec 32) : Except Reject Instr :=
  let d := word.extractLsb' 18 7
  let a := word.extractLsb' 11 7
  let w := word.extractLsb' 8 3
  let k := word.extractLsb' 0 8
  if w == 7#3 then .error .variant else
  .ok (.ld d a w k)

noncomputable def dec21 (word : BitVec 32) : Except Reject Instr :=
  if word.extractLsb' 10 1 ≠ 0#1 then .error .reserved else
  let d := word.extractLsb' 18 7
  let a := word.extractLsb' 11 7
  let w := word.extractLsb' 8 2
  let k := word.extractLsb' 0 8
  .ok (.st d a w k)

noncomputable def dec22 (word : BitVec 32) : Except Reject Instr :=
  if word.extractLsb' 3 1 ≠ 0#1 then .error .reserved else
  let d := word.extractLsb' 18 7
  let a := word.extractLsb' 11 7
  let b := word.extractLsb' 4 7
  let w := word.extractLsb' 0 3
  if w == 7#3 then .error .variant else
  .ok (.ldx d a b w)

noncomputable def dec23 (word : BitVec 32) : Except Reject Instr :=
  if word.extractLsb' 2 2 ≠ 0#2 then .error .reserved else
  let d := word.extractLsb' 18 7
  let a := word.extractLsb' 11 7
  let b := word.extractLsb' 4 7
  let w := word.extractLsb' 0 2
  .ok (.stx d a b w)

noncomputable def dec24 (word : BitVec 32) : Except Reject Instr :=
  match (word.extractLsb' 0 4).toNat with
  | 0 =>
    let d := word.extractLsb' 18 7
    let a := word.extractLsb' 11 7
    let b := word.extractLsb' 4 7
    .ok (.amoadd d a b)
  | 1 =>
    let d := word.extractLsb' 18 7
    let a := word.extractLsb' 11 7
    let b := word.extractLsb' 4 7
    .ok (.amoswap d a b)
  | 2 =>
    let d := word.extractLsb' 18 7
    let a := word.extractLsb' 11 7
    let b := word.extractLsb' 4 7
    .ok (.amocas d a b)
  | 3 =>
    let d := word.extractLsb' 18 7
    let a := word.extractLsb' 11 7
    let b := word.extractLsb' 4 7
    .ok (.amoand d a b)
  | 4 =>
    let d := word.extractLsb' 18 7
    let a := word.extractLsb' 11 7
    let b := word.extractLsb' 4 7
    .ok (.amoor d a b)
  | 5 =>
    let d := word.extractLsb' 18 7
    let a := word.extractLsb' 11 7
    let b := word.extractLsb' 4 7
    .ok (.amoxor d a b)
  | 6 =>
    let d := word.extractLsb' 18 7
    let a := word.extractLsb' 11 7
    let b := word.extractLsb' 4 7
    .ok (.amomin d a b)
  | 7 =>
    let d := word.extractLsb' 18 7
    let a := word.extractLsb' 11 7
    let b := word.extractLsb' 4 7
    .ok (.amomax d a b)
  | 8 =>
    let d := word.extractLsb' 18 7
    let a := word.extractLsb' 11 7
    let b := word.extractLsb' 4 7
    .ok (.amominn d a b)
  | 9 =>
    let d := word.extractLsb' 18 7
    let a := word.extractLsb' 11 7
    let b := word.extractLsb' 4 7
    .ok (.amomaxn d a b)
  | 10 =>
    let d := word.extractLsb' 18 7
    let a := word.extractLsb' 11 7
    let b := word.extractLsb' 4 7
    .ok (.amoaddW d a b)
  | 11 =>
    let d := word.extractLsb' 18 7
    let a := word.extractLsb' 11 7
    let b := word.extractLsb' 4 7
    .ok (.amoswapW d a b)
  | 12 =>
    let d := word.extractLsb' 18 7
    let a := word.extractLsb' 11 7
    let b := word.extractLsb' 4 7
    .ok (.amocasW d a b)
  | 13 =>
    let d := word.extractLsb' 18 7
    let a := word.extractLsb' 11 7
    let b := word.extractLsb' 4 7
    .ok (.amoandW d a b)
  | 14 =>
    let d := word.extractLsb' 18 7
    let a := word.extractLsb' 11 7
    let b := word.extractLsb' 4 7
    .ok (.amoorW d a b)
  | 15 =>
    let d := word.extractLsb' 18 7
    let a := word.extractLsb' 11 7
    let b := word.extractLsb' 4 7
    .ok (.amoxorW d a b)
  | _ => .error .variant

noncomputable def dec25 (word : BitVec 32) : Except Reject Instr :=
  match (word.extractLsb' 0 4).toNat with
  | 0 =>
    if word.extractLsb' 18 7 ≠ 0#7 then .error .reserved else
    if word.extractLsb' 4 7 ≠ 0#7 then .error .reserved else
    let a := word.extractLsb' 11 7
    .ok (.cacheFlush a)
  | 1 =>
    if word.extractLsb' 18 7 ≠ 0#7 then .error .reserved else
    if word.extractLsb' 4 7 ≠ 0#7 then .error .reserved else
    let a := word.extractLsb' 11 7
    .ok (.cacheInval a)
  | 2 =>
    if word.extractLsb' 18 7 ≠ 0#7 then .error .reserved else
    if word.extractLsb' 4 7 ≠ 0#7 then .error .reserved else
    let a := word.extractLsb' 11 7
    .ok (.cacheZero a)
  | 3 =>
    if word.extractLsb' 18 7 ≠ 0#7 then .error .reserved else
    if word.extractLsb' 4 7 ≠ 0#7 then .error .reserved else
    let a := word.extractLsb' 11 7
    .ok (.cachePref a)
  | _ => .error .variant

noncomputable def dec26 (word : BitVec 32) : Except Reject Instr :=
  match (word.extractLsb' 0 4).toNat with
  | 0 =>
    let d := word.extractLsb' 18 7
    let a := word.extractLsb' 11 7
    let b := word.extractLsb' 4 7
    .ok (.fadd d a b)
  | 1 =>
    let d := word.extractLsb' 18 7
    let a := word.extractLsb' 11 7
    let b := word.extractLsb' 4 7
    .ok (.fsub d a b)
  | 2 =>
    let d := word.extractLsb' 18 7
    let a := word.extractLsb' 11 7
    let b := word.extractLsb' 4 7
    .ok (.fmul d a b)
  | 3 =>
    let d := word.extractLsb' 18 7
    let a := word.extractLsb' 11 7
    let b := word.extractLsb' 4 7
    .ok (.fdiv d a b)
  | 4 =>
    if word.extractLsb' 4 7 ≠ 0#7 then .error .reserved else
    let d := word.extractLsb' 18 7
    let a := word.extractLsb' 11 7
    .ok (.fsqrt d a)
  | 5 =>
    let d := word.extractLsb' 18 7
    let a := word.extractLsb' 11 7
    let b := word.extractLsb' 4 7
    .ok (.fmin d a b)
  | 6 =>
    let d := word.extractLsb' 18 7
    let a := word.extractLsb' 11 7
    let b := word.extractLsb' 4 7
    .ok (.fmax d a b)
  | 7 =>
    if word.extractLsb' 4 7 ≠ 0#7 then .error .reserved else
    let d := word.extractLsb' 18 7
    let a := word.extractLsb' 11 7
    .ok (.fcvtif d a)
  | 8 =>
    if word.extractLsb' 4 7 ≠ 0#7 then .error .reserved else
    let d := word.extractLsb' 18 7
    let a := word.extractLsb' 11 7
    .ok (.fcvtfi d a)
  | 9 =>
    let d := word.extractLsb' 18 7
    let a := word.extractLsb' 11 7
    let b := word.extractLsb' 4 7
    .ok (.flt d a b)
  | 10 =>
    let d := word.extractLsb' 18 7
    let a := word.extractLsb' 11 7
    let b := word.extractLsb' 4 7
    .ok (.feq d a b)
  | 11 =>
    let d := word.extractLsb' 18 7
    let a := word.extractLsb' 11 7
    let b := word.extractLsb' 4 7
    .ok (.fle d a b)
  | _ => .error .variant

noncomputable def dec27 (word : BitVec 32) : Except Reject Instr :=
  match (word.extractLsb' 0 4).toNat with
  | 0 =>
    let d := word.extractLsb' 18 7
    let a := word.extractLsb' 11 7
    let b := word.extractLsb' 4 7
    .ok (.fmac d a b)
  | _ => .error .variant

noncomputable def dec28 (word : BitVec 32) : Except Reject Instr :=
  if word.extractLsb' 18 7 ≠ 0#7 then .error .reserved else
  if word.extractLsb' 11 7 ≠ 0#7 then .error .reserved else
  if word.extractLsb' 2 9 ≠ 0#9 then .error .reserved else
  let s := word.extractLsb' 0 2
  .ok (.phase s)

noncomputable def dec29 (word : BitVec 32) : Except Reject Instr :=
  if word.extractLsb' 18 7 ≠ 0#7 then .error .reserved else
  if word.extractLsb' 2 2 ≠ 0#2 then .error .reserved else
  let a := word.extractLsb' 11 7
  let b := word.extractLsb' 4 7
  let s := word.extractLsb' 0 2
  .ok (.arrive a b s)

noncomputable def dec2A (word : BitVec 32) : Except Reject Instr :=
  match (word.extractLsb' 2 2).toNat with
  | 0 =>
    if word.extractLsb' 18 7 ≠ 0#7 then .error .reserved else
    let a := word.extractLsb' 11 7
    let b := word.extractLsb' 4 7
    let s := word.extractLsb' 0 2
    .ok (.waitb a b s)
  | 1 =>
    if word.extractLsb' 18 7 ≠ 0#7 then .error .reserved else
    let a := word.extractLsb' 11 7
    let b := word.extractLsb' 4 7
    let s := word.extractLsb' 0 2
    .ok (.waitv a b s)
  | 2 =>
    if word.extractLsb' 18 7 ≠ 0#7 then .error .reserved else
    let a := word.extractLsb' 11 7
    let b := word.extractLsb' 4 7
    let s := word.extractLsb' 0 2
    .ok (.waitc a b s)
  | _ => .error .variant

noncomputable def dec2B (word : BitVec 32) : Except Reject Instr :=
  match (word.extractLsb' 0 2).toNat with
  | 0 =>
    if word.extractLsb' 18 7 ≠ 0#7 then .error .reserved else
    if word.extractLsb' 4 7 ≠ 0#7 then .error .reserved else
    if word.extractLsb' 3 1 ≠ 0#1 then .error .reserved else
    if word.extractLsb' 2 1 ≠ 0#1 then .error .reserved else
    let a := word.extractLsb' 11 7
    .ok (.vacq a)
  | _ => .error .variant

noncomputable def dec2C (word : BitVec 32) : Except Reject Instr :=
  match (word.extractLsb' 0 4).toNat with
  | 0 =>
    let d := word.extractLsb' 18 7
    let a := word.extractLsb' 11 7
    let b := word.extractLsb' 4 7
    .ok (.racqr d a b)
  | 1 =>
    if word.extractLsb' 18 7 ≠ 0#7 then .error .reserved else
    let a := word.extractLsb' 11 7
    let b := word.extractLsb' 4 7
    .ok (.rrelr a b)
  | 2 =>
    let d := word.extractLsb' 18 7
    let a := word.extractLsb' 11 7
    let b := word.extractLsb' 4 7
    .ok (.racqw d a b)
  | 3 =>
    if word.extractLsb' 18 7 ≠ 0#7 then .error .reserved else
    let a := word.extractLsb' 11 7
    let b := word.extractLsb' 4 7
    .ok (.rrelw a b)
  | _ => .error .variant

noncomputable def dec2D (word : BitVec 32) : Except Reject Instr :=
  match (word.extractLsb' 0 2).toNat with
  | 0 =>
    if word.extractLsb' 3 1 ≠ 0#1 then .error .reserved else
    if word.extractLsb' 2 1 ≠ 0#1 then .error .reserved else
    let d := word.extractLsb' 18 7
    let a := word.extractLsb' 11 7
    let b := word.extractLsb' 4 7
    .ok (.xcopy d a b)
  | _ => .error .variant

noncomputable def dec2E (word : BitVec 32) : Except Reject Instr :=
  match (word.extractLsb' 0 4).toNat with
  | 0 =>
    if word.extractLsb' 4 7 ≠ 0#7 then .error .reserved else
    let d := word.extractLsb' 18 7
    let a := word.extractLsb' 11 7
    .ok (.xquery d a)
  | 1 =>
    if word.extractLsb' 4 7 ≠ 0#7 then .error .reserved else
    let d := word.extractLsb' 18 7
    let a := word.extractLsb' 11 7
    .ok (.xcancel d a)
  | _ => .error .variant

noncomputable def dec2F (word : BitVec 32) : Except Reject Instr :=
  match (word.extractLsb' 0 4).toNat with
  | 0 =>
    let d := word.extractLsb' 18 7
    let a := word.extractLsb' 11 7
    let b := word.extractLsb' 4 7
    .ok (.tlbinv d a b)
  | 1 =>
    if word.extractLsb' 4 7 ≠ 0#7 then .error .reserved else
    let d := word.extractLsb' 18 7
    let a := word.extractLsb' 11 7
    .ok (.tlbinvc d a)
  | 2 =>
    let d := word.extractLsb' 18 7
    let a := word.extractLsb' 11 7
    let b := word.extractLsb' 4 7
    .ok (.pgmig d a b)
  | _ => .error .variant

noncomputable def dec30 (word : BitVec 32) : Except Reject Instr :=
  let d := word.extractLsb' 18 7
  let a := word.extractLsb' 11 7
  let g := word.extractLsb' 7 4
  let f := word.extractLsb' 5 2
  let t := word.extractLsb' 0 5
  if !(1 ≤ t.toNat && t.toNat ≤ 17) then .error .tag else
  .ok (.setvl d a g f t)

noncomputable def dec31 (word : BitVec 32) : Except Reject Instr :=
  if word.extractLsb' 18 7 ≠ 0#7 then .error .reserved else
  if word.extractLsb' 11 7 ≠ 0#7 then .error .reserved else
  if word.extractLsb' 3 8 ≠ 0#8 then .error .reserved else
  let c := word.extractLsb' 0 3
  if 5 < c.toNat then .error .range else
  .ok (.vdecl c)

noncomputable def dec32 (word : BitVec 32) : Except Reject Instr :=
  match (word.extractLsb' 10 1).toNat with
  | 0 =>
    if word.extractLsb' 18 7 ≠ 0#7 then .error .reserved else
    if word.extractLsb' 6 4 ≠ 0#4 then .error .reserved else
    let a := word.extractLsb' 11 7
    let n := word.extractLsb' 0 6
    if !(1 ≤ n.toNat && n.toNat ≤ 32) then .error .range else
    .ok (.loop a n)
  | 1 =>
    if word.extractLsb' 18 7 ≠ 0#7 then .error .reserved else
    if word.extractLsb' 6 4 ≠ 0#4 then .error .reserved else
    let a := word.extractLsb' 11 7
    let n := word.extractLsb' 0 6
    if !(1 ≤ n.toNat && n.toNat ≤ 32) then .error .range else
    .ok (.loopP a n)
  | _ => .error .variant

noncomputable def dec33 (word : BitVec 32) : Except Reject Instr :=
  if word.extractLsb' 4 7 ≠ 0#7 then .error .reserved else
  let d := word.extractLsb' 18 7
  let a := word.extractLsb' 11 7
  let s := word.extractLsb' 0 4
  .ok (.bump d a s)

noncomputable def dec34 (word : BitVec 32) : Except Reject Instr :=
  match (word.extractLsb' 0 2).toNat with
  | 0 =>
    if word.extractLsb' 4 7 ≠ 0#7 then .error .reserved else
    let d := word.extractLsb' 18 7
    let a := word.extractLsb' 11 7
    let m := word.getLsbD 3
    let z := word.getLsbD 2
    if m && d == 0#7 then .error .maskBit else
    .ok (.vmv d a m z)
  | 1 =>
    if word.extractLsb' 4 7 ≠ 0#7 then .error .reserved else
    let d := word.extractLsb' 18 7
    let a := word.extractLsb' 11 7
    let m := word.getLsbD 3
    let z := word.getLsbD 2
    if m && d == 0#7 then .error .maskBit else
    .ok (.vsplat d a m z)
  | 2 =>
    if word.extractLsb' 3 1 ≠ 0#1 then .error .reserved else
    if word.extractLsb' 2 1 ≠ 0#1 then .error .reserved else
    let d := word.extractLsb' 18 7
    let a := word.extractLsb' 11 7
    let b := word.extractLsb' 4 7
    .ok (.vext d a b)
  | 3 =>
    if word.extractLsb' 3 1 ≠ 0#1 then .error .reserved else
    if word.extractLsb' 2 1 ≠ 0#1 then .error .reserved else
    let d := word.extractLsb' 18 7
    let a := word.extractLsb' 11 7
    let b := word.extractLsb' 4 7
    .ok (.vins d a b)
  | _ => .error .variant

noncomputable def dec35 (word : BitVec 32) : Except Reject Instr :=
  match (word.extractLsb' 0 2).toNat with
  | 0 =>
    let d := word.extractLsb' 18 7
    let a := word.extractLsb' 11 7
    let b := word.extractLsb' 4 7
    let m := word.getLsbD 3
    let z := word.getLsbD 2
    if m && d == 0#7 then .error .maskBit else
    .ok (.vperm d a b m z)
  | 1 =>
    let d := word.extractLsb' 18 7
    let a := word.extractLsb' 11 7
    let b := word.extractLsb' 4 7
    let m := word.getLsbD 3
    let z := word.getLsbD 2
    if m && d == 0#7 then .error .maskBit else
    .ok (.vslup d a b m z)
  | 2 =>
    let d := word.extractLsb' 18 7
    let a := word.extractLsb' 11 7
    let b := word.extractLsb' 4 7
    let m := word.getLsbD 3
    let z := word.getLsbD 2
    if m && d == 0#7 then .error .maskBit else
    .ok (.vsldn d a b m z)
  | 3 =>
    if word.extractLsb' 4 7 ≠ 0#7 then .error .reserved else
    let d := word.extractLsb' 18 7
    let a := word.extractLsb' 11 7
    let m := word.getLsbD 3
    let z := word.getLsbD 2
    if m && d == 0#7 then .error .maskBit else
    .ok (.vrev d a m z)
  | _ => .error .variant

noncomputable def dec36 (word : BitVec 32) : Except Reject Instr :=
  match (word.extractLsb' 0 2).toNat with
  | 0 =>
    if word.extractLsb' 3 1 ≠ 0#1 then .error .reserved else
    let d := word.extractLsb' 18 7
    let a := word.extractLsb' 11 7
    let b := word.extractLsb' 4 7
    let z := word.getLsbD 2
    .ok (.vcompress d a b z)
  | 1 =>
    if word.extractLsb' 3 1 ≠ 0#1 then .error .reserved else
    let d := word.extractLsb' 18 7
    let a := word.extractLsb' 11 7
    let b := word.extractLsb' 4 7
    let z := word.getLsbD 2
    .ok (.vexpand d a b z)
  | 2 =>
    if word.extractLsb' 4 7 ≠ 0#7 then .error .reserved else
    let d := word.extractLsb' 18 7
    let a := word.extractLsb' 11 7
    let m := word.getLsbD 3
    let z := word.getLsbD 2
    if m && d == 0#7 then .error .maskBit else
    .ok (.viota d a m z)
  | 3 =>
    if word.extractLsb' 11 7 ≠ 0#7 then .error .reserved else
    if word.extractLsb' 4 7 ≠ 0#7 then .error .reserved else
    let d := word.extractLsb' 18 7
    let m := word.getLsbD 3
    let z := word.getLsbD 2
    if m && d == 0#7 then .error .maskBit else
    .ok (.vid d m z)
  | _ => .error .variant

noncomputable def dec37 (word : BitVec 32) : Except Reject Instr :=
  match (word.extractLsb' 0 2).toNat with
  | 0 =>
    if word.extractLsb' 4 7 ≠ 0#7 then .error .reserved else
    if word.extractLsb' 2 1 ≠ 0#1 then .error .reserved else
    let d := word.extractLsb' 18 7
    let a := word.extractLsb' 11 7
    let m := word.getLsbD 3
    .ok (.vredadd d a m)
  | 1 =>
    if word.extractLsb' 4 7 ≠ 0#7 then .error .reserved else
    if word.extractLsb' 2 1 ≠ 0#1 then .error .reserved else
    let d := word.extractLsb' 18 7
    let a := word.extractLsb' 11 7
    let m := word.getLsbD 3
    .ok (.vredmin d a m)
  | 2 =>
    if word.extractLsb' 4 7 ≠ 0#7 then .error .reserved else
    if word.extractLsb' 2 1 ≠ 0#1 then .error .reserved else
    let d := word.extractLsb' 18 7
    let a := word.extractLsb' 11 7
    let m := word.getLsbD 3
    .ok (.vredmax d a m)
  | 3 =>
    if word.extractLsb' 4 7 ≠ 0#7 then .error .reserved else
    if word.extractLsb' 2 1 ≠ 0#1 then .error .reserved else
    let d := word.extractLsb' 18 7
    let a := word.extractLsb' 11 7
    let m := word.getLsbD 3
    .ok (.vredminn d a m)
  | _ => .error .variant

noncomputable def dec38 (word : BitVec 32) : Except Reject Instr :=
  match (word.extractLsb' 0 2).toNat with
  | 0 =>
    if word.extractLsb' 4 7 ≠ 0#7 then .error .reserved else
    if word.extractLsb' 2 1 ≠ 0#1 then .error .reserved else
    let d := word.extractLsb' 18 7
    let a := word.extractLsb' 11 7
    let m := word.getLsbD 3
    .ok (.vredand d a m)
  | 1 =>
    if word.extractLsb' 4 7 ≠ 0#7 then .error .reserved else
    if word.extractLsb' 2 1 ≠ 0#1 then .error .reserved else
    let d := word.extractLsb' 18 7
    let a := word.extractLsb' 11 7
    let m := word.getLsbD 3
    .ok (.vredor d a m)
  | 2 =>
    if word.extractLsb' 4 7 ≠ 0#7 then .error .reserved else
    if word.extractLsb' 2 1 ≠ 0#1 then .error .reserved else
    let d := word.extractLsb' 18 7
    let a := word.extractLsb' 11 7
    let m := word.getLsbD 3
    .ok (.vredxor d a m)
  | 3 =>
    if word.extractLsb' 4 7 ≠ 0#7 then .error .reserved else
    if word.extractLsb' 2 1 ≠ 0#1 then .error .reserved else
    let d := word.extractLsb' 18 7
    let a := word.extractLsb' 11 7
    let m := word.getLsbD 3
    .ok (.vredmaxn d a m)
  | _ => .error .variant

noncomputable def dec39 (word : BitVec 32) : Except Reject Instr :=
  match (word.extractLsb' 0 2).toNat with
  | 0 =>
    if word.extractLsb' 4 7 ≠ 0#7 then .error .reserved else
    if word.extractLsb' 2 1 ≠ 0#1 then .error .reserved else
    let d := word.extractLsb' 18 7
    let a := word.extractLsb' 11 7
    let m := word.getLsbD 3
    .ok (.vfredsum d a m)
  | 1 =>
    if word.extractLsb' 4 7 ≠ 0#7 then .error .reserved else
    if word.extractLsb' 2 1 ≠ 0#1 then .error .reserved else
    let d := word.extractLsb' 18 7
    let a := word.extractLsb' 11 7
    let m := word.getLsbD 3
    .ok (.vfredseq d a m)
  | 2 =>
    if word.extractLsb' 4 7 ≠ 0#7 then .error .reserved else
    if word.extractLsb' 2 1 ≠ 0#1 then .error .reserved else
    let d := word.extractLsb' 18 7
    let a := word.extractLsb' 11 7
    let m := word.getLsbD 3
    .ok (.vfredmin d a m)
  | 3 =>
    if word.extractLsb' 4 7 ≠ 0#7 then .error .reserved else
    if word.extractLsb' 2 1 ≠ 0#1 then .error .reserved else
    let d := word.extractLsb' 18 7
    let a := word.extractLsb' 11 7
    let m := word.getLsbD 3
    .ok (.vfredmax d a m)
  | _ => .error .variant

noncomputable def dec3A (word : BitVec 32) : Except Reject Instr :=
  match (word.extractLsb' 0 2).toNat with
  | 0 =>
    if word.extractLsb' 3 1 ≠ 0#1 then .error .reserved else
    if word.extractLsb' 2 1 ≠ 0#1 then .error .reserved else
    let d := word.extractLsb' 18 7
    let a := word.extractLsb' 11 7
    let b := word.extractLsb' 4 7
    .ok (.mand d a b)
  | 1 =>
    if word.extractLsb' 3 1 ≠ 0#1 then .error .reserved else
    if word.extractLsb' 2 1 ≠ 0#1 then .error .reserved else
    let d := word.extractLsb' 18 7
    let a := word.extractLsb' 11 7
    let b := word.extractLsb' 4 7
    .ok (.mor d a b)
  | 2 =>
    if word.extractLsb' 3 1 ≠ 0#1 then .error .reserved else
    if word.extractLsb' 2 1 ≠ 0#1 then .error .reserved else
    let d := word.extractLsb' 18 7
    let a := word.extractLsb' 11 7
    let b := word.extractLsb' 4 7
    .ok (.mxor d a b)
  | 3 =>
    if word.extractLsb' 4 7 ≠ 0#7 then .error .reserved else
    if word.extractLsb' 3 1 ≠ 0#1 then .error .reserved else
    if word.extractLsb' 2 1 ≠ 0#1 then .error .reserved else
    let d := word.extractLsb' 18 7
    let a := word.extractLsb' 11 7
    .ok (.mnot d a)
  | _ => .error .variant

noncomputable def dec3B (word : BitVec 32) : Except Reject Instr :=
  match (word.extractLsb' 0 2).toNat with
  | 0 =>
    if word.extractLsb' 4 7 ≠ 0#7 then .error .reserved else
    if word.extractLsb' 2 1 ≠ 0#1 then .error .reserved else
    let d := word.extractLsb' 18 7
    let a := word.extractLsb' 11 7
    let m := word.getLsbD 3
    .ok (.mpopc d a m)
  | 1 =>
    if word.extractLsb' 4 7 ≠ 0#7 then .error .reserved else
    if word.extractLsb' 2 1 ≠ 0#1 then .error .reserved else
    let d := word.extractLsb' 18 7
    let a := word.extractLsb' 11 7
    let m := word.getLsbD 3
    .ok (.mfirst d a m)
  | 2 =>
    if word.extractLsb' 4 7 ≠ 0#7 then .error .reserved else
    if word.extractLsb' 2 1 ≠ 0#1 then .error .reserved else
    let d := word.extractLsb' 18 7
    let a := word.extractLsb' 11 7
    let m := word.getLsbD 3
    .ok (.mlast d a m)
  | _ => .error .variant

noncomputable def dec3C (word : BitVec 32) : Except Reject Instr :=
  match (word.extractLsb' 0 2).toNat with
  | 0 =>
    if word.extractLsb' 9 2 ≠ 0#2 then .error .register else
    if word.extractLsb' 3 1 ≠ 0#1 then .error .reserved else
    if word.extractLsb' 2 1 ≠ 0#1 then .error .reserved else
    let d := word.extractLsb' 18 7
    let a := word.extractLsb' 11 7
    let t := word.extractLsb' 4 5
    if !(1 ≤ t.toNat && t.toNat ≤ 21) then .error .tag else
    .ok (.vretag d a t)
  | 1 =>
    if word.extractLsb' 4 7 ≠ 0#7 then .error .reserved else
    if word.extractLsb' 3 1 ≠ 0#1 then .error .reserved else
    if word.extractLsb' 2 1 ≠ 0#1 then .error .reserved else
    let d := word.extractLsb' 18 7
    let a := word.extractLsb' 11 7
    .ok (.vtagq d a)
  | 2 =>
    if word.extractLsb' 4 7 ≠ 0#7 then .error .reserved else
    if word.extractLsb' 3 1 ≠ 0#1 then .error .reserved else
    if word.extractLsb' 2 1 ≠ 0#1 then .error .reserved else
    let d := word.extractLsb' 18 7
    let a := word.extractLsb' 11 7
    .ok (.vshape d a)
  | _ => .error .variant

noncomputable def dec3D (word : BitVec 32) : Except Reject Instr :=
  match (word.extractLsb' 0 2).toNat with
  | 0 =>
    if word.extractLsb' 4 7 ≠ 0#7 then .error .reserved else
    let d := word.extractLsb' 18 7
    let a := word.extractLsb' 11 7
    let m := word.getLsbD 3
    let z := word.getLsbD 2
    if m && d == 0#7 then .error .maskBit else
    .ok (.vsegsum d a m z)
  | 1 =>
    if word.extractLsb' 4 7 ≠ 0#7 then .error .reserved else
    let d := word.extractLsb' 18 7
    let a := word.extractLsb' 11 7
    let m := word.getLsbD 3
    let z := word.getLsbD 2
    if m && d == 0#7 then .error .maskBit else
    .ok (.vsegmin d a m z)
  | 2 =>
    if word.extractLsb' 4 7 ≠ 0#7 then .error .reserved else
    let d := word.extractLsb' 18 7
    let a := word.extractLsb' 11 7
    let m := word.getLsbD 3
    let z := word.getLsbD 2
    if m && d == 0#7 then .error .maskBit else
    .ok (.vsegmax d a m z)
  | 3 =>
    if word.extractLsb' 4 7 ≠ 0#7 then .error .reserved else
    let d := word.extractLsb' 18 7
    let a := word.extractLsb' 11 7
    let m := word.getLsbD 3
    let z := word.getLsbD 2
    if m && d == 0#7 then .error .maskBit else
    .ok (.vsegfsum d a m z)
  | _ => .error .variant

noncomputable def dec3E (word : BitVec 32) : Except Reject Instr :=
  match (word.extractLsb' 0 2).toNat with
  | 0 =>
    if word.extractLsb' 11 7 ≠ 0#7 then .error .reserved else
    if word.extractLsb' 4 7 ≠ 0#7 then .error .reserved else
    if word.extractLsb' 3 1 ≠ 0#1 then .error .reserved else
    if word.extractLsb' 2 1 ≠ 0#1 then .error .reserved else
    let d := word.extractLsb' 18 7
    .ok (.vmaxvl d)
  | 1 =>
    if word.extractLsb' 11 7 ≠ 0#7 then .error .reserved else
    if word.extractLsb' 4 7 ≠ 0#7 then .error .reserved else
    if word.extractLsb' 3 1 ≠ 0#1 then .error .reserved else
    if word.extractLsb' 2 1 ≠ 0#1 then .error .reserved else
    let d := word.extractLsb' 18 7
    .ok (.vlanes d)
  | _ => .error .variant

noncomputable def dec3F (word : BitVec 32) : Except Reject Instr :=
  match (word.extractLsb' 0 2).toNat with
  | 0 =>
    let d := word.extractLsb' 18 7
    let a := word.extractLsb' 11 7
    let b := word.extractLsb' 4 7
    let m := word.getLsbD 3
    let z := word.getLsbD 2
    if m && d == 0#7 then .error .maskBit else
    .ok (.vaddr d a b m z)
  | _ => .error .variant

noncomputable def dec40 (word : BitVec 32) : Except Reject Instr :=
  match (word.extractLsb' 0 2).toNat with
  | 0 =>
    let d := word.extractLsb' 18 7
    let a := word.extractLsb' 11 7
    let b := word.extractLsb' 4 7
    let m := word.getLsbD 3
    let z := word.getLsbD 2
    if m && d == 0#7 then .error .maskBit else
    .ok (.vadd d a b m z)
  | 1 =>
    let d := word.extractLsb' 18 7
    let a := word.extractLsb' 11 7
    let b := word.extractLsb' 4 7
    let m := word.getLsbD 3
    let z := word.getLsbD 2
    if m && d == 0#7 then .error .maskBit else
    .ok (.vaddX d a b m z)
  | 2 =>
    let d := word.extractLsb' 18 7
    let a := word.extractLsb' 11 7
    let b := word.extractLsb' 4 7
    let m := word.getLsbD 3
    let z := word.getLsbD 2
    if m && d == 0#7 then .error .maskBit else
    .ok (.vsub d a b m z)
  | 3 =>
    let d := word.extractLsb' 18 7
    let a := word.extractLsb' 11 7
    let b := word.extractLsb' 4 7
    let m := word.getLsbD 3
    let z := word.getLsbD 2
    if m && d == 0#7 then .error .maskBit else
    .ok (.vsubX d a b m z)
  | _ => .error .variant

noncomputable def dec41 (word : BitVec 32) : Except Reject Instr :=
  match (word.extractLsb' 0 2).toNat with
  | 0 =>
    let d := word.extractLsb' 18 7
    let a := word.extractLsb' 11 7
    let b := word.extractLsb' 4 7
    let m := word.getLsbD 3
    let z := word.getLsbD 2
    if m && d == 0#7 then .error .maskBit else
    .ok (.vand d a b m z)
  | 1 =>
    let d := word.extractLsb' 18 7
    let a := word.extractLsb' 11 7
    let b := word.extractLsb' 4 7
    let m := word.getLsbD 3
    let z := word.getLsbD 2
    if m && d == 0#7 then .error .maskBit else
    .ok (.vor d a b m z)
  | 2 =>
    let d := word.extractLsb' 18 7
    let a := word.extractLsb' 11 7
    let b := word.extractLsb' 4 7
    let m := word.getLsbD 3
    let z := word.getLsbD 2
    if m && d == 0#7 then .error .maskBit else
    .ok (.vxor d a b m z)
  | 3 =>
    let d := word.extractLsb' 18 7
    let a := word.extractLsb' 11 7
    let b := word.extractLsb' 4 7
    let m := word.getLsbD 3
    let z := word.getLsbD 2
    if m && d == 0#7 then .error .maskBit else
    .ok (.vandn d a b m z)
  | _ => .error .variant

noncomputable def dec42 (word : BitVec 32) : Except Reject Instr :=
  match (word.extractLsb' 0 2).toNat with
  | 0 =>
    let d := word.extractLsb' 18 7
    let a := word.extractLsb' 11 7
    let b := word.extractLsb' 4 7
    let m := word.getLsbD 3
    let z := word.getLsbD 2
    if m && d == 0#7 then .error .maskBit else
    .ok (.vsll d a b m z)
  | 1 =>
    let d := word.extractLsb' 18 7
    let a := word.extractLsb' 11 7
    let b := word.extractLsb' 4 7
    let m := word.getLsbD 3
    let z := word.getLsbD 2
    if m && d == 0#7 then .error .maskBit else
    .ok (.vsrl d a b m z)
  | 2 =>
    let d := word.extractLsb' 18 7
    let a := word.extractLsb' 11 7
    let b := word.extractLsb' 4 7
    let m := word.getLsbD 3
    let z := word.getLsbD 2
    if m && d == 0#7 then .error .maskBit else
    .ok (.vsra d a b m z)
  | 3 =>
    let d := word.extractLsb' 18 7
    let a := word.extractLsb' 11 7
    let b := word.extractLsb' 4 7
    let m := word.getLsbD 3
    let z := word.getLsbD 2
    if m && d == 0#7 then .error .maskBit else
    .ok (.vror d a b m z)
  | _ => .error .variant

noncomputable def dec43 (word : BitVec 32) : Except Reject Instr :=
  match (word.extractLsb' 0 2).toNat with
  | 0 =>
    let d := word.extractLsb' 18 7
    let a := word.extractLsb' 11 7
    let b := word.extractLsb' 4 7
    let m := word.getLsbD 3
    let z := word.getLsbD 2
    if m && d == 0#7 then .error .maskBit else
    .ok (.vsllX d a b m z)
  | 1 =>
    let d := word.extractLsb' 18 7
    let a := word.extractLsb' 11 7
    let b := word.extractLsb' 4 7
    let m := word.getLsbD 3
    let z := word.getLsbD 2
    if m && d == 0#7 then .error .maskBit else
    .ok (.vsrlX d a b m z)
  | 2 =>
    let d := word.extractLsb' 18 7
    let a := word.extractLsb' 11 7
    let b := word.extractLsb' 4 7
    let m := word.getLsbD 3
    let z := word.getLsbD 2
    if m && d == 0#7 then .error .maskBit else
    .ok (.vsraX d a b m z)
  | 3 =>
    let d := word.extractLsb' 18 7
    let a := word.extractLsb' 11 7
    let b := word.extractLsb' 4 7
    let m := word.getLsbD 3
    let z := word.getLsbD 2
    if m && d == 0#7 then .error .maskBit else
    .ok (.vrorX d a b m z)
  | _ => .error .variant

noncomputable def dec44 (word : BitVec 32) : Except Reject Instr :=
  match (word.extractLsb' 0 2).toNat with
  | 0 =>
    let d := word.extractLsb' 18 7
    let a := word.extractLsb' 11 7
    let b := word.extractLsb' 4 7
    let m := word.getLsbD 3
    let z := word.getLsbD 2
    if m && d == 0#7 then .error .maskBit else
    .ok (.vmul d a b m z)
  | 1 =>
    let d := word.extractLsb' 18 7
    let a := word.extractLsb' 11 7
    let b := word.extractLsb' 4 7
    let m := word.getLsbD 3
    let z := word.getLsbD 2
    if m && d == 0#7 then .error .maskBit else
    .ok (.vmulh d a b m z)
  | 2 =>
    let d := word.extractLsb' 18 7
    let a := word.extractLsb' 11 7
    let b := word.extractLsb' 4 7
    let m := word.getLsbD 3
    let z := word.getLsbD 2
    if m && d == 0#7 then .error .maskBit else
    .ok (.vmulhn d a b m z)
  | 3 =>
    let d := word.extractLsb' 18 7
    let a := word.extractLsb' 11 7
    let b := word.extractLsb' 4 7
    let m := word.getLsbD 3
    let z := word.getLsbD 2
    if m && d == 0#7 then .error .maskBit else
    .ok (.vmacc d a b m z)
  | _ => .error .variant

noncomputable def dec45 (word : BitVec 32) : Except Reject Instr :=
  match (word.extractLsb' 0 2).toNat with
  | 0 =>
    let d := word.extractLsb' 18 7
    let a := word.extractLsb' 11 7
    let b := word.extractLsb' 4 7
    let m := word.getLsbD 3
    let z := word.getLsbD 2
    if m && d == 0#7 then .error .maskBit else
    .ok (.vmin d a b m z)
  | 1 =>
    let d := word.extractLsb' 18 7
    let a := word.extractLsb' 11 7
    let b := word.extractLsb' 4 7
    let m := word.getLsbD 3
    let z := word.getLsbD 2
    if m && d == 0#7 then .error .maskBit else
    .ok (.vmax d a b m z)
  | 2 =>
    let d := word.extractLsb' 18 7
    let a := word.extractLsb' 11 7
    let b := word.extractLsb' 4 7
    let m := word.getLsbD 3
    let z := word.getLsbD 2
    if m && d == 0#7 then .error .maskBit else
    .ok (.vminn d a b m z)
  | 3 =>
    let d := word.extractLsb' 18 7
    let a := word.extractLsb' 11 7
    let b := word.extractLsb' 4 7
    let m := word.getLsbD 3
    let z := word.getLsbD 2
    if m && d == 0#7 then .error .maskBit else
    .ok (.vmaxn d a b m z)
  | _ => .error .variant

noncomputable def dec46 (word : BitVec 32) : Except Reject Instr :=
  match (word.extractLsb' 0 2).toNat with
  | 0 =>
    let d := word.extractLsb' 18 7
    let a := word.extractLsb' 11 7
    let b := word.extractLsb' 4 7
    let m := word.getLsbD 3
    let z := word.getLsbD 2
    if m && d == 0#7 then .error .maskBit else
    .ok (.vaddsat d a b m z)
  | 1 =>
    let d := word.extractLsb' 18 7
    let a := word.extractLsb' 11 7
    let b := word.extractLsb' 4 7
    let m := word.getLsbD 3
    let z := word.getLsbD 2
    if m && d == 0#7 then .error .maskBit else
    .ok (.vsubsat d a b m z)
  | 2 =>
    let d := word.extractLsb' 18 7
    let a := word.extractLsb' 11 7
    let b := word.extractLsb' 4 7
    let m := word.getLsbD 3
    let z := word.getLsbD 2
    if m && d == 0#7 then .error .maskBit else
    .ok (.vaddsatn d a b m z)
  | 3 =>
    let d := word.extractLsb' 18 7
    let a := word.extractLsb' 11 7
    let b := word.extractLsb' 4 7
    let m := word.getLsbD 3
    let z := word.getLsbD 2
    if m && d == 0#7 then .error .maskBit else
    .ok (.vsubsatn d a b m z)
  | _ => .error .variant

noncomputable def dec47 (word : BitVec 32) : Except Reject Instr :=
  match (word.extractLsb' 0 2).toNat with
  | 0 =>
    let d := word.extractLsb' 18 7
    let a := word.extractLsb' 11 7
    let b := word.extractLsb' 4 7
    let m := word.getLsbD 3
    let z := word.getLsbD 2
    if m && d == 0#7 then .error .maskBit else
    .ok (.vseq d a b m z)
  | 1 =>
    let d := word.extractLsb' 18 7
    let a := word.extractLsb' 11 7
    let b := word.extractLsb' 4 7
    let m := word.getLsbD 3
    let z := word.getLsbD 2
    if m && d == 0#7 then .error .maskBit else
    .ok (.vsne d a b m z)
  | 2 =>
    let d := word.extractLsb' 18 7
    let a := word.extractLsb' 11 7
    let b := word.extractLsb' 4 7
    let m := word.getLsbD 3
    let z := word.getLsbD 2
    if m && d == 0#7 then .error .maskBit else
    .ok (.vslt d a b m z)
  | 3 =>
    let d := word.extractLsb' 18 7
    let a := word.extractLsb' 11 7
    let b := word.extractLsb' 4 7
    let m := word.getLsbD 3
    let z := word.getLsbD 2
    if m && d == 0#7 then .error .maskBit else
    .ok (.vsltn d a b m z)
  | _ => .error .variant

noncomputable def dec48 (word : BitVec 32) : Except Reject Instr :=
  match (word.extractLsb' 0 2).toNat with
  | 0 =>
    let d := word.extractLsb' 18 7
    let a := word.extractLsb' 11 7
    let b := word.extractLsb' 4 7
    let m := word.getLsbD 3
    let z := word.getLsbD 2
    if m && d == 0#7 then .error .maskBit else
    .ok (.vseqX d a b m z)
  | 1 =>
    let d := word.extractLsb' 18 7
    let a := word.extractLsb' 11 7
    let b := word.extractLsb' 4 7
    let m := word.getLsbD 3
    let z := word.getLsbD 2
    if m && d == 0#7 then .error .maskBit else
    .ok (.vsneX d a b m z)
  | 2 =>
    let d := word.extractLsb' 18 7
    let a := word.extractLsb' 11 7
    let b := word.extractLsb' 4 7
    let m := word.getLsbD 3
    let z := word.getLsbD 2
    if m && d == 0#7 then .error .maskBit else
    .ok (.vsltX d a b m z)
  | 3 =>
    let d := word.extractLsb' 18 7
    let a := word.extractLsb' 11 7
    let b := word.extractLsb' 4 7
    let m := word.getLsbD 3
    let z := word.getLsbD 2
    if m && d == 0#7 then .error .maskBit else
    .ok (.vsltnX d a b m z)
  | _ => .error .variant

noncomputable def dec49 (word : BitVec 32) : Except Reject Instr :=
  match (word.extractLsb' 0 2).toNat with
  | 0 =>
    let d := word.extractLsb' 18 7
    let a := word.extractLsb' 11 7
    let b := word.extractLsb' 4 7
    let m := word.getLsbD 3
    let z := word.getLsbD 2
    if m && d == 0#7 then .error .maskBit else
    .ok (.vdiv d a b m z)
  | 1 =>
    let d := word.extractLsb' 18 7
    let a := word.extractLsb' 11 7
    let b := word.extractLsb' 4 7
    let m := word.getLsbD 3
    let z := word.getLsbD 2
    if m && d == 0#7 then .error .maskBit else
    .ok (.vdivn d a b m z)
  | 2 =>
    let d := word.extractLsb' 18 7
    let a := word.extractLsb' 11 7
    let b := word.extractLsb' 4 7
    let m := word.getLsbD 3
    let z := word.getLsbD 2
    if m && d == 0#7 then .error .maskBit else
    .ok (.vrem d a b m z)
  | 3 =>
    let d := word.extractLsb' 18 7
    let a := word.extractLsb' 11 7
    let b := word.extractLsb' 4 7
    let m := word.getLsbD 3
    let z := word.getLsbD 2
    if m && d == 0#7 then .error .maskBit else
    .ok (.vremn d a b m z)
  | _ => .error .variant

noncomputable def dec4A (word : BitVec 32) : Except Reject Instr :=
  match (word.extractLsb' 0 2).toNat with
  | 0 =>
    if word.extractLsb' 4 7 ≠ 0#7 then .error .reserved else
    let d := word.extractLsb' 18 7
    let a := word.extractLsb' 11 7
    let m := word.getLsbD 3
    let z := word.getLsbD 2
    if m && d == 0#7 then .error .maskBit else
    .ok (.vabs d a m z)
  | 1 =>
    if word.extractLsb' 4 7 ≠ 0#7 then .error .reserved else
    let d := word.extractLsb' 18 7
    let a := word.extractLsb' 11 7
    let m := word.getLsbD 3
    let z := word.getLsbD 2
    if m && d == 0#7 then .error .maskBit else
    .ok (.vneg d a m z)
  | 2 =>
    if word.extractLsb' 4 7 ≠ 0#7 then .error .reserved else
    let d := word.extractLsb' 18 7
    let a := word.extractLsb' 11 7
    let m := word.getLsbD 3
    let z := word.getLsbD 2
    if m && d == 0#7 then .error .maskBit else
    .ok (.vclz d a m z)
  | 3 =>
    if word.extractLsb' 4 7 ≠ 0#7 then .error .reserved else
    let d := word.extractLsb' 18 7
    let a := word.extractLsb' 11 7
    let m := word.getLsbD 3
    let z := word.getLsbD 2
    if m && d == 0#7 then .error .maskBit else
    .ok (.vpopc d a m z)
  | _ => .error .variant

noncomputable def dec4B (word : BitVec 32) : Except Reject Instr :=
  match (word.extractLsb' 0 2).toNat with
  | 0 =>
    if word.extractLsb' 4 7 ≠ 0#7 then .error .reserved else
    let d := word.extractLsb' 18 7
    let a := word.extractLsb' 11 7
    let m := word.getLsbD 3
    let z := word.getLsbD 2
    if m && d == 0#7 then .error .maskBit else
    .ok (.vwiden d a m z)
  | 1 =>
    if word.extractLsb' 4 7 ≠ 0#7 then .error .reserved else
    let d := word.extractLsb' 18 7
    let a := word.extractLsb' 11 7
    let m := word.getLsbD 3
    let z := word.getLsbD 2
    if m && d == 0#7 then .error .maskBit else
    .ok (.vwidenn d a m z)
  | 2 =>
    if word.extractLsb' 4 7 ≠ 0#7 then .error .reserved else
    let d := word.extractLsb' 18 7
    let a := word.extractLsb' 11 7
    let m := word.getLsbD 3
    let z := word.getLsbD 2
    if m && d == 0#7 then .error .maskBit else
    .ok (.vnarrow d a m z)
  | 3 =>
    if word.extractLsb' 4 7 ≠ 0#7 then .error .reserved else
    let d := word.extractLsb' 18 7
    let a := word.extractLsb' 11 7
    let m := word.getLsbD 3
    let z := word.getLsbD 2
    if m && d == 0#7 then .error .maskBit else
    .ok (.vnarrowsat d a m z)
  | _ => .error .variant

noncomputable def dec4C (word : BitVec 32) : Except Reject Instr :=
  match (word.extractLsb' 0 2).toNat with
  | 0 =>
    if word.extractLsb' 3 1 ≠ 0#1 then .error .reserved else
    let d := word.extractLsb' 18 7
    let a := word.extractLsb' 11 7
    let b := word.extractLsb' 4 7
    let z := word.getLsbD 2
    .ok (.vmerge d a b z)
  | 1 =>
    if word.extractLsb' 3 1 ≠ 0#1 then .error .reserved else
    let d := word.extractLsb' 18 7
    let a := word.extractLsb' 11 7
    let b := word.extractLsb' 4 7
    let z := word.getLsbD 2
    .ok (.vmergeX d a b z)
  | _ => .error .variant

noncomputable def dec4D (word : BitVec 32) : Except Reject Instr :=
  match (word.extractLsb' 0 2).toNat with
  | 0 =>
    let d := word.extractLsb' 18 7
    let a := word.extractLsb' 11 7
    let b := word.extractLsb' 4 7
    let m := word.getLsbD 3
    let z := word.getLsbD 2
    if m && d == 0#7 then .error .maskBit else
    .ok (.vdot4 d a b m z)
  | 1 =>
    let d := word.extractLsb' 18 7
    let a := word.extractLsb' 11 7
    let b := word.extractLsb' 4 7
    let m := word.getLsbD 3
    let z := word.getLsbD 2
    if m && d == 0#7 then .error .maskBit else
    .ok (.vdot4n d a b m z)
  | 2 =>
    let d := word.extractLsb' 18 7
    let a := word.extractLsb' 11 7
    let b := word.extractLsb' 4 7
    let m := word.getLsbD 3
    let z := word.getLsbD 2
    if m && d == 0#7 then .error .maskBit else
    .ok (.vdot2 d a b m z)
  | _ => .error .variant

noncomputable def dec4E (word : BitVec 32) : Except Reject Instr :=
  match (word.extractLsb' 0 2).toNat with
  | 0 =>
    let d := word.extractLsb' 18 7
    let a := word.extractLsb' 11 7
    let b := word.extractLsb' 4 7
    let m := word.getLsbD 3
    let z := word.getLsbD 2
    if m && d == 0#7 then .error .maskBit else
    .ok (.vmaccX d a b m z)
  | _ => .error .variant

noncomputable def dec4F (word : BitVec 32) : Except Reject Instr :=
  match (word.extractLsb' 0 2).toNat with
  | 0 =>
    let d := word.extractLsb' 18 7
    let a := word.extractLsb' 11 7
    let b := word.extractLsb' 4 7
    let m := word.getLsbD 3
    let z := word.getLsbD 2
    if m && d == 0#7 then .error .maskBit else
    .ok (.vclamp d a b m z)
  | _ => .error .variant

noncomputable def dec50 (word : BitVec 32) : Except Reject Instr :=
  match (word.extractLsb' 0 2).toNat with
  | 0 =>
    let d := word.extractLsb' 18 7
    let a := word.extractLsb' 11 7
    let b := word.extractLsb' 4 7
    let m := word.getLsbD 3
    let z := word.getLsbD 2
    if m && d == 0#7 then .error .maskBit else
    .ok (.vfadd d a b m z)
  | 1 =>
    let d := word.extractLsb' 18 7
    let a := word.extractLsb' 11 7
    let b := word.extractLsb' 4 7
    let m := word.getLsbD 3
    let z := word.getLsbD 2
    if m && d == 0#7 then .error .maskBit else
    .ok (.vfaddX d a b m z)
  | 2 =>
    let d := word.extractLsb' 18 7
    let a := word.extractLsb' 11 7
    let b := word.extractLsb' 4 7
    let m := word.getLsbD 3
    let z := word.getLsbD 2
    if m && d == 0#7 then .error .maskBit else
    .ok (.vfsub d a b m z)
  | 3 =>
    let d := word.extractLsb' 18 7
    let a := word.extractLsb' 11 7
    let b := word.extractLsb' 4 7
    let m := word.getLsbD 3
    let z := word.getLsbD 2
    if m && d == 0#7 then .error .maskBit else
    .ok (.vfsubX d a b m z)
  | _ => .error .variant

noncomputable def dec51 (word : BitVec 32) : Except Reject Instr :=
  match (word.extractLsb' 0 2).toNat with
  | 0 =>
    let d := word.extractLsb' 18 7
    let a := word.extractLsb' 11 7
    let b := word.extractLsb' 4 7
    let m := word.getLsbD 3
    let z := word.getLsbD 2
    if m && d == 0#7 then .error .maskBit else
    .ok (.vfmul d a b m z)
  | 1 =>
    let d := word.extractLsb' 18 7
    let a := word.extractLsb' 11 7
    let b := word.extractLsb' 4 7
    let m := word.getLsbD 3
    let z := word.getLsbD 2
    if m && d == 0#7 then .error .maskBit else
    .ok (.vfmulX d a b m z)
  | 2 =>
    let d := word.extractLsb' 18 7
    let a := word.extractLsb' 11 7
    let b := word.extractLsb' 4 7
    let m := word.getLsbD 3
    let z := word.getLsbD 2
    if m && d == 0#7 then .error .maskBit else
    .ok (.vfdiv d a b m z)
  | 3 =>
    let d := word.extractLsb' 18 7
    let a := word.extractLsb' 11 7
    let b := word.extractLsb' 4 7
    let m := word.getLsbD 3
    let z := word.getLsbD 2
    if m && d == 0#7 then .error .maskBit else
    .ok (.vfdivX d a b m z)
  | _ => .error .variant

noncomputable def dec52 (word : BitVec 32) : Except Reject Instr :=
  match (word.extractLsb' 0 2).toNat with
  | 0 =>
    let d := word.extractLsb' 18 7
    let a := word.extractLsb' 11 7
    let b := word.extractLsb' 4 7
    let m := word.getLsbD 3
    let z := word.getLsbD 2
    if m && d == 0#7 then .error .maskBit else
    .ok (.vfma d a b m z)
  | 1 =>
    let d := word.extractLsb' 18 7
    let a := word.extractLsb' 11 7
    let b := word.extractLsb' 4 7
    let m := word.getLsbD 3
    let z := word.getLsbD 2
    if m && d == 0#7 then .error .maskBit else
    .ok (.vfms d a b m z)
  | 2 =>
    let d := word.extractLsb' 18 7
    let a := word.extractLsb' 11 7
    let b := word.extractLsb' 4 7
    let m := word.getLsbD 3
    let z := word.getLsbD 2
    if m && d == 0#7 then .error .maskBit else
    .ok (.vfnma d a b m z)
  | 3 =>
    let d := word.extractLsb' 18 7
    let a := word.extractLsb' 11 7
    let b := word.extractLsb' 4 7
    let m := word.getLsbD 3
    let z := word.getLsbD 2
    if m && d == 0#7 then .error .maskBit else
    .ok (.vfnms d a b m z)
  | _ => .error .variant

noncomputable def dec53 (word : BitVec 32) : Except Reject Instr :=
  match (word.extractLsb' 0 2).toNat with
  | 0 =>
    let d := word.extractLsb' 18 7
    let a := word.extractLsb' 11 7
    let b := word.extractLsb' 4 7
    let m := word.getLsbD 3
    let z := word.getLsbD 2
    if m && d == 0#7 then .error .maskBit else
    .ok (.vfmaX d a b m z)
  | 1 =>
    let d := word.extractLsb' 18 7
    let a := word.extractLsb' 11 7
    let b := word.extractLsb' 4 7
    let m := word.getLsbD 3
    let z := word.getLsbD 2
    if m && d == 0#7 then .error .maskBit else
    .ok (.vfmsX d a b m z)
  | 2 =>
    let d := word.extractLsb' 18 7
    let a := word.extractLsb' 11 7
    let b := word.extractLsb' 4 7
    let m := word.getLsbD 3
    let z := word.getLsbD 2
    if m && d == 0#7 then .error .maskBit else
    .ok (.vfnmaX d a b m z)
  | 3 =>
    let d := word.extractLsb' 18 7
    let a := word.extractLsb' 11 7
    let b := word.extractLsb' 4 7
    let m := word.getLsbD 3
    let z := word.getLsbD 2
    if m && d == 0#7 then .error .maskBit else
    .ok (.vfnmsX d a b m z)
  | _ => .error .variant

noncomputable def dec54 (word : BitVec 32) : Except Reject Instr :=
  match (word.extractLsb' 0 2).toNat with
  | 0 =>
    let d := word.extractLsb' 18 7
    let a := word.extractLsb' 11 7
    let b := word.extractLsb' 4 7
    let m := word.getLsbD 3
    let z := word.getLsbD 2
    if m && d == 0#7 then .error .maskBit else
    .ok (.vfmin d a b m z)
  | 1 =>
    let d := word.extractLsb' 18 7
    let a := word.extractLsb' 11 7
    let b := word.extractLsb' 4 7
    let m := word.getLsbD 3
    let z := word.getLsbD 2
    if m && d == 0#7 then .error .maskBit else
    .ok (.vfmax d a b m z)
  | 2 =>
    if word.extractLsb' 4 7 ≠ 0#7 then .error .reserved else
    let d := word.extractLsb' 18 7
    let a := word.extractLsb' 11 7
    let m := word.getLsbD 3
    let z := word.getLsbD 2
    if m && d == 0#7 then .error .maskBit else
    .ok (.vfabs d a m z)
  | 3 =>
    if word.extractLsb' 4 7 ≠ 0#7 then .error .reserved else
    let d := word.extractLsb' 18 7
    let a := word.extractLsb' 11 7
    let m := word.getLsbD 3
    let z := word.getLsbD 2
    if m && d == 0#7 then .error .maskBit else
    .ok (.vfneg d a m z)
  | _ => .error .variant

noncomputable def dec55 (word : BitVec 32) : Except Reject Instr :=
  match (word.extractLsb' 0 2).toNat with
  | 0 =>
    let d := word.extractLsb' 18 7
    let a := word.extractLsb' 11 7
    let b := word.extractLsb' 4 7
    let m := word.getLsbD 3
    let z := word.getLsbD 2
    if m && d == 0#7 then .error .maskBit else
    .ok (.vfeq d a b m z)
  | 1 =>
    let d := word.extractLsb' 18 7
    let a := word.extractLsb' 11 7
    let b := word.extractLsb' 4 7
    let m := word.getLsbD 3
    let z := word.getLsbD 2
    if m && d == 0#7 then .error .maskBit else
    .ok (.vflt d a b m z)
  | 2 =>
    let d := word.extractLsb' 18 7
    let a := word.extractLsb' 11 7
    let b := word.extractLsb' 4 7
    let m := word.getLsbD 3
    let z := word.getLsbD 2
    if m && d == 0#7 then .error .maskBit else
    .ok (.vfle d a b m z)
  | 3 =>
    let d := word.extractLsb' 18 7
    let a := word.extractLsb' 11 7
    let b := word.extractLsb' 4 7
    let m := word.getLsbD 3
    let z := word.getLsbD 2
    if m && d == 0#7 then .error .maskBit else
    .ok (.vfun d a b m z)
  | _ => .error .variant

noncomputable def dec56 (word : BitVec 32) : Except Reject Instr :=
  match (word.extractLsb' 0 2).toNat with
  | 0 =>
    let d := word.extractLsb' 18 7
    let a := word.extractLsb' 11 7
    let b := word.extractLsb' 4 7
    let m := word.getLsbD 3
    let z := word.getLsbD 2
    if m && d == 0#7 then .error .maskBit else
    .ok (.vfeqX d a b m z)
  | 1 =>
    let d := word.extractLsb' 18 7
    let a := word.extractLsb' 11 7
    let b := word.extractLsb' 4 7
    let m := word.getLsbD 3
    let z := word.getLsbD 2
    if m && d == 0#7 then .error .maskBit else
    .ok (.vfltX d a b m z)
  | 2 =>
    let d := word.extractLsb' 18 7
    let a := word.extractLsb' 11 7
    let b := word.extractLsb' 4 7
    let m := word.getLsbD 3
    let z := word.getLsbD 2
    if m && d == 0#7 then .error .maskBit else
    .ok (.vfleX d a b m z)
  | 3 =>
    let d := word.extractLsb' 18 7
    let a := word.extractLsb' 11 7
    let b := word.extractLsb' 4 7
    let m := word.getLsbD 3
    let z := word.getLsbD 2
    if m && d == 0#7 then .error .maskBit else
    .ok (.vfunX d a b m z)
  | _ => .error .variant

noncomputable def dec57 (word : BitVec 32) : Except Reject Instr :=
  match (word.extractLsb' 0 2).toNat with
  | 0 =>
    if word.extractLsb' 4 7 ≠ 0#7 then .error .reserved else
    let d := word.extractLsb' 18 7
    let a := word.extractLsb' 11 7
    let m := word.getLsbD 3
    let z := word.getLsbD 2
    if m && d == 0#7 then .error .maskBit else
    .ok (.vfsqrt d a m z)
  | 1 =>
    if word.extractLsb' 4 7 ≠ 0#7 then .error .reserved else
    let d := word.extractLsb' 18 7
    let a := word.extractLsb' 11 7
    let m := word.getLsbD 3
    let z := word.getLsbD 2
    if m && d == 0#7 then .error .maskBit else
    .ok (.vfrsqrt d a m z)
  | 2 =>
    if word.extractLsb' 4 7 ≠ 0#7 then .error .reserved else
    let d := word.extractLsb' 18 7
    let a := word.extractLsb' 11 7
    let m := word.getLsbD 3
    let z := word.getLsbD 2
    if m && d == 0#7 then .error .maskBit else
    .ok (.vfrcp d a m z)
  | 3 =>
    if word.extractLsb' 4 7 ≠ 0#7 then .error .reserved else
    let d := word.extractLsb' 18 7
    let a := word.extractLsb' 11 7
    let m := word.getLsbD 3
    let z := word.getLsbD 2
    if m && d == 0#7 then .error .maskBit else
    .ok (.vfexp2 d a m z)
  | _ => .error .variant

noncomputable def dec58 (word : BitVec 32) : Except Reject Instr :=
  match (word.extractLsb' 0 2).toNat with
  | 0 =>
    if word.extractLsb' 4 7 ≠ 0#7 then .error .reserved else
    let d := word.extractLsb' 18 7
    let a := word.extractLsb' 11 7
    let m := word.getLsbD 3
    let z := word.getLsbD 2
    if m && d == 0#7 then .error .maskBit else
    .ok (.vflog2 d a m z)
  | 1 =>
    if word.extractLsb' 4 7 ≠ 0#7 then .error .reserved else
    let d := word.extractLsb' 18 7
    let a := word.extractLsb' 11 7
    let m := word.getLsbD 3
    let z := word.getLsbD 2
    if m && d == 0#7 then .error .maskBit else
    .ok (.vftanh d a m z)
  | 2 =>
    if word.extractLsb' 4 7 ≠ 0#7 then .error .reserved else
    let d := word.extractLsb' 18 7
    let a := word.extractLsb' 11 7
    let m := word.getLsbD 3
    let z := word.getLsbD 2
    if m && d == 0#7 then .error .maskBit else
    .ok (.vfsigm d a m z)
  | 3 =>
    if word.extractLsb' 4 7 ≠ 0#7 then .error .reserved else
    let d := word.extractLsb' 18 7
    let a := word.extractLsb' 11 7
    let m := word.getLsbD 3
    let z := word.getLsbD 2
    if m && d == 0#7 then .error .maskBit else
    .ok (.vfgelu d a m z)
  | _ => .error .variant

noncomputable def dec59 (word : BitVec 32) : Except Reject Instr :=
  match (word.extractLsb' 0 2).toNat with
  | 0 =>
    if word.extractLsb' 9 2 ≠ 0#2 then .error .register else
    let d := word.extractLsb' 18 7
    let a := word.extractLsb' 11 7
    let t := word.extractLsb' 4 5
    let m := word.getLsbD 3
    let z := word.getLsbD 2
    if m && d == 0#7 then .error .maskBit else
    if !(1 ≤ t.toNat && t.toNat ≤ 21) then .error .tag else
    .ok (.vcvt d a t m z)
  | 1 =>
    if word.extractLsb' 9 2 ≠ 0#2 then .error .register else
    let d := word.extractLsb' 18 7
    let a := word.extractLsb' 11 7
    let t := word.extractLsb' 4 5
    let m := word.getLsbD 3
    let z := word.getLsbD 2
    if m && d == 0#7 then .error .maskBit else
    if !(1 ≤ t.toNat && t.toNat ≤ 21) then .error .tag else
    .ok (.vcvtfi d a t m z)
  | 2 =>
    if word.extractLsb' 9 2 ≠ 0#2 then .error .register else
    let d := word.extractLsb' 18 7
    let a := word.extractLsb' 11 7
    let t := word.extractLsb' 4 5
    let m := word.getLsbD 3
    let z := word.getLsbD 2
    if m && d == 0#7 then .error .maskBit else
    if !(1 ≤ t.toNat && t.toNat ≤ 21) then .error .tag else
    .ok (.vcvtif d a t m z)
  | 3 =>
    if word.extractLsb' 9 2 ≠ 0#2 then .error .register else
    let d := word.extractLsb' 18 7
    let a := word.extractLsb' 11 7
    let t := word.extractLsb' 4 5
    let m := word.getLsbD 3
    let z := word.getLsbD 2
    if m && d == 0#7 then .error .maskBit else
    if !(1 ≤ t.toNat && t.toNat ≤ 21) then .error .tag else
    .ok (.vcvtint d a t m z)
  | _ => .error .variant

noncomputable def dec5A (word : BitVec 32) : Except Reject Instr :=
  match (word.extractLsb' 0 2).toNat with
  | 0 =>
    let d := word.extractLsb' 18 7
    let a := word.extractLsb' 11 7
    let b := word.extractLsb' 4 7
    let m := word.getLsbD 3
    let z := word.getLsbD 2
    if m && d == 0#7 then .error .maskBit else
    .ok (.vpack d a b m z)
  | 1 =>
    let d := word.extractLsb' 18 7
    let a := word.extractLsb' 11 7
    let b := word.extractLsb' 4 7
    let m := word.getLsbD 3
    let z := word.getLsbD 2
    if m && d == 0#7 then .error .maskBit else
    .ok (.vunpack d a b m z)
  | 2 =>
    let d := word.extractLsb' 18 7
    let a := word.extractLsb' 11 7
    let b := word.extractLsb' 4 7
    let m := word.getLsbD 3
    let z := word.getLsbD 2
    if m && d == 0#7 then .error .maskBit else
    .ok (.vcbdec d a b m z)
  | 3 =>
    let d := word.extractLsb' 18 7
    let a := word.extractLsb' 11 7
    let b := word.extractLsb' 4 7
    let m := word.getLsbD 3
    let z := word.getLsbD 2
    if m && d == 0#7 then .error .maskBit else
    .ok (.vcbenc d a b m z)
  | _ => .error .variant

noncomputable def dec5B (word : BitVec 32) : Except Reject Instr :=
  match (word.extractLsb' 0 2).toNat with
  | 0 =>
    let d := word.extractLsb' 18 7
    let a := word.extractLsb' 11 7
    let b := word.extractLsb' 4 7
    let m := word.getLsbD 3
    let z := word.getLsbD 2
    if m && d == 0#7 then .error .maskBit else
    .ok (.vfscale d a b m z)
  | 1 =>
    if word.extractLsb' 4 7 ≠ 0#7 then .error .reserved else
    let d := word.extractLsb' 18 7
    let a := word.extractLsb' 11 7
    let m := word.getLsbD 3
    let z := word.getLsbD 2
    if m && d == 0#7 then .error .maskBit else
    .ok (.vfexpo d a m z)
  | 2 =>
    if word.extractLsb' 4 7 ≠ 0#7 then .error .reserved else
    let d := word.extractLsb' 18 7
    let a := word.extractLsb' 11 7
    let m := word.getLsbD 3
    let z := word.getLsbD 2
    if m && d == 0#7 then .error .maskBit else
    .ok (.vfmant d a m z)
  | 3 =>
    if word.extractLsb' 4 7 ≠ 0#7 then .error .reserved else
    let d := word.extractLsb' 18 7
    let a := word.extractLsb' 11 7
    let m := word.getLsbD 3
    let z := word.getLsbD 2
    if m && d == 0#7 then .error .maskBit else
    .ok (.vfclass d a m z)
  | _ => .error .variant

noncomputable def dec5C (word : BitVec 32) : Except Reject Instr :=
  match (word.extractLsb' 0 2).toNat with
  | 0 =>
    let d := word.extractLsb' 18 7
    let a := word.extractLsb' 11 7
    let b := word.extractLsb' 4 7
    let m := word.getLsbD 3
    let z := word.getLsbD 2
    if m && d == 0#7 then .error .maskBit else
    .ok (.vfdot2 d a b m z)
  | 1 =>
    let d := word.extractLsb' 18 7
    let a := word.extractLsb' 11 7
    let b := word.extractLsb' 4 7
    let m := word.getLsbD 3
    let z := word.getLsbD 2
    if m && d == 0#7 then .error .maskBit else
    .ok (.vfdot4 d a b m z)
  | _ => .error .variant

noncomputable def dec5D (word : BitVec 32) : Except Reject Instr :=
  match (word.extractLsb' 0 2).toNat with
  | 0 =>
    let d := word.extractLsb' 18 7
    let a := word.extractLsb' 11 7
    let b := word.extractLsb' 4 7
    let m := word.getLsbD 3
    let z := word.getLsbD 2
    if m && d == 0#7 then .error .maskBit else
    .ok (.vfclampX d a b m z)
  | 1 =>
    if word.extractLsb' 4 7 ≠ 0#7 then .error .reserved else
    let d := word.extractLsb' 18 7
    let a := word.extractLsb' 11 7
    let m := word.getLsbD 3
    let z := word.getLsbD 2
    if m && d == 0#7 then .error .maskBit else
    .ok (.vfrelu d a m z)
  | _ => .error .variant

noncomputable def dec5E (word : BitVec 32) : Except Reject Instr :=
  match (word.extractLsb' 0 2).toNat with
  | 0 =>
    let d := word.extractLsb' 18 7
    let a := word.extractLsb' 11 7
    let b := word.extractLsb' 4 7
    let m := word.getLsbD 3
    let z := word.getLsbD 2
    if m && d == 0#7 then .error .maskBit else
    .ok (.vfwadd d a b m z)
  | 1 =>
    let d := word.extractLsb' 18 7
    let a := word.extractLsb' 11 7
    let b := word.extractLsb' 4 7
    let m := word.getLsbD 3
    let z := word.getLsbD 2
    if m && d == 0#7 then .error .maskBit else
    .ok (.vfwmul d a b m z)
  | 2 =>
    let d := word.extractLsb' 18 7
    let a := word.extractLsb' 11 7
    let b := word.extractLsb' 4 7
    let m := word.getLsbD 3
    let z := word.getLsbD 2
    if m && d == 0#7 then .error .maskBit else
    .ok (.vfwma d a b m z)
  | _ => .error .variant

noncomputable def dec5F (word : BitVec 32) : Except Reject Instr :=
  match (word.extractLsb' 0 2).toNat with
  | 0 =>
    let d := word.extractLsb' 18 7
    let a := word.extractLsb' 11 7
    let b := word.extractLsb' 4 7
    let m := word.getLsbD 3
    let z := word.getLsbD 2
    if m && d == 0#7 then .error .maskBit else
    .ok (.vfsgnj d a b m z)
  | 1 =>
    let d := word.extractLsb' 18 7
    let a := word.extractLsb' 11 7
    let b := word.extractLsb' 4 7
    let m := word.getLsbD 3
    let z := word.getLsbD 2
    if m && d == 0#7 then .error .maskBit else
    .ok (.vfsgnjn d a b m z)
  | 2 =>
    let d := word.extractLsb' 18 7
    let a := word.extractLsb' 11 7
    let b := word.extractLsb' 4 7
    let m := word.getLsbD 3
    let z := word.getLsbD 2
    if m && d == 0#7 then .error .maskBit else
    .ok (.vfsgnjx d a b m z)
  | _ => .error .variant

noncomputable def dec60 (word : BitVec 32) : Except Reject Instr :=
  match (word.extractLsb' 0 2).toNat with
  | 0 =>
    let d := word.extractLsb' 18 7
    let a := word.extractLsb' 11 7
    let b := word.extractLsb' 4 7
    let m := word.getLsbD 3
    let z := word.getLsbD 2
    if m && d == 0#7 then .error .maskBit else
    .ok (.vld d a b m z)
  | 1 =>
    let d := word.extractLsb' 18 7
    let a := word.extractLsb' 11 7
    let b := word.extractLsb' 4 7
    let m := word.getLsbD 3
    let z := word.getLsbD 2
    if m && d == 0#7 then .error .maskBit else
    .ok (.vldNt d a b m z)
  | 2 =>
    let d := word.extractLsb' 18 7
    let a := word.extractLsb' 11 7
    let b := word.extractLsb' 4 7
    let m := word.getLsbD 3
    let z := word.getLsbD 2
    if m && d == 0#7 then .error .maskBit else
    .ok (.vldBc d a b m z)
  | _ => .error .variant

noncomputable def dec61 (word : BitVec 32) : Except Reject Instr :=
  match (word.extractLsb' 0 2).toNat with
  | 0 =>
    if word.extractLsb' 2 1 ≠ 0#1 then .error .reserved else
    let d := word.extractLsb' 18 7
    let a := word.extractLsb' 11 7
    let b := word.extractLsb' 4 7
    let m := word.getLsbD 3
    .ok (.vst d a b m)
  | 1 =>
    if word.extractLsb' 2 1 ≠ 0#1 then .error .reserved else
    let d := word.extractLsb' 18 7
    let a := word.extractLsb' 11 7
    let b := word.extractLsb' 4 7
    let m := word.getLsbD 3
    .ok (.vstNt d a b m)
  | _ => .error .variant

noncomputable def dec62 (word : BitVec 32) : Except Reject Instr :=
  match (word.extractLsb' 0 2).toNat with
  | 0 =>
    let d := word.extractLsb' 18 7
    let a := word.extractLsb' 11 7
    let b := word.extractLsb' 4 7
    let m := word.getLsbD 3
    let z := word.getLsbD 2
    if m && d == 0#7 then .error .maskBit else
    .ok (.vlds d a b m z)
  | _ => .error .variant

noncomputable def dec63 (word : BitVec 32) : Except Reject Instr :=
  match (word.extractLsb' 0 2).toNat with
  | 0 =>
    if word.extractLsb' 2 1 ≠ 0#1 then .error .reserved else
    let d := word.extractLsb' 18 7
    let a := word.extractLsb' 11 7
    let b := word.extractLsb' 4 7
    let m := word.getLsbD 3
    .ok (.vsts d a b m)
  | _ => .error .variant

noncomputable def dec64 (word : BitVec 32) : Except Reject Instr :=
  match (word.extractLsb' 0 2).toNat with
  | 0 =>
    let d := word.extractLsb' 18 7
    let a := word.extractLsb' 11 7
    let b := word.extractLsb' 4 7
    let m := word.getLsbD 3
    let z := word.getLsbD 2
    if m && d == 0#7 then .error .maskBit else
    .ok (.vgather d a b m z)
  | 1 =>
    let d := word.extractLsb' 18 7
    let a := word.extractLsb' 11 7
    let b := word.extractLsb' 4 7
    let m := word.getLsbD 3
    let z := word.getLsbD 2
    if m && d == 0#7 then .error .maskBit else
    .ok (.vgatherNt d a b m z)
  | _ => .error .variant

noncomputable def dec65 (word : BitVec 32) : Except Reject Instr :=
  match (word.extractLsb' 0 2).toNat with
  | 0 =>
    if word.extractLsb' 2 1 ≠ 0#1 then .error .reserved else
    let d := word.extractLsb' 18 7
    let a := word.extractLsb' 11 7
    let b := word.extractLsb' 4 7
    let m := word.getLsbD 3
    .ok (.vscatter d a b m)
  | 1 =>
    if word.extractLsb' 2 1 ≠ 0#1 then .error .reserved else
    let d := word.extractLsb' 18 7
    let a := word.extractLsb' 11 7
    let b := word.extractLsb' 4 7
    let m := word.getLsbD 3
    .ok (.vscatterO d a b m)
  | _ => .error .variant

noncomputable def dec66 (word : BitVec 32) : Except Reject Instr :=
  match (word.extractLsb' 0 2).toNat with
  | 0 =>
    let d := word.extractLsb' 18 7
    let a := word.extractLsb' 11 7
    let b := word.extractLsb' 4 7
    let m := word.getLsbD 3
    let z := word.getLsbD 2
    if m && d == 0#7 then .error .maskBit else
    .ok (.vamoadd d a b m z)
  | 1 =>
    let d := word.extractLsb' 18 7
    let a := word.extractLsb' 11 7
    let b := word.extractLsb' 4 7
    let m := word.getLsbD 3
    let z := word.getLsbD 2
    if m && d == 0#7 then .error .maskBit else
    .ok (.vamomin d a b m z)
  | 2 =>
    let d := word.extractLsb' 18 7
    let a := word.extractLsb' 11 7
    let b := word.extractLsb' 4 7
    let m := word.getLsbD 3
    let z := word.getLsbD 2
    if m && d == 0#7 then .error .maskBit else
    .ok (.vamomax d a b m z)
  | 3 =>
    let d := word.extractLsb' 18 7
    let a := word.extractLsb' 11 7
    let b := word.extractLsb' 4 7
    let m := word.getLsbD 3
    let z := word.getLsbD 2
    if m && d == 0#7 then .error .maskBit else
    .ok (.vamoswap d a b m z)
  | _ => .error .variant

noncomputable def dec67 (word : BitVec 32) : Except Reject Instr :=
  match (word.extractLsb' 0 2).toNat with
  | 0 =>
    let d := word.extractLsb' 18 7
    let a := word.extractLsb' 11 7
    let b := word.extractLsb' 4 7
    let m := word.getLsbD 3
    let z := word.getLsbD 2
    if m && d == 0#7 then .error .maskBit else
    .ok (.vamoand d a b m z)
  | 1 =>
    let d := word.extractLsb' 18 7
    let a := word.extractLsb' 11 7
    let b := word.extractLsb' 4 7
    let m := word.getLsbD 3
    let z := word.getLsbD 2
    if m && d == 0#7 then .error .maskBit else
    .ok (.vamoor d a b m z)
  | 2 =>
    let d := word.extractLsb' 18 7
    let a := word.extractLsb' 11 7
    let b := word.extractLsb' 4 7
    let m := word.getLsbD 3
    let z := word.getLsbD 2
    if m && d == 0#7 then .error .maskBit else
    .ok (.vamoxor d a b m z)
  | 3 =>
    let d := word.extractLsb' 18 7
    let a := word.extractLsb' 11 7
    let b := word.extractLsb' 4 7
    let m := word.getLsbD 3
    let z := word.getLsbD 2
    if m && d == 0#7 then .error .maskBit else
    .ok (.vamofadd d a b m z)
  | _ => .error .variant

noncomputable def dec68 (word : BitVec 32) : Except Reject Instr :=
  match (word.extractLsb' 0 2).toNat with
  | 0 =>
    if word.extractLsb' 4 7 ≠ 0#7 then .error .reserved else
    let d := word.extractLsb' 18 7
    let a := word.extractLsb' 11 7
    let m := word.getLsbD 3
    let z := word.getLsbD 2
    if m && d == 0#7 then .error .maskBit else
    .ok (.tld d a m z)
  | _ => .error .variant

noncomputable def dec69 (word : BitVec 32) : Except Reject Instr :=
  match (word.extractLsb' 0 2).toNat with
  | 0 =>
    if word.extractLsb' 4 7 ≠ 0#7 then .error .reserved else
    if word.extractLsb' 2 1 ≠ 0#1 then .error .reserved else
    let d := word.extractLsb' 18 7
    let a := word.extractLsb' 11 7
    let m := word.getLsbD 3
    .ok (.tst d a m)
  | _ => .error .variant

noncomputable def dec6A (word : BitVec 32) : Except Reject Instr :=
  match (word.extractLsb' 0 2).toNat with
  | 0 =>
    let d := word.extractLsb' 18 7
    let a := word.extractLsb' 11 7
    let b := word.extractLsb' 4 7
    let m := word.getLsbD 3
    let z := word.getLsbD 2
    if m && d == 0#7 then .error .maskBit else
    .ok (.vldsp d a b m z)
  | 1 =>
    if word.extractLsb' 2 1 ≠ 0#1 then .error .reserved else
    let d := word.extractLsb' 18 7
    let a := word.extractLsb' 11 7
    let b := word.extractLsb' 4 7
    let m := word.getLsbD 3
    .ok (.vstsp d a b m)
  | _ => .error .variant

noncomputable def dec6B (word : BitVec 32) : Except Reject Instr :=
  match (word.extractLsb' 0 2).toNat with
  | 0 =>
    if word.extractLsb' 18 7 ≠ 0#7 then .error .reserved else
    if word.extractLsb' 2 1 ≠ 0#1 then .error .reserved else
    let a := word.extractLsb' 11 7
    let b := word.extractLsb' 4 7
    let m := word.getLsbD 3
    .ok (.vpref a b m)
  | 1 =>
    let d := word.extractLsb' 18 7
    let a := word.extractLsb' 11 7
    let b := word.extractLsb' 4 7
    let m := word.getLsbD 3
    let z := word.getLsbD 2
    if m && d == 0#7 then .error .maskBit else
    .ok (.vprobe d a b m z)
  | _ => .error .variant

noncomputable def dec6C (word : BitVec 32) : Except Reject Instr :=
  match (word.extractLsb' 0 2).toNat with
  | 0 =>
    if word.extractLsb' 3 1 ≠ 0#1 then .error .reserved else
    let d := word.extractLsb' 18 7
    let a := word.extractLsb' 11 7
    let b := word.extractLsb' 4 7
    let z := word.getLsbD 2
    .ok (.mld d a b z)
  | 1 =>
    if word.extractLsb' 3 1 ≠ 0#1 then .error .reserved else
    let d := word.extractLsb' 18 7
    let a := word.extractLsb' 11 7
    let b := word.extractLsb' 4 7
    let z := word.getLsbD 2
    .ok (.mldt d a b z)
  | _ => .error .variant

noncomputable def dec6D (word : BitVec 32) : Except Reject Instr :=
  match (word.extractLsb' 0 2).toNat with
  | 0 =>
    if word.extractLsb' 18 7 ≠ 0#7 then .error .reserved else
    if word.extractLsb' 2 1 ≠ 0#1 then .error .reserved else
    let a := word.extractLsb' 11 7
    let b := word.extractLsb' 4 7
    let m := word.getLsbD 3
    .ok (.vflush a b m)
  | 1 =>
    if word.extractLsb' 18 7 ≠ 0#7 then .error .reserved else
    if word.extractLsb' 2 1 ≠ 0#1 then .error .reserved else
    let a := word.extractLsb' 11 7
    let b := word.extractLsb' 4 7
    let m := word.getLsbD 3
    .ok (.vinval a b m)
  | _ => .error .variant

noncomputable def dec6E (word : BitVec 32) : Except Reject Instr :=
  match (word.extractLsb' 0 2).toNat with
  | 0 =>
    if word.extractLsb' 22 3 ≠ 0#3 then .error .register else
    if word.extractLsb' 4 7 ≠ 0#7 then .error .reserved else
    if word.extractLsb' 3 1 ≠ 0#1 then .error .reserved else
    if word.extractLsb' 2 1 ≠ 0#1 then .error .reserved else
    let d := word.extractLsb' 18 4
    let a := word.extractLsb' 11 7
    .ok (.qld d a)
  | 1 =>
    if word.extractLsb' 22 3 ≠ 0#3 then .error .register else
    if word.extractLsb' 4 7 ≠ 0#7 then .error .reserved else
    if word.extractLsb' 3 1 ≠ 0#1 then .error .reserved else
    if word.extractLsb' 2 1 ≠ 0#1 then .error .reserved else
    let d := word.extractLsb' 18 4
    let a := word.extractLsb' 11 7
    .ok (.qmk d a)
  | 2 =>
    if word.extractLsb' 22 3 ≠ 0#3 then .error .register else
    if word.extractLsb' 11 7 ≠ 0#7 then .error .reserved else
    if word.extractLsb' 4 7 ≠ 0#7 then .error .reserved else
    if word.extractLsb' 3 1 ≠ 0#1 then .error .reserved else
    if word.extractLsb' 2 1 ≠ 0#1 then .error .reserved else
    let d := word.extractLsb' 18 4
    .ok (.qdrop d)
  | 3 =>
    if word.extractLsb' 22 3 ≠ 0#3 then .error .register else
    if word.extractLsb' 3 1 ≠ 0#1 then .error .reserved else
    if word.extractLsb' 2 1 ≠ 0#1 then .error .reserved else
    let d := word.extractLsb' 18 4
    let a := word.extractLsb' 11 7
    let b := word.extractLsb' 4 7
    .ok (.qwin d a b)
  | _ => .error .variant

noncomputable def dec6F (word : BitVec 32) : Except Reject Instr :=
  match (word.extractLsb' 0 2).toNat with
  | 0 =>
    if word.extractLsb' 3 1 ≠ 0#1 then .error .reserved else
    if word.extractLsb' 2 1 ≠ 0#1 then .error .reserved else
    let d := word.extractLsb' 18 7
    let a := word.extractLsb' 11 7
    let b := word.extractLsb' 4 7
    .ok (.dvlds2 d a b)
  | 1 =>
    if word.extractLsb' 4 7 ≠ 0#7 then .error .reserved else
    if word.extractLsb' 3 1 ≠ 0#1 then .error .reserved else
    if word.extractLsb' 2 1 ≠ 0#1 then .error .reserved else
    let d := word.extractLsb' 18 7
    let a := word.extractLsb' 11 7
    .ok (.dvred d a)
  | 2 =>
    if word.extractLsb' 21 4 ≠ 0#4 then .error .register else
    if word.extractLsb' 3 1 ≠ 0#1 then .error .reserved else
    if word.extractLsb' 2 1 ≠ 0#1 then .error .reserved else
    let d := word.extractLsb' 18 3
    let a := word.extractLsb' 11 7
    let b := word.extractLsb' 4 7
    .ok (.dmmac d a b)
  | 3 =>
    if word.extractLsb' 18 7 ≠ 0#7 then .error .reserved else
    if word.extractLsb' 3 1 ≠ 0#1 then .error .reserved else
    if word.extractLsb' 2 1 ≠ 0#1 then .error .reserved else
    let a := word.extractLsb' 11 7
    let b := word.extractLsb' 4 7
    .ok (.dcopy a b)
  | _ => .error .variant

noncomputable def dec70 (word : BitVec 32) : Except Reject Instr :=
  match (word.extractLsb' 0 2).toNat with
  | 0 =>
    if word.extractLsb' 21 4 ≠ 0#4 then .error .register else
    if word.extractLsb' 2 1 ≠ 0#1 then .error .reserved else
    let d := word.extractLsb' 18 3
    let a := word.extractLsb' 11 7
    let b := word.extractLsb' 4 7
    let m := word.getLsbD 3
    .ok (.mop d a b m)
  | 1 =>
    if word.extractLsb' 21 4 ≠ 0#4 then .error .register else
    if word.extractLsb' 2 1 ≠ 0#1 then .error .reserved else
    let d := word.extractLsb' 18 3
    let a := word.extractLsb' 11 7
    let b := word.extractLsb' 4 7
    let m := word.getLsbD 3
    .ok (.mops d a b m)
  | 2 =>
    if word.extractLsb' 21 4 ≠ 0#4 then .error .register else
    if word.extractLsb' 2 1 ≠ 0#1 then .error .reserved else
    let d := word.extractLsb' 18 3
    let a := word.extractLsb' 11 7
    let b := word.extractLsb' 4 7
    let m := word.getLsbD 3
    .ok (.mopn d a b m)
  | _ => .error .variant

noncomputable def dec71 (word : BitVec 32) : Except Reject Instr :=
  match (word.extractLsb' 0 2).toNat with
  | 0 =>
    if word.extractLsb' 21 4 ≠ 0#4 then .error .register else
    if word.extractLsb' 8 3 ≠ 0#3 then .error .register else
    if word.extractLsb' 2 1 ≠ 0#1 then .error .reserved else
    let d := word.extractLsb' 18 3
    let a := word.extractLsb' 11 7
    let b := word.extractLsb' 4 4
    let m := word.getLsbD 3
    .ok (.mrw d a b m)
  | 1 =>
    if word.extractLsb' 21 4 ≠ 0#4 then .error .register else
    if word.extractLsb' 2 1 ≠ 0#1 then .error .reserved else
    let d := word.extractLsb' 18 3
    let a := word.extractLsb' 11 7
    let b := word.extractLsb' 4 7
    let m := word.getLsbD 3
    .ok (.mrx d a b m)
  | _ => .error .variant

noncomputable def dec72 (word : BitVec 32) : Except Reject Instr :=
  match (word.extractLsb' 0 2).toNat with
  | 0 =>
    if word.extractLsb' 21 4 ≠ 0#4 then .error .register else
    if word.extractLsb' 11 7 ≠ 0#7 then .error .reserved else
    if word.extractLsb' 4 7 ≠ 0#7 then .error .reserved else
    if word.extractLsb' 3 1 ≠ 0#1 then .error .reserved else
    if word.extractLsb' 2 1 ≠ 0#1 then .error .reserved else
    let d := word.extractLsb' 18 3
    .ok (.mzero d)
  | 1 =>
    if word.extractLsb' 14 4 ≠ 0#4 then .error .register else
    if word.extractLsb' 3 1 ≠ 0#1 then .error .reserved else
    let d := word.extractLsb' 18 7
    let a := word.extractLsb' 11 3
    let b := word.extractLsb' 4 7
    let z := word.getLsbD 2
    .ok (.mrd d a b z)
  | 2 =>
    if word.extractLsb' 21 4 ≠ 0#4 then .error .register else
    if word.extractLsb' 3 1 ≠ 0#1 then .error .reserved else
    if word.extractLsb' 2 1 ≠ 0#1 then .error .reserved else
    let d := word.extractLsb' 18 3
    let a := word.extractLsb' 11 7
    let b := word.extractLsb' 4 7
    .ok (.mwr d a b)
  | 3 =>
    if word.extractLsb' 21 4 ≠ 0#4 then .error .register else
    if word.extractLsb' 4 7 ≠ 0#7 then .error .reserved else
    if word.extractLsb' 3 1 ≠ 0#1 then .error .reserved else
    if word.extractLsb' 2 1 ≠ 0#1 then .error .reserved else
    let d := word.extractLsb' 18 3
    let a := word.extractLsb' 11 7
    .ok (.mscale d a)
  | _ => .error .variant

noncomputable def dec73 (word : BitVec 32) : Except Reject Instr :=
  match (word.extractLsb' 0 2).toNat with
  | 0 =>
    if word.extractLsb' 22 3 ≠ 0#3 then .error .register else
    if word.extractLsb' 3 1 ≠ 0#1 then .error .reserved else
    if word.extractLsb' 2 1 ≠ 0#1 then .error .reserved else
    let d := word.extractLsb' 18 4
    let a := word.extractLsb' 11 7
    let b := word.extractLsb' 4 7
    .ok (.mplane d a b)
  | 1 =>
    if word.extractLsb' 15 3 ≠ 0#3 then .error .register else
    if word.extractLsb' 3 1 ≠ 0#1 then .error .reserved else
    if word.extractLsb' 2 1 ≠ 0#1 then .error .reserved else
    let d := word.extractLsb' 18 7
    let a := word.extractLsb' 11 4
    let b := word.extractLsb' 4 7
    .ok (.munplane d a b)
  | _ => .error .variant

noncomputable def dec74 (word : BitVec 32) : Except Reject Instr :=
  match (word.extractLsb' 0 2).toNat with
  | 0 =>
    if word.extractLsb' 21 4 ≠ 0#4 then .error .register else
    if word.extractLsb' 4 7 ≠ 0#7 then .error .reserved else
    if word.extractLsb' 3 1 ≠ 0#1 then .error .reserved else
    if word.extractLsb' 2 1 ≠ 0#1 then .error .reserved else
    let d := word.extractLsb' 18 3
    let a := word.extractLsb' 11 7
    .ok (.itopen d a)
  | 1 =>
    if word.extractLsb' 18 7 ≠ 0#7 then .error .reserved else
    if word.extractLsb' 14 4 ≠ 0#4 then .error .register else
    if word.extractLsb' 4 7 ≠ 0#7 then .error .reserved else
    if word.extractLsb' 3 1 ≠ 0#1 then .error .reserved else
    if word.extractLsb' 2 1 ≠ 0#1 then .error .reserved else
    let a := word.extractLsb' 11 3
    .ok (.itclose a)
  | _ => .error .variant

noncomputable def dec75 (word : BitVec 32) : Except Reject Instr :=
  match (word.extractLsb' 0 2).toNat with
  | 0 =>
    if word.extractLsb' 14 4 ≠ 0#4 then .error .register else
    if word.extractLsb' 4 7 ≠ 0#7 then .error .reserved else
    if word.extractLsb' 3 1 ≠ 0#1 then .error .reserved else
    let d := word.extractLsb' 18 7
    let a := word.extractLsb' 11 3
    let z := word.getLsbD 2
    .ok (.next d a z)
  | 1 =>
    if word.extractLsb' 14 4 ≠ 0#4 then .error .register else
    if word.extractLsb' 3 1 ≠ 0#1 then .error .reserved else
    let d := word.extractLsb' 18 7
    let a := word.extractLsb' 11 3
    let b := word.extractLsb' 4 7
    let z := word.getLsbD 2
    if d == b then .error .register else
    .ok (.next2 d a b z)
  | _ => .error .variant

noncomputable def dec76 (word : BitVec 32) : Except Reject Instr :=
  match (word.extractLsb' 0 2).toNat with
  | 0 =>
    if word.extractLsb' 18 7 ≠ 0#7 then .error .reserved else
    if word.extractLsb' 14 4 ≠ 0#4 then .error .register else
    if word.extractLsb' 4 7 ≠ 0#7 then .error .reserved else
    if word.extractLsb' 3 1 ≠ 0#1 then .error .reserved else
    if word.extractLsb' 2 1 ≠ 0#1 then .error .reserved else
    let a := word.extractLsb' 11 3
    .ok (.enough a)
  | 1 =>
    if word.extractLsb' 18 7 ≠ 0#7 then .error .reserved else
    if word.extractLsb' 14 4 ≠ 0#4 then .error .register else
    if word.extractLsb' 4 7 ≠ 0#7 then .error .reserved else
    if word.extractLsb' 3 1 ≠ 0#1 then .error .reserved else
    if word.extractLsb' 2 1 ≠ 0#1 then .error .reserved else
    let a := word.extractLsb' 11 3
    .ok (.itsave a)
  | _ => .error .variant

noncomputable def dec77 (word : BitVec 32) : Except Reject Instr :=
  match (word.extractLsb' 0 4).toNat with
  | 0 =>
    if word.extractLsb' 4 7 ≠ 0#7 then .error .reserved else
    let d := word.extractLsb' 18 7
    let a := word.extractLsb' 11 7
    .ok (.ctxmk d a)
  | 1 =>
    if word.extractLsb' 18 7 ≠ 0#7 then .error .reserved else
    if word.extractLsb' 4 7 ≠ 0#7 then .error .reserved else
    let a := word.extractLsb' 11 7
    .ok (.ctxdestroy a)
  | _ => .error .variant

noncomputable def dec78 (word : BitVec 32) : Except Reject Instr :=
  match (word.extractLsb' 0 4).toNat with
  | 0 =>
    let d := word.extractLsb' 18 7
    let a := word.extractLsb' 11 7
    let b := word.extractLsb' 4 7
    .ok (.ctxgrant d a b)
  | 1 =>
    let d := word.extractLsb' 18 7
    let a := word.extractLsb' 11 7
    let b := word.extractLsb' 4 7
    .ok (.ctxrevoke d a b)
  | _ => .error .variant

noncomputable def dec79 (word : BitVec 32) : Except Reject Instr :=
  match (word.extractLsb' 0 4).toNat with
  | 0 =>
    if word.extractLsb' 18 7 ≠ 0#7 then .error .reserved else
    if word.extractLsb' 4 7 ≠ 0#7 then .error .reserved else
    let a := word.extractLsb' 11 7
    .ok (.ctxrun a)
  | 1 =>
    if word.extractLsb' 18 7 ≠ 0#7 then .error .reserved else
    if word.extractLsb' 4 7 ≠ 0#7 then .error .reserved else
    let a := word.extractLsb' 11 7
    .ok (.ctxstop a)
  | 2 =>
    let d := word.extractLsb' 18 7
    let a := word.extractLsb' 11 7
    let b := word.extractLsb' 4 7
    .ok (.ctxq d a b)
  | _ => .error .variant

noncomputable def dec7A (word : BitVec 32) : Except Reject Instr :=
  match (word.extractLsb' 0 4).toNat with
  | 0 =>
    if word.extractLsb' 4 7 ≠ 0#7 then .error .reserved else
    let d := word.extractLsb' 18 7
    let a := word.extractLsb' 11 7
    .ok (.launch d a)
  | 1 =>
    if word.extractLsb' 4 7 ≠ 0#7 then .error .reserved else
    let d := word.extractLsb' 18 7
    let a := word.extractLsb' 11 7
    .ok (.lquery d a)
  | _ => .error .variant

noncomputable def dec7B (word : BitVec 32) : Except Reject Instr :=
  match (word.extractLsb' 0 4).toNat with
  | 0 =>
    if word.extractLsb' 18 7 ≠ 0#7 then .error .reserved else
    if word.extractLsb' 4 7 ≠ 0#7 then .error .reserved else
    let a := word.extractLsb' 11 7
    .ok (.frel a)
  | 1 =>
    if word.extractLsb' 18 7 ≠ 0#7 then .error .reserved else
    let a := word.extractLsb' 11 7
    let b := word.extractLsb' 4 7
    .ok (.fdele a b)
  | _ => .error .variant

noncomputable def dec7C (word : BitVec 32) : Except Reject Instr :=
  match (word.extractLsb' 0 4).toNat with
  | 0 =>
    if word.extractLsb' 18 7 ≠ 0#7 then .error .reserved else
    if word.extractLsb' 4 7 ≠ 0#7 then .error .reserved else
    let a := word.extractLsb' 11 7
    .ok (.islon a)
  | 1 =>
    if word.extractLsb' 18 7 ≠ 0#7 then .error .reserved else
    if word.extractLsb' 4 7 ≠ 0#7 then .error .reserved else
    let a := word.extractLsb' 11 7
    .ok (.isloff a)
  | 2 =>
    if word.extractLsb' 18 7 ≠ 0#7 then .error .reserved else
    let a := word.extractLsb' 11 7
    let b := word.extractLsb' 4 7
    .ok (.islfreq a b)
  | _ => .error .variant

noncomputable def dec7D (word : BitVec 32) : Except Reject Instr :=
  match (word.extractLsb' 0 4).toNat with
  | 0 =>
    if word.extractLsb' 4 7 ≠ 0#7 then .error .reserved else
    let d := word.extractLsb' 18 7
    let a := word.extractLsb' 11 7
    .ok (.featq d a)
  | 1 =>
    if word.extractLsb' 18 7 ≠ 0#7 then .error .reserved else
    let a := word.extractLsb' 11 7
    let b := word.extractLsb' 4 7
    .ok (.featset a b)
  | _ => .error .variant

noncomputable def dec7E (word : BitVec 32) : Except Reject Instr :=
  match (word.extractLsb' 0 4).toNat with
  | 0 =>
    if word.extractLsb' 4 7 ≠ 0#7 then .error .reserved else
    let d := word.extractLsb' 18 7
    let a := word.extractLsb' 11 7
    .ok (.cntrd d a)
  | 1 =>
    if word.extractLsb' 18 7 ≠ 0#7 then .error .reserved else
    let a := word.extractLsb' 11 7
    let b := word.extractLsb' 4 7
    .ok (.cntset a b)
  | _ => .error .variant

noncomputable def dec7F (word : BitVec 32) : Except Reject Instr :=
  if word.extractLsb' 18 7 ≠ 0#7 then .error .reserved else
  if word.extractLsb' 0 18 ≠ 0#18 then .error .reserved else
  .ok (.freeze)

/-- The instruction of a word, by its primary opcode. -/
noncomputable def decode (word : BitVec 32) : Except Reject Instr :=
  match (word.extractLsb' 25 7).toNat with
  | 0x00 => dec00 word
  | 0x01 => dec01 word
  | 0x02 => dec02 word
  | 0x03 => dec03 word
  | 0x04 => dec04 word
  | 0x05 => dec05 word
  | 0x06 => dec06 word
  | 0x07 => dec07 word
  | 0x08 => dec08 word
  | 0x09 => dec09 word
  | 0x0A => dec0A word
  | 0x0B => dec0B word
  | 0x0C => dec0C word
  | 0x0D => dec0D word
  | 0x0E => dec0E word
  | 0x0F => dec0F word
  | 0x10 => dec10 word
  | 0x11 => dec11 word
  | 0x12 => dec12 word
  | 0x13 => dec13 word
  | 0x14 => dec14 word
  | 0x15 => dec15 word
  | 0x16 => dec16 word
  | 0x17 => dec17 word
  | 0x18 => dec18 word
  | 0x19 => dec19 word
  | 0x1A => dec1A word
  | 0x1B => dec1B word
  | 0x1C => dec1C word
  | 0x1D => dec1D word
  | 0x1E => dec1E word
  | 0x1F => dec1F word
  | 0x20 => dec20 word
  | 0x21 => dec21 word
  | 0x22 => dec22 word
  | 0x23 => dec23 word
  | 0x24 => dec24 word
  | 0x25 => dec25 word
  | 0x26 => dec26 word
  | 0x27 => dec27 word
  | 0x28 => dec28 word
  | 0x29 => dec29 word
  | 0x2A => dec2A word
  | 0x2B => dec2B word
  | 0x2C => dec2C word
  | 0x2D => dec2D word
  | 0x2E => dec2E word
  | 0x2F => dec2F word
  | 0x30 => dec30 word
  | 0x31 => dec31 word
  | 0x32 => dec32 word
  | 0x33 => dec33 word
  | 0x34 => dec34 word
  | 0x35 => dec35 word
  | 0x36 => dec36 word
  | 0x37 => dec37 word
  | 0x38 => dec38 word
  | 0x39 => dec39 word
  | 0x3A => dec3A word
  | 0x3B => dec3B word
  | 0x3C => dec3C word
  | 0x3D => dec3D word
  | 0x3E => dec3E word
  | 0x3F => dec3F word
  | 0x40 => dec40 word
  | 0x41 => dec41 word
  | 0x42 => dec42 word
  | 0x43 => dec43 word
  | 0x44 => dec44 word
  | 0x45 => dec45 word
  | 0x46 => dec46 word
  | 0x47 => dec47 word
  | 0x48 => dec48 word
  | 0x49 => dec49 word
  | 0x4A => dec4A word
  | 0x4B => dec4B word
  | 0x4C => dec4C word
  | 0x4D => dec4D word
  | 0x4E => dec4E word
  | 0x4F => dec4F word
  | 0x50 => dec50 word
  | 0x51 => dec51 word
  | 0x52 => dec52 word
  | 0x53 => dec53 word
  | 0x54 => dec54 word
  | 0x55 => dec55 word
  | 0x56 => dec56 word
  | 0x57 => dec57 word
  | 0x58 => dec58 word
  | 0x59 => dec59 word
  | 0x5A => dec5A word
  | 0x5B => dec5B word
  | 0x5C => dec5C word
  | 0x5D => dec5D word
  | 0x5E => dec5E word
  | 0x5F => dec5F word
  | 0x60 => dec60 word
  | 0x61 => dec61 word
  | 0x62 => dec62 word
  | 0x63 => dec63 word
  | 0x64 => dec64 word
  | 0x65 => dec65 word
  | 0x66 => dec66 word
  | 0x67 => dec67 word
  | 0x68 => dec68 word
  | 0x69 => dec69 word
  | 0x6A => dec6A word
  | 0x6B => dec6B word
  | 0x6C => dec6C word
  | 0x6D => dec6D word
  | 0x6E => dec6E word
  | 0x6F => dec6F word
  | 0x70 => dec70 word
  | 0x71 => dec71 word
  | 0x72 => dec72 word
  | 0x73 => dec73 word
  | 0x74 => dec74 word
  | 0x75 => dec75 word
  | 0x76 => dec76 word
  | 0x77 => dec77 word
  | 0x78 => dec78 word
  | 0x79 => dec79 word
  | 0x7A => dec7A word
  | 0x7B => dec7B word
  | 0x7C => dec7C word
  | 0x7D => dec7D word
  | 0x7E => dec7E word
  | 0x7F => dec7F word
  | _ => .error .variant

/-- A word from four little-endian bytes (R24). -/
def wordOfBytes (b0 b1 b2 b3 : Byte) : BitVec 32 := b3 ++ b2 ++ b1 ++ b0

/-- The four bytes of a word, lowest address first (R24). -/
def bytesOfWord (word : BitVec 32) : List Byte :=
  [word.extractLsb' 0 8, word.extractLsb' 8 8, word.extractLsb' 16 8, word.extractLsb' 24 8]

/-- The instruction at the head of a list of bytes, with the rest. A list too short holds none. -/
noncomputable def decodeBytes : List Byte → Except Reject (Instr × List Byte)
  | b0 :: b1 :: b2 :: b3 :: rest => (decode (wordOfBytes b0 b1 b2 b3)).map (fun i => (i, rest))
  | _ => .error .range

/-- The word of an instruction, from the encoding tables; an event has none. -/
def encode : Instr → Option (BitVec 32)
  | .add d a b => some (0x00#7 ++ d ++ a ++ b ++ 0#4)
  | .sub d a b => some (0x00#7 ++ d ++ a ++ b ++ 1#4)
  | .and d a b => some (0x00#7 ++ d ++ a ++ b ++ 2#4)
  | .or d a b => some (0x00#7 ++ d ++ a ++ b ++ 3#4)
  | .xor d a b => some (0x00#7 ++ d ++ a ++ b ++ 4#4)
  | .andn d a b => some (0x00#7 ++ d ++ a ++ b ++ 5#4)
  | .orn d a b => some (0x00#7 ++ d ++ a ++ b ++ 6#4)
  | .xnor d a b => some (0x00#7 ++ d ++ a ++ b ++ 7#4)
  | .sll d a b => some (0x00#7 ++ d ++ a ++ b ++ 8#4)
  | .srl d a b => some (0x00#7 ++ d ++ a ++ b ++ 9#4)
  | .sra d a b => some (0x00#7 ++ d ++ a ++ b ++ 10#4)
  | .ror d a b => some (0x00#7 ++ d ++ a ++ b ++ 11#4)
  | .min d a b => some (0x00#7 ++ d ++ a ++ b ++ 12#4)
  | .max d a b => some (0x00#7 ++ d ++ a ++ b ++ 13#4)
  | .minn d a b => some (0x00#7 ++ d ++ a ++ b ++ 14#4)
  | .maxn d a b => some (0x00#7 ++ d ++ a ++ b ++ 15#4)
  | .addi d a i => some (0x01#7 ++ d ++ a ++ i)
  | .andi d a i => some (0x02#7 ++ d ++ a ++ i)
  | .ori d a i => some (0x03#7 ++ d ++ a ++ i)
  | .xori d a i => some (0x04#7 ++ d ++ a ++ i)
  | .slli d a k => some (0x05#7 ++ d ++ a ++ 0#2 ++ 0#3 ++ k)
  | .srli d a k => some (0x05#7 ++ d ++ a ++ 1#2 ++ 0#3 ++ k)
  | .srai d a k => some (0x05#7 ++ d ++ a ++ 2#2 ++ 0#3 ++ k)
  | .rori d a k => some (0x05#7 ++ d ++ a ++ 3#2 ++ 0#3 ++ k)
  | .seq d a b => some (0x06#7 ++ d ++ a ++ b ++ 0#4)
  | .sne d a b => some (0x06#7 ++ d ++ a ++ b ++ 1#4)
  | .slt d a b => some (0x06#7 ++ d ++ a ++ b ++ 2#4)
  | .sge d a b => some (0x06#7 ++ d ++ a ++ b ++ 3#4)
  | .sltn d a b => some (0x06#7 ++ d ++ a ++ b ++ 4#4)
  | .sgen d a b => some (0x06#7 ++ d ++ a ++ b ++ 5#4)
  | .seqi d a i => some (0x07#7 ++ d ++ a ++ 0#3 ++ i)
  | .snei d a i => some (0x07#7 ++ d ++ a ++ 1#3 ++ i)
  | .slti d a i => some (0x07#7 ++ d ++ a ++ 2#3 ++ i)
  | .sgei d a i => some (0x07#7 ++ d ++ a ++ 3#3 ++ i)
  | .sltni d a i => some (0x07#7 ++ d ++ a ++ 4#3 ++ i)
  | .sgeni d a i => some (0x07#7 ++ d ++ a ++ 5#3 ++ i)
  | .mul d a b => some (0x08#7 ++ d ++ a ++ b ++ 0#4)
  | .mulh d a b => some (0x08#7 ++ d ++ a ++ b ++ 1#4)
  | .mulhn d a b => some (0x08#7 ++ d ++ a ++ b ++ 2#4)
  | .div d a b => some (0x08#7 ++ d ++ a ++ b ++ 3#4)
  | .divn d a b => some (0x08#7 ++ d ++ a ++ b ++ 4#4)
  | .rem d a b => some (0x08#7 ++ d ++ a ++ b ++ 5#4)
  | .remn d a b => some (0x08#7 ++ d ++ a ++ b ++ 6#4)
  | .clz d a => some (0x09#7 ++ d ++ a ++ 0#7 ++ 0#4)
  | .ctz d a => some (0x09#7 ++ d ++ a ++ 0#7 ++ 1#4)
  | .popc d a => some (0x09#7 ++ d ++ a ++ 0#7 ++ 2#4)
  | .brev d a => some (0x09#7 ++ d ++ a ++ 0#7 ++ 3#4)
  | .bswap d a => some (0x09#7 ++ d ++ a ++ 0#7 ++ 4#4)
  | .sxb d a => some (0x09#7 ++ d ++ a ++ 0#7 ++ 5#4)
  | .sxh d a => some (0x09#7 ++ d ++ a ++ 0#7 ++ 6#4)
  | .sxw d a => some (0x09#7 ++ d ++ a ++ 0#7 ++ 7#4)
  | .lhi d i => some (0x0A#7 ++ d ++ i)
  | .lpc d i => some (0x0B#7 ++ d ++ i)
  | .lix d i => some (0x0C#7 ++ d ++ i)
  | .seln d a b => some (0x0D#7 ++ d ++ a ++ b ++ 0#4)
  | .selz d a b => some (0x0D#7 ++ d ++ a ++ b ++ 1#4)
  | .adds d a b s => some (0x0E#7 ++ d ++ a ++ b ++ s)
  | .madd d a b => some (0x0F#7 ++ d ++ a ++ b ++ 0#4)
  | .msub d a b => some (0x0F#7 ++ d ++ a ++ b ++ 1#4)
  | .j s => some (0x10#7 ++ s)
  | .jal s => some (0x11#7 ++ s)
  | .jr a => some (0x12#7 ++ 0#7 ++ a ++ 0#7 ++ 0#4)
  | .jalr d a => some (0x12#7 ++ d ++ a ++ 0#7 ++ 1#4)
  | .beqz a s => some (0x13#7 ++ a ++ 0#3 ++ s)
  | .bnez a s => some (0x13#7 ++ a ++ 1#3 ++ s)
  | .bltz a s => some (0x13#7 ++ a ++ 2#3 ++ s)
  | .bgez a s => some (0x13#7 ++ a ++ 3#3 ++ s)
  | .bgtz a s => some (0x13#7 ++ a ++ 4#3 ++ s)
  | .blez a s => some (0x13#7 ++ a ++ 5#3 ++ s)
  | .btrim s => some (0x13#7 ++ 0#7 ++ 6#3 ++ s)
  | .bdone s => some (0x13#7 ++ 0#7 ++ 7#3 ++ s)
  | .winb n => some (0x14#7 ++ 0#7 ++ 0#7 ++ 0#1 ++ n)
  | .winba n => some (0x14#7 ++ 0#7 ++ 0#7 ++ 1#1 ++ n)
  | .hintYield => some (0x15#7 ++ 0#7 ++ 0#2 ++ 0#16)
  | .hintPause n => some (0x15#7 ++ 0#7 ++ 1#2 ++ n)
  | .hintPrefi s => some (0x15#7 ++ 0#7 ++ 2#2 ++ s)
  | .svc n => some (0x16#7 ++ 0#7 ++ n)
  | .upcall n => some (0x17#7 ++ 0#7 ++ n)
  | .eret => some (0x18#7 ++ 0#7 ++ 0#18)
  | .exit a => some (0x19#7 ++ 0#7 ++ a ++ 0#1 ++ 0#10)
  | .abort a => some (0x19#7 ++ 0#7 ++ a ++ 1#1 ++ 0#10)
  | .crd d c => some (0x1A#7 ++ d ++ 0#7 ++ c)
  | .cwr a c => some (0x1B#7 ++ 0#7 ++ a ++ c)
  | .cxchg d a c => some (0x1C#7 ++ d ++ a ++ c)
  | .ebreak n => some (0x1D#7 ++ 0#7 ++ n)
  | .coord d w => some (0x1E#7 ++ d ++ 0#7 ++ 0#8 ++ w)
  | .probe d a => some (0x1F#7 ++ d ++ a ++ 0#7 ++ 0#4)
  | .probec d a b => some (0x1F#7 ++ d ++ a ++ b ++ 1#4)
  | .ld d a w k => some (0x20#7 ++ d ++ a ++ w ++ k)
  | .st d a w k => some (0x21#7 ++ d ++ a ++ 0#1 ++ w ++ k)
  | .ldx d a b w => some (0x22#7 ++ d ++ a ++ b ++ 0#1 ++ w)
  | .stx d a b w => some (0x23#7 ++ d ++ a ++ b ++ 0#2 ++ w)
  | .amoadd d a b => some (0x24#7 ++ d ++ a ++ b ++ 0#4)
  | .amoswap d a b => some (0x24#7 ++ d ++ a ++ b ++ 1#4)
  | .amocas d a b => some (0x24#7 ++ d ++ a ++ b ++ 2#4)
  | .amoand d a b => some (0x24#7 ++ d ++ a ++ b ++ 3#4)
  | .amoor d a b => some (0x24#7 ++ d ++ a ++ b ++ 4#4)
  | .amoxor d a b => some (0x24#7 ++ d ++ a ++ b ++ 5#4)
  | .amomin d a b => some (0x24#7 ++ d ++ a ++ b ++ 6#4)
  | .amomax d a b => some (0x24#7 ++ d ++ a ++ b ++ 7#4)
  | .amominn d a b => some (0x24#7 ++ d ++ a ++ b ++ 8#4)
  | .amomaxn d a b => some (0x24#7 ++ d ++ a ++ b ++ 9#4)
  | .amoaddW d a b => some (0x24#7 ++ d ++ a ++ b ++ 10#4)
  | .amoswapW d a b => some (0x24#7 ++ d ++ a ++ b ++ 11#4)
  | .amocasW d a b => some (0x24#7 ++ d ++ a ++ b ++ 12#4)
  | .amoandW d a b => some (0x24#7 ++ d ++ a ++ b ++ 13#4)
  | .amoorW d a b => some (0x24#7 ++ d ++ a ++ b ++ 14#4)
  | .amoxorW d a b => some (0x24#7 ++ d ++ a ++ b ++ 15#4)
  | .cacheFlush a => some (0x25#7 ++ 0#7 ++ a ++ 0#7 ++ 0#4)
  | .cacheInval a => some (0x25#7 ++ 0#7 ++ a ++ 0#7 ++ 1#4)
  | .cacheZero a => some (0x25#7 ++ 0#7 ++ a ++ 0#7 ++ 2#4)
  | .cachePref a => some (0x25#7 ++ 0#7 ++ a ++ 0#7 ++ 3#4)
  | .fadd d a b => some (0x26#7 ++ d ++ a ++ b ++ 0#4)
  | .fsub d a b => some (0x26#7 ++ d ++ a ++ b ++ 1#4)
  | .fmul d a b => some (0x26#7 ++ d ++ a ++ b ++ 2#4)
  | .fdiv d a b => some (0x26#7 ++ d ++ a ++ b ++ 3#4)
  | .fsqrt d a => some (0x26#7 ++ d ++ a ++ 0#7 ++ 4#4)
  | .fmin d a b => some (0x26#7 ++ d ++ a ++ b ++ 5#4)
  | .fmax d a b => some (0x26#7 ++ d ++ a ++ b ++ 6#4)
  | .fcvtif d a => some (0x26#7 ++ d ++ a ++ 0#7 ++ 7#4)
  | .fcvtfi d a => some (0x26#7 ++ d ++ a ++ 0#7 ++ 8#4)
  | .flt d a b => some (0x26#7 ++ d ++ a ++ b ++ 9#4)
  | .feq d a b => some (0x26#7 ++ d ++ a ++ b ++ 10#4)
  | .fle d a b => some (0x26#7 ++ d ++ a ++ b ++ 11#4)
  | .fmac d a b => some (0x27#7 ++ d ++ a ++ b ++ 0#4)
  | .phase s => some (0x28#7 ++ 0#7 ++ 0#7 ++ 0#9 ++ s)
  | .arrive a b s => some (0x29#7 ++ 0#7 ++ a ++ b ++ 0#2 ++ s)
  | .waitb a b s => some (0x2A#7 ++ 0#7 ++ a ++ b ++ 0#2 ++ s)
  | .waitv a b s => some (0x2A#7 ++ 0#7 ++ a ++ b ++ 1#2 ++ s)
  | .waitc a b s => some (0x2A#7 ++ 0#7 ++ a ++ b ++ 2#2 ++ s)
  | .vacq a => some (0x2B#7 ++ 0#7 ++ a ++ 0#7 ++ 0#1 ++ 0#1 ++ 0#2)
  | .racqr d a b => some (0x2C#7 ++ d ++ a ++ b ++ 0#4)
  | .rrelr a b => some (0x2C#7 ++ 0#7 ++ a ++ b ++ 1#4)
  | .racqw d a b => some (0x2C#7 ++ d ++ a ++ b ++ 2#4)
  | .rrelw a b => some (0x2C#7 ++ 0#7 ++ a ++ b ++ 3#4)
  | .xcopy d a b => some (0x2D#7 ++ d ++ a ++ b ++ 0#1 ++ 0#1 ++ 0#2)
  | .xquery d a => some (0x2E#7 ++ d ++ a ++ 0#7 ++ 0#4)
  | .xcancel d a => some (0x2E#7 ++ d ++ a ++ 0#7 ++ 1#4)
  | .tlbinv d a b => some (0x2F#7 ++ d ++ a ++ b ++ 0#4)
  | .tlbinvc d a => some (0x2F#7 ++ d ++ a ++ 0#7 ++ 1#4)
  | .pgmig d a b => some (0x2F#7 ++ d ++ a ++ b ++ 2#4)
  | .setvl d a g f t => some (0x30#7 ++ d ++ a ++ g ++ f ++ t)
  | .vdecl c => some (0x31#7 ++ 0#7 ++ 0#7 ++ 0#8 ++ c)
  | .loop a n => some (0x32#7 ++ 0#7 ++ a ++ 0#1 ++ 0#4 ++ n)
  | .loopP a n => some (0x32#7 ++ 0#7 ++ a ++ 1#1 ++ 0#4 ++ n)
  | .bump d a s => some (0x33#7 ++ d ++ a ++ 0#7 ++ s)
  | .vmv d a m z => some (0x34#7 ++ d ++ a ++ 0#7 ++ (BitVec.ofBool m) ++ (BitVec.ofBool z) ++ 0#2)
  | .vsplat d a m z => some (0x34#7 ++ d ++ a ++ 0#7 ++ (BitVec.ofBool m) ++ (BitVec.ofBool z) ++ 1#2)
  | .vext d a b => some (0x34#7 ++ d ++ a ++ b ++ 0#1 ++ 0#1 ++ 2#2)
  | .vins d a b => some (0x34#7 ++ d ++ a ++ b ++ 0#1 ++ 0#1 ++ 3#2)
  | .vperm d a b m z => some (0x35#7 ++ d ++ a ++ b ++ (BitVec.ofBool m) ++ (BitVec.ofBool z) ++ 0#2)
  | .vslup d a b m z => some (0x35#7 ++ d ++ a ++ b ++ (BitVec.ofBool m) ++ (BitVec.ofBool z) ++ 1#2)
  | .vsldn d a b m z => some (0x35#7 ++ d ++ a ++ b ++ (BitVec.ofBool m) ++ (BitVec.ofBool z) ++ 2#2)
  | .vrev d a m z => some (0x35#7 ++ d ++ a ++ 0#7 ++ (BitVec.ofBool m) ++ (BitVec.ofBool z) ++ 3#2)
  | .vcompress d a b z => some (0x36#7 ++ d ++ a ++ b ++ 0#1 ++ (BitVec.ofBool z) ++ 0#2)
  | .vexpand d a b z => some (0x36#7 ++ d ++ a ++ b ++ 0#1 ++ (BitVec.ofBool z) ++ 1#2)
  | .viota d a m z => some (0x36#7 ++ d ++ a ++ 0#7 ++ (BitVec.ofBool m) ++ (BitVec.ofBool z) ++ 2#2)
  | .vid d m z => some (0x36#7 ++ d ++ 0#7 ++ 0#7 ++ (BitVec.ofBool m) ++ (BitVec.ofBool z) ++ 3#2)
  | .vredadd d a m => some (0x37#7 ++ d ++ a ++ 0#7 ++ (BitVec.ofBool m) ++ 0#1 ++ 0#2)
  | .vredmin d a m => some (0x37#7 ++ d ++ a ++ 0#7 ++ (BitVec.ofBool m) ++ 0#1 ++ 1#2)
  | .vredmax d a m => some (0x37#7 ++ d ++ a ++ 0#7 ++ (BitVec.ofBool m) ++ 0#1 ++ 2#2)
  | .vredminn d a m => some (0x37#7 ++ d ++ a ++ 0#7 ++ (BitVec.ofBool m) ++ 0#1 ++ 3#2)
  | .vredand d a m => some (0x38#7 ++ d ++ a ++ 0#7 ++ (BitVec.ofBool m) ++ 0#1 ++ 0#2)
  | .vredor d a m => some (0x38#7 ++ d ++ a ++ 0#7 ++ (BitVec.ofBool m) ++ 0#1 ++ 1#2)
  | .vredxor d a m => some (0x38#7 ++ d ++ a ++ 0#7 ++ (BitVec.ofBool m) ++ 0#1 ++ 2#2)
  | .vredmaxn d a m => some (0x38#7 ++ d ++ a ++ 0#7 ++ (BitVec.ofBool m) ++ 0#1 ++ 3#2)
  | .vfredsum d a m => some (0x39#7 ++ d ++ a ++ 0#7 ++ (BitVec.ofBool m) ++ 0#1 ++ 0#2)
  | .vfredseq d a m => some (0x39#7 ++ d ++ a ++ 0#7 ++ (BitVec.ofBool m) ++ 0#1 ++ 1#2)
  | .vfredmin d a m => some (0x39#7 ++ d ++ a ++ 0#7 ++ (BitVec.ofBool m) ++ 0#1 ++ 2#2)
  | .vfredmax d a m => some (0x39#7 ++ d ++ a ++ 0#7 ++ (BitVec.ofBool m) ++ 0#1 ++ 3#2)
  | .mand d a b => some (0x3A#7 ++ d ++ a ++ b ++ 0#1 ++ 0#1 ++ 0#2)
  | .mor d a b => some (0x3A#7 ++ d ++ a ++ b ++ 0#1 ++ 0#1 ++ 1#2)
  | .mxor d a b => some (0x3A#7 ++ d ++ a ++ b ++ 0#1 ++ 0#1 ++ 2#2)
  | .mnot d a => some (0x3A#7 ++ d ++ a ++ 0#7 ++ 0#1 ++ 0#1 ++ 3#2)
  | .mpopc d a m => some (0x3B#7 ++ d ++ a ++ 0#7 ++ (BitVec.ofBool m) ++ 0#1 ++ 0#2)
  | .mfirst d a m => some (0x3B#7 ++ d ++ a ++ 0#7 ++ (BitVec.ofBool m) ++ 0#1 ++ 1#2)
  | .mlast d a m => some (0x3B#7 ++ d ++ a ++ 0#7 ++ (BitVec.ofBool m) ++ 0#1 ++ 2#2)
  | .vretag d a t => some (0x3C#7 ++ d ++ a ++ (t.setWidth 7) ++ 0#1 ++ 0#1 ++ 0#2)
  | .vtagq d a => some (0x3C#7 ++ d ++ a ++ 0#7 ++ 0#1 ++ 0#1 ++ 1#2)
  | .vshape d a => some (0x3C#7 ++ d ++ a ++ 0#7 ++ 0#1 ++ 0#1 ++ 2#2)
  | .vsegsum d a m z => some (0x3D#7 ++ d ++ a ++ 0#7 ++ (BitVec.ofBool m) ++ (BitVec.ofBool z) ++ 0#2)
  | .vsegmin d a m z => some (0x3D#7 ++ d ++ a ++ 0#7 ++ (BitVec.ofBool m) ++ (BitVec.ofBool z) ++ 1#2)
  | .vsegmax d a m z => some (0x3D#7 ++ d ++ a ++ 0#7 ++ (BitVec.ofBool m) ++ (BitVec.ofBool z) ++ 2#2)
  | .vsegfsum d a m z => some (0x3D#7 ++ d ++ a ++ 0#7 ++ (BitVec.ofBool m) ++ (BitVec.ofBool z) ++ 3#2)
  | .vmaxvl d => some (0x3E#7 ++ d ++ 0#7 ++ 0#7 ++ 0#1 ++ 0#1 ++ 0#2)
  | .vlanes d => some (0x3E#7 ++ d ++ 0#7 ++ 0#7 ++ 0#1 ++ 0#1 ++ 1#2)
  | .vaddr d a b m z => some (0x3F#7 ++ d ++ a ++ b ++ (BitVec.ofBool m) ++ (BitVec.ofBool z) ++ 0#2)
  | .vadd d a b m z => some (0x40#7 ++ d ++ a ++ b ++ (BitVec.ofBool m) ++ (BitVec.ofBool z) ++ 0#2)
  | .vaddX d a b m z => some (0x40#7 ++ d ++ a ++ b ++ (BitVec.ofBool m) ++ (BitVec.ofBool z) ++ 1#2)
  | .vsub d a b m z => some (0x40#7 ++ d ++ a ++ b ++ (BitVec.ofBool m) ++ (BitVec.ofBool z) ++ 2#2)
  | .vsubX d a b m z => some (0x40#7 ++ d ++ a ++ b ++ (BitVec.ofBool m) ++ (BitVec.ofBool z) ++ 3#2)
  | .vand d a b m z => some (0x41#7 ++ d ++ a ++ b ++ (BitVec.ofBool m) ++ (BitVec.ofBool z) ++ 0#2)
  | .vor d a b m z => some (0x41#7 ++ d ++ a ++ b ++ (BitVec.ofBool m) ++ (BitVec.ofBool z) ++ 1#2)
  | .vxor d a b m z => some (0x41#7 ++ d ++ a ++ b ++ (BitVec.ofBool m) ++ (BitVec.ofBool z) ++ 2#2)
  | .vandn d a b m z => some (0x41#7 ++ d ++ a ++ b ++ (BitVec.ofBool m) ++ (BitVec.ofBool z) ++ 3#2)
  | .vsll d a b m z => some (0x42#7 ++ d ++ a ++ b ++ (BitVec.ofBool m) ++ (BitVec.ofBool z) ++ 0#2)
  | .vsrl d a b m z => some (0x42#7 ++ d ++ a ++ b ++ (BitVec.ofBool m) ++ (BitVec.ofBool z) ++ 1#2)
  | .vsra d a b m z => some (0x42#7 ++ d ++ a ++ b ++ (BitVec.ofBool m) ++ (BitVec.ofBool z) ++ 2#2)
  | .vror d a b m z => some (0x42#7 ++ d ++ a ++ b ++ (BitVec.ofBool m) ++ (BitVec.ofBool z) ++ 3#2)
  | .vsllX d a b m z => some (0x43#7 ++ d ++ a ++ b ++ (BitVec.ofBool m) ++ (BitVec.ofBool z) ++ 0#2)
  | .vsrlX d a b m z => some (0x43#7 ++ d ++ a ++ b ++ (BitVec.ofBool m) ++ (BitVec.ofBool z) ++ 1#2)
  | .vsraX d a b m z => some (0x43#7 ++ d ++ a ++ b ++ (BitVec.ofBool m) ++ (BitVec.ofBool z) ++ 2#2)
  | .vrorX d a b m z => some (0x43#7 ++ d ++ a ++ b ++ (BitVec.ofBool m) ++ (BitVec.ofBool z) ++ 3#2)
  | .vmul d a b m z => some (0x44#7 ++ d ++ a ++ b ++ (BitVec.ofBool m) ++ (BitVec.ofBool z) ++ 0#2)
  | .vmulh d a b m z => some (0x44#7 ++ d ++ a ++ b ++ (BitVec.ofBool m) ++ (BitVec.ofBool z) ++ 1#2)
  | .vmulhn d a b m z => some (0x44#7 ++ d ++ a ++ b ++ (BitVec.ofBool m) ++ (BitVec.ofBool z) ++ 2#2)
  | .vmacc d a b m z => some (0x44#7 ++ d ++ a ++ b ++ (BitVec.ofBool m) ++ (BitVec.ofBool z) ++ 3#2)
  | .vmin d a b m z => some (0x45#7 ++ d ++ a ++ b ++ (BitVec.ofBool m) ++ (BitVec.ofBool z) ++ 0#2)
  | .vmax d a b m z => some (0x45#7 ++ d ++ a ++ b ++ (BitVec.ofBool m) ++ (BitVec.ofBool z) ++ 1#2)
  | .vminn d a b m z => some (0x45#7 ++ d ++ a ++ b ++ (BitVec.ofBool m) ++ (BitVec.ofBool z) ++ 2#2)
  | .vmaxn d a b m z => some (0x45#7 ++ d ++ a ++ b ++ (BitVec.ofBool m) ++ (BitVec.ofBool z) ++ 3#2)
  | .vaddsat d a b m z => some (0x46#7 ++ d ++ a ++ b ++ (BitVec.ofBool m) ++ (BitVec.ofBool z) ++ 0#2)
  | .vsubsat d a b m z => some (0x46#7 ++ d ++ a ++ b ++ (BitVec.ofBool m) ++ (BitVec.ofBool z) ++ 1#2)
  | .vaddsatn d a b m z => some (0x46#7 ++ d ++ a ++ b ++ (BitVec.ofBool m) ++ (BitVec.ofBool z) ++ 2#2)
  | .vsubsatn d a b m z => some (0x46#7 ++ d ++ a ++ b ++ (BitVec.ofBool m) ++ (BitVec.ofBool z) ++ 3#2)
  | .vseq d a b m z => some (0x47#7 ++ d ++ a ++ b ++ (BitVec.ofBool m) ++ (BitVec.ofBool z) ++ 0#2)
  | .vsne d a b m z => some (0x47#7 ++ d ++ a ++ b ++ (BitVec.ofBool m) ++ (BitVec.ofBool z) ++ 1#2)
  | .vslt d a b m z => some (0x47#7 ++ d ++ a ++ b ++ (BitVec.ofBool m) ++ (BitVec.ofBool z) ++ 2#2)
  | .vsltn d a b m z => some (0x47#7 ++ d ++ a ++ b ++ (BitVec.ofBool m) ++ (BitVec.ofBool z) ++ 3#2)
  | .vseqX d a b m z => some (0x48#7 ++ d ++ a ++ b ++ (BitVec.ofBool m) ++ (BitVec.ofBool z) ++ 0#2)
  | .vsneX d a b m z => some (0x48#7 ++ d ++ a ++ b ++ (BitVec.ofBool m) ++ (BitVec.ofBool z) ++ 1#2)
  | .vsltX d a b m z => some (0x48#7 ++ d ++ a ++ b ++ (BitVec.ofBool m) ++ (BitVec.ofBool z) ++ 2#2)
  | .vsltnX d a b m z => some (0x48#7 ++ d ++ a ++ b ++ (BitVec.ofBool m) ++ (BitVec.ofBool z) ++ 3#2)
  | .vdiv d a b m z => some (0x49#7 ++ d ++ a ++ b ++ (BitVec.ofBool m) ++ (BitVec.ofBool z) ++ 0#2)
  | .vdivn d a b m z => some (0x49#7 ++ d ++ a ++ b ++ (BitVec.ofBool m) ++ (BitVec.ofBool z) ++ 1#2)
  | .vrem d a b m z => some (0x49#7 ++ d ++ a ++ b ++ (BitVec.ofBool m) ++ (BitVec.ofBool z) ++ 2#2)
  | .vremn d a b m z => some (0x49#7 ++ d ++ a ++ b ++ (BitVec.ofBool m) ++ (BitVec.ofBool z) ++ 3#2)
  | .vabs d a m z => some (0x4A#7 ++ d ++ a ++ 0#7 ++ (BitVec.ofBool m) ++ (BitVec.ofBool z) ++ 0#2)
  | .vneg d a m z => some (0x4A#7 ++ d ++ a ++ 0#7 ++ (BitVec.ofBool m) ++ (BitVec.ofBool z) ++ 1#2)
  | .vclz d a m z => some (0x4A#7 ++ d ++ a ++ 0#7 ++ (BitVec.ofBool m) ++ (BitVec.ofBool z) ++ 2#2)
  | .vpopc d a m z => some (0x4A#7 ++ d ++ a ++ 0#7 ++ (BitVec.ofBool m) ++ (BitVec.ofBool z) ++ 3#2)
  | .vwiden d a m z => some (0x4B#7 ++ d ++ a ++ 0#7 ++ (BitVec.ofBool m) ++ (BitVec.ofBool z) ++ 0#2)
  | .vwidenn d a m z => some (0x4B#7 ++ d ++ a ++ 0#7 ++ (BitVec.ofBool m) ++ (BitVec.ofBool z) ++ 1#2)
  | .vnarrow d a m z => some (0x4B#7 ++ d ++ a ++ 0#7 ++ (BitVec.ofBool m) ++ (BitVec.ofBool z) ++ 2#2)
  | .vnarrowsat d a m z => some (0x4B#7 ++ d ++ a ++ 0#7 ++ (BitVec.ofBool m) ++ (BitVec.ofBool z) ++ 3#2)
  | .vmerge d a b z => some (0x4C#7 ++ d ++ a ++ b ++ 0#1 ++ (BitVec.ofBool z) ++ 0#2)
  | .vmergeX d a b z => some (0x4C#7 ++ d ++ a ++ b ++ 0#1 ++ (BitVec.ofBool z) ++ 1#2)
  | .vdot4 d a b m z => some (0x4D#7 ++ d ++ a ++ b ++ (BitVec.ofBool m) ++ (BitVec.ofBool z) ++ 0#2)
  | .vdot4n d a b m z => some (0x4D#7 ++ d ++ a ++ b ++ (BitVec.ofBool m) ++ (BitVec.ofBool z) ++ 1#2)
  | .vdot2 d a b m z => some (0x4D#7 ++ d ++ a ++ b ++ (BitVec.ofBool m) ++ (BitVec.ofBool z) ++ 2#2)
  | .vmaccX d a b m z => some (0x4E#7 ++ d ++ a ++ b ++ (BitVec.ofBool m) ++ (BitVec.ofBool z) ++ 0#2)
  | .vclamp d a b m z => some (0x4F#7 ++ d ++ a ++ b ++ (BitVec.ofBool m) ++ (BitVec.ofBool z) ++ 0#2)
  | .vfadd d a b m z => some (0x50#7 ++ d ++ a ++ b ++ (BitVec.ofBool m) ++ (BitVec.ofBool z) ++ 0#2)
  | .vfaddX d a b m z => some (0x50#7 ++ d ++ a ++ b ++ (BitVec.ofBool m) ++ (BitVec.ofBool z) ++ 1#2)
  | .vfsub d a b m z => some (0x50#7 ++ d ++ a ++ b ++ (BitVec.ofBool m) ++ (BitVec.ofBool z) ++ 2#2)
  | .vfsubX d a b m z => some (0x50#7 ++ d ++ a ++ b ++ (BitVec.ofBool m) ++ (BitVec.ofBool z) ++ 3#2)
  | .vfmul d a b m z => some (0x51#7 ++ d ++ a ++ b ++ (BitVec.ofBool m) ++ (BitVec.ofBool z) ++ 0#2)
  | .vfmulX d a b m z => some (0x51#7 ++ d ++ a ++ b ++ (BitVec.ofBool m) ++ (BitVec.ofBool z) ++ 1#2)
  | .vfdiv d a b m z => some (0x51#7 ++ d ++ a ++ b ++ (BitVec.ofBool m) ++ (BitVec.ofBool z) ++ 2#2)
  | .vfdivX d a b m z => some (0x51#7 ++ d ++ a ++ b ++ (BitVec.ofBool m) ++ (BitVec.ofBool z) ++ 3#2)
  | .vfma d a b m z => some (0x52#7 ++ d ++ a ++ b ++ (BitVec.ofBool m) ++ (BitVec.ofBool z) ++ 0#2)
  | .vfms d a b m z => some (0x52#7 ++ d ++ a ++ b ++ (BitVec.ofBool m) ++ (BitVec.ofBool z) ++ 1#2)
  | .vfnma d a b m z => some (0x52#7 ++ d ++ a ++ b ++ (BitVec.ofBool m) ++ (BitVec.ofBool z) ++ 2#2)
  | .vfnms d a b m z => some (0x52#7 ++ d ++ a ++ b ++ (BitVec.ofBool m) ++ (BitVec.ofBool z) ++ 3#2)
  | .vfmaX d a b m z => some (0x53#7 ++ d ++ a ++ b ++ (BitVec.ofBool m) ++ (BitVec.ofBool z) ++ 0#2)
  | .vfmsX d a b m z => some (0x53#7 ++ d ++ a ++ b ++ (BitVec.ofBool m) ++ (BitVec.ofBool z) ++ 1#2)
  | .vfnmaX d a b m z => some (0x53#7 ++ d ++ a ++ b ++ (BitVec.ofBool m) ++ (BitVec.ofBool z) ++ 2#2)
  | .vfnmsX d a b m z => some (0x53#7 ++ d ++ a ++ b ++ (BitVec.ofBool m) ++ (BitVec.ofBool z) ++ 3#2)
  | .vfmin d a b m z => some (0x54#7 ++ d ++ a ++ b ++ (BitVec.ofBool m) ++ (BitVec.ofBool z) ++ 0#2)
  | .vfmax d a b m z => some (0x54#7 ++ d ++ a ++ b ++ (BitVec.ofBool m) ++ (BitVec.ofBool z) ++ 1#2)
  | .vfabs d a m z => some (0x54#7 ++ d ++ a ++ 0#7 ++ (BitVec.ofBool m) ++ (BitVec.ofBool z) ++ 2#2)
  | .vfneg d a m z => some (0x54#7 ++ d ++ a ++ 0#7 ++ (BitVec.ofBool m) ++ (BitVec.ofBool z) ++ 3#2)
  | .vfeq d a b m z => some (0x55#7 ++ d ++ a ++ b ++ (BitVec.ofBool m) ++ (BitVec.ofBool z) ++ 0#2)
  | .vflt d a b m z => some (0x55#7 ++ d ++ a ++ b ++ (BitVec.ofBool m) ++ (BitVec.ofBool z) ++ 1#2)
  | .vfle d a b m z => some (0x55#7 ++ d ++ a ++ b ++ (BitVec.ofBool m) ++ (BitVec.ofBool z) ++ 2#2)
  | .vfun d a b m z => some (0x55#7 ++ d ++ a ++ b ++ (BitVec.ofBool m) ++ (BitVec.ofBool z) ++ 3#2)
  | .vfeqX d a b m z => some (0x56#7 ++ d ++ a ++ b ++ (BitVec.ofBool m) ++ (BitVec.ofBool z) ++ 0#2)
  | .vfltX d a b m z => some (0x56#7 ++ d ++ a ++ b ++ (BitVec.ofBool m) ++ (BitVec.ofBool z) ++ 1#2)
  | .vfleX d a b m z => some (0x56#7 ++ d ++ a ++ b ++ (BitVec.ofBool m) ++ (BitVec.ofBool z) ++ 2#2)
  | .vfunX d a b m z => some (0x56#7 ++ d ++ a ++ b ++ (BitVec.ofBool m) ++ (BitVec.ofBool z) ++ 3#2)
  | .vfsqrt d a m z => some (0x57#7 ++ d ++ a ++ 0#7 ++ (BitVec.ofBool m) ++ (BitVec.ofBool z) ++ 0#2)
  | .vfrsqrt d a m z => some (0x57#7 ++ d ++ a ++ 0#7 ++ (BitVec.ofBool m) ++ (BitVec.ofBool z) ++ 1#2)
  | .vfrcp d a m z => some (0x57#7 ++ d ++ a ++ 0#7 ++ (BitVec.ofBool m) ++ (BitVec.ofBool z) ++ 2#2)
  | .vfexp2 d a m z => some (0x57#7 ++ d ++ a ++ 0#7 ++ (BitVec.ofBool m) ++ (BitVec.ofBool z) ++ 3#2)
  | .vflog2 d a m z => some (0x58#7 ++ d ++ a ++ 0#7 ++ (BitVec.ofBool m) ++ (BitVec.ofBool z) ++ 0#2)
  | .vftanh d a m z => some (0x58#7 ++ d ++ a ++ 0#7 ++ (BitVec.ofBool m) ++ (BitVec.ofBool z) ++ 1#2)
  | .vfsigm d a m z => some (0x58#7 ++ d ++ a ++ 0#7 ++ (BitVec.ofBool m) ++ (BitVec.ofBool z) ++ 2#2)
  | .vfgelu d a m z => some (0x58#7 ++ d ++ a ++ 0#7 ++ (BitVec.ofBool m) ++ (BitVec.ofBool z) ++ 3#2)
  | .vcvt d a t m z => some (0x59#7 ++ d ++ a ++ (t.setWidth 7) ++ (BitVec.ofBool m) ++ (BitVec.ofBool z) ++ 0#2)
  | .vcvtfi d a t m z => some (0x59#7 ++ d ++ a ++ (t.setWidth 7) ++ (BitVec.ofBool m) ++ (BitVec.ofBool z) ++ 1#2)
  | .vcvtif d a t m z => some (0x59#7 ++ d ++ a ++ (t.setWidth 7) ++ (BitVec.ofBool m) ++ (BitVec.ofBool z) ++ 2#2)
  | .vcvtint d a t m z => some (0x59#7 ++ d ++ a ++ (t.setWidth 7) ++ (BitVec.ofBool m) ++ (BitVec.ofBool z) ++ 3#2)
  | .vpack d a b m z => some (0x5A#7 ++ d ++ a ++ b ++ (BitVec.ofBool m) ++ (BitVec.ofBool z) ++ 0#2)
  | .vunpack d a b m z => some (0x5A#7 ++ d ++ a ++ b ++ (BitVec.ofBool m) ++ (BitVec.ofBool z) ++ 1#2)
  | .vcbdec d a b m z => some (0x5A#7 ++ d ++ a ++ b ++ (BitVec.ofBool m) ++ (BitVec.ofBool z) ++ 2#2)
  | .vcbenc d a b m z => some (0x5A#7 ++ d ++ a ++ b ++ (BitVec.ofBool m) ++ (BitVec.ofBool z) ++ 3#2)
  | .vfscale d a b m z => some (0x5B#7 ++ d ++ a ++ b ++ (BitVec.ofBool m) ++ (BitVec.ofBool z) ++ 0#2)
  | .vfexpo d a m z => some (0x5B#7 ++ d ++ a ++ 0#7 ++ (BitVec.ofBool m) ++ (BitVec.ofBool z) ++ 1#2)
  | .vfmant d a m z => some (0x5B#7 ++ d ++ a ++ 0#7 ++ (BitVec.ofBool m) ++ (BitVec.ofBool z) ++ 2#2)
  | .vfclass d a m z => some (0x5B#7 ++ d ++ a ++ 0#7 ++ (BitVec.ofBool m) ++ (BitVec.ofBool z) ++ 3#2)
  | .vfdot2 d a b m z => some (0x5C#7 ++ d ++ a ++ b ++ (BitVec.ofBool m) ++ (BitVec.ofBool z) ++ 0#2)
  | .vfdot4 d a b m z => some (0x5C#7 ++ d ++ a ++ b ++ (BitVec.ofBool m) ++ (BitVec.ofBool z) ++ 1#2)
  | .vfclampX d a b m z => some (0x5D#7 ++ d ++ a ++ b ++ (BitVec.ofBool m) ++ (BitVec.ofBool z) ++ 0#2)
  | .vfrelu d a m z => some (0x5D#7 ++ d ++ a ++ 0#7 ++ (BitVec.ofBool m) ++ (BitVec.ofBool z) ++ 1#2)
  | .vfwadd d a b m z => some (0x5E#7 ++ d ++ a ++ b ++ (BitVec.ofBool m) ++ (BitVec.ofBool z) ++ 0#2)
  | .vfwmul d a b m z => some (0x5E#7 ++ d ++ a ++ b ++ (BitVec.ofBool m) ++ (BitVec.ofBool z) ++ 1#2)
  | .vfwma d a b m z => some (0x5E#7 ++ d ++ a ++ b ++ (BitVec.ofBool m) ++ (BitVec.ofBool z) ++ 2#2)
  | .vfsgnj d a b m z => some (0x5F#7 ++ d ++ a ++ b ++ (BitVec.ofBool m) ++ (BitVec.ofBool z) ++ 0#2)
  | .vfsgnjn d a b m z => some (0x5F#7 ++ d ++ a ++ b ++ (BitVec.ofBool m) ++ (BitVec.ofBool z) ++ 1#2)
  | .vfsgnjx d a b m z => some (0x5F#7 ++ d ++ a ++ b ++ (BitVec.ofBool m) ++ (BitVec.ofBool z) ++ 2#2)
  | .vld d a b m z => some (0x60#7 ++ d ++ a ++ b ++ (BitVec.ofBool m) ++ (BitVec.ofBool z) ++ 0#2)
  | .vldNt d a b m z => some (0x60#7 ++ d ++ a ++ b ++ (BitVec.ofBool m) ++ (BitVec.ofBool z) ++ 1#2)
  | .vldBc d a b m z => some (0x60#7 ++ d ++ a ++ b ++ (BitVec.ofBool m) ++ (BitVec.ofBool z) ++ 2#2)
  | .vst d a b m => some (0x61#7 ++ d ++ a ++ b ++ (BitVec.ofBool m) ++ 0#1 ++ 0#2)
  | .vstNt d a b m => some (0x61#7 ++ d ++ a ++ b ++ (BitVec.ofBool m) ++ 0#1 ++ 1#2)
  | .vlds d a b m z => some (0x62#7 ++ d ++ a ++ b ++ (BitVec.ofBool m) ++ (BitVec.ofBool z) ++ 0#2)
  | .vsts d a b m => some (0x63#7 ++ d ++ a ++ b ++ (BitVec.ofBool m) ++ 0#1 ++ 0#2)
  | .vgather d a b m z => some (0x64#7 ++ d ++ a ++ b ++ (BitVec.ofBool m) ++ (BitVec.ofBool z) ++ 0#2)
  | .vgatherNt d a b m z => some (0x64#7 ++ d ++ a ++ b ++ (BitVec.ofBool m) ++ (BitVec.ofBool z) ++ 1#2)
  | .vscatter d a b m => some (0x65#7 ++ d ++ a ++ b ++ (BitVec.ofBool m) ++ 0#1 ++ 0#2)
  | .vscatterO d a b m => some (0x65#7 ++ d ++ a ++ b ++ (BitVec.ofBool m) ++ 0#1 ++ 1#2)
  | .vamoadd d a b m z => some (0x66#7 ++ d ++ a ++ b ++ (BitVec.ofBool m) ++ (BitVec.ofBool z) ++ 0#2)
  | .vamomin d a b m z => some (0x66#7 ++ d ++ a ++ b ++ (BitVec.ofBool m) ++ (BitVec.ofBool z) ++ 1#2)
  | .vamomax d a b m z => some (0x66#7 ++ d ++ a ++ b ++ (BitVec.ofBool m) ++ (BitVec.ofBool z) ++ 2#2)
  | .vamoswap d a b m z => some (0x66#7 ++ d ++ a ++ b ++ (BitVec.ofBool m) ++ (BitVec.ofBool z) ++ 3#2)
  | .vamoand d a b m z => some (0x67#7 ++ d ++ a ++ b ++ (BitVec.ofBool m) ++ (BitVec.ofBool z) ++ 0#2)
  | .vamoor d a b m z => some (0x67#7 ++ d ++ a ++ b ++ (BitVec.ofBool m) ++ (BitVec.ofBool z) ++ 1#2)
  | .vamoxor d a b m z => some (0x67#7 ++ d ++ a ++ b ++ (BitVec.ofBool m) ++ (BitVec.ofBool z) ++ 2#2)
  | .vamofadd d a b m z => some (0x67#7 ++ d ++ a ++ b ++ (BitVec.ofBool m) ++ (BitVec.ofBool z) ++ 3#2)
  | .tld d a m z => some (0x68#7 ++ d ++ a ++ 0#7 ++ (BitVec.ofBool m) ++ (BitVec.ofBool z) ++ 0#2)
  | .tst d a m => some (0x69#7 ++ d ++ a ++ 0#7 ++ (BitVec.ofBool m) ++ 0#1 ++ 0#2)
  | .vldsp d a b m z => some (0x6A#7 ++ d ++ a ++ b ++ (BitVec.ofBool m) ++ (BitVec.ofBool z) ++ 0#2)
  | .vstsp d a b m => some (0x6A#7 ++ d ++ a ++ b ++ (BitVec.ofBool m) ++ 0#1 ++ 1#2)
  | .vpref a b m => some (0x6B#7 ++ 0#7 ++ a ++ b ++ (BitVec.ofBool m) ++ 0#1 ++ 0#2)
  | .vprobe d a b m z => some (0x6B#7 ++ d ++ a ++ b ++ (BitVec.ofBool m) ++ (BitVec.ofBool z) ++ 1#2)
  | .mld d a b z => some (0x6C#7 ++ d ++ a ++ b ++ 0#1 ++ (BitVec.ofBool z) ++ 0#2)
  | .mldt d a b z => some (0x6C#7 ++ d ++ a ++ b ++ 0#1 ++ (BitVec.ofBool z) ++ 1#2)
  | .vflush a b m => some (0x6D#7 ++ 0#7 ++ a ++ b ++ (BitVec.ofBool m) ++ 0#1 ++ 0#2)
  | .vinval a b m => some (0x6D#7 ++ 0#7 ++ a ++ b ++ (BitVec.ofBool m) ++ 0#1 ++ 1#2)
  | .qld d a => some (0x6E#7 ++ (d.setWidth 7) ++ a ++ 0#7 ++ 0#1 ++ 0#1 ++ 0#2)
  | .qmk d a => some (0x6E#7 ++ (d.setWidth 7) ++ a ++ 0#7 ++ 0#1 ++ 0#1 ++ 1#2)
  | .qdrop d => some (0x6E#7 ++ (d.setWidth 7) ++ 0#7 ++ 0#7 ++ 0#1 ++ 0#1 ++ 2#2)
  | .qwin d a b => some (0x6E#7 ++ (d.setWidth 7) ++ a ++ b ++ 0#1 ++ 0#1 ++ 3#2)
  | .dvlds2 d a b => some (0x6F#7 ++ d ++ a ++ b ++ 0#1 ++ 0#1 ++ 0#2)
  | .dvred d a => some (0x6F#7 ++ d ++ a ++ 0#7 ++ 0#1 ++ 0#1 ++ 1#2)
  | .dmmac d a b => some (0x6F#7 ++ (d.setWidth 7) ++ a ++ b ++ 0#1 ++ 0#1 ++ 2#2)
  | .dcopy a b => some (0x6F#7 ++ 0#7 ++ a ++ b ++ 0#1 ++ 0#1 ++ 3#2)
  | .mop d a b m => some (0x70#7 ++ (d.setWidth 7) ++ a ++ b ++ (BitVec.ofBool m) ++ 0#1 ++ 0#2)
  | .mops d a b m => some (0x70#7 ++ (d.setWidth 7) ++ a ++ b ++ (BitVec.ofBool m) ++ 0#1 ++ 1#2)
  | .mopn d a b m => some (0x70#7 ++ (d.setWidth 7) ++ a ++ b ++ (BitVec.ofBool m) ++ 0#1 ++ 2#2)
  | .mrw d a b m => some (0x71#7 ++ (d.setWidth 7) ++ a ++ (b.setWidth 7) ++ (BitVec.ofBool m) ++ 0#1 ++ 0#2)
  | .mrx d a b m => some (0x71#7 ++ (d.setWidth 7) ++ a ++ b ++ (BitVec.ofBool m) ++ 0#1 ++ 1#2)
  | .mzero d => some (0x72#7 ++ (d.setWidth 7) ++ 0#7 ++ 0#7 ++ 0#1 ++ 0#1 ++ 0#2)
  | .mrd d a b z => some (0x72#7 ++ d ++ (a.setWidth 7) ++ b ++ 0#1 ++ (BitVec.ofBool z) ++ 1#2)
  | .mwr d a b => some (0x72#7 ++ (d.setWidth 7) ++ a ++ b ++ 0#1 ++ 0#1 ++ 2#2)
  | .mscale d a => some (0x72#7 ++ (d.setWidth 7) ++ a ++ 0#7 ++ 0#1 ++ 0#1 ++ 3#2)
  | .mplane d a b => some (0x73#7 ++ (d.setWidth 7) ++ a ++ b ++ 0#1 ++ 0#1 ++ 0#2)
  | .munplane d a b => some (0x73#7 ++ d ++ (a.setWidth 7) ++ b ++ 0#1 ++ 0#1 ++ 1#2)
  | .itopen d a => some (0x74#7 ++ (d.setWidth 7) ++ a ++ 0#7 ++ 0#1 ++ 0#1 ++ 0#2)
  | .itclose a => some (0x74#7 ++ 0#7 ++ (a.setWidth 7) ++ 0#7 ++ 0#1 ++ 0#1 ++ 1#2)
  | .next d a z => some (0x75#7 ++ d ++ (a.setWidth 7) ++ 0#7 ++ 0#1 ++ (BitVec.ofBool z) ++ 0#2)
  | .next2 d a b z => some (0x75#7 ++ d ++ (a.setWidth 7) ++ b ++ 0#1 ++ (BitVec.ofBool z) ++ 1#2)
  | .enough a => some (0x76#7 ++ 0#7 ++ (a.setWidth 7) ++ 0#7 ++ 0#1 ++ 0#1 ++ 0#2)
  | .itsave a => some (0x76#7 ++ 0#7 ++ (a.setWidth 7) ++ 0#7 ++ 0#1 ++ 0#1 ++ 1#2)
  | .ctxmk d a => some (0x77#7 ++ d ++ a ++ 0#7 ++ 0#4)
  | .ctxdestroy a => some (0x77#7 ++ 0#7 ++ a ++ 0#7 ++ 1#4)
  | .ctxgrant d a b => some (0x78#7 ++ d ++ a ++ b ++ 0#4)
  | .ctxrevoke d a b => some (0x78#7 ++ d ++ a ++ b ++ 1#4)
  | .ctxrun a => some (0x79#7 ++ 0#7 ++ a ++ 0#7 ++ 0#4)
  | .ctxstop a => some (0x79#7 ++ 0#7 ++ a ++ 0#7 ++ 1#4)
  | .ctxq d a b => some (0x79#7 ++ d ++ a ++ b ++ 2#4)
  | .launch d a => some (0x7A#7 ++ d ++ a ++ 0#7 ++ 0#4)
  | .lquery d a => some (0x7A#7 ++ d ++ a ++ 0#7 ++ 1#4)
  | .frel a => some (0x7B#7 ++ 0#7 ++ a ++ 0#7 ++ 0#4)
  | .fdele a b => some (0x7B#7 ++ 0#7 ++ a ++ b ++ 1#4)
  | .islon a => some (0x7C#7 ++ 0#7 ++ a ++ 0#7 ++ 0#4)
  | .isloff a => some (0x7C#7 ++ 0#7 ++ a ++ 0#7 ++ 1#4)
  | .islfreq a b => some (0x7C#7 ++ 0#7 ++ a ++ b ++ 2#4)
  | .featq d a => some (0x7D#7 ++ d ++ a ++ 0#7 ++ 0#4)
  | .featset a b => some (0x7D#7 ++ 0#7 ++ a ++ b ++ 1#4)
  | .cntrd d a => some (0x7E#7 ++ d ++ a ++ 0#7 ++ 0#4)
  | .cntset a b => some (0x7E#7 ++ 0#7 ++ a ++ b ++ 1#4)
  | .freeze => some (0x7F#7 ++ 0#7 ++ 0#18)
  | .recordDelivery _ => none
  | .handlerEntry _ => none
  | .placeCrew _ => none
  | .reservation _ _ _ => none
  | .sliceEnd _ _ => none
  | .savedPositionWrite _ _ => none
  | .stopDrained _ => none
  | .forcedPreemption _ _ => none
  | .revocationEnforce _ _ => none
  | .revocationGraceExpiry _ _ => none
  | .shootDownComplete => none
  | .contextDestruction _ => none
  | .hangWatchdog _ _ => none
  | .launchCompletion _ _ => none
  | .barrierMarkerFire _ _ => none
  | .waitComplete _ _ => none
  | .ringAcquireComplete _ _ => none
  | .laneGrantWake _ _ => none
  | .pauseExpiry _ _ => none
  | .yieldRelease _ _ => none
  | .copySector _ _ _ _ _ => none
  | .ringSlotAcquire _ _ _ => none
  | .tableWalkComplete _ _ => none
  | .bwPublication _ _ _ _ => none
  | .sramSingleBitError _ => none
  | .sramUncorrectableError _ _ => none
  | .powerLimitAction _ => none
  | .hostWrite _ _ => none
  | .hostRead _ _ => none
  | .peerFlitReceive _ _ _ => none
  | .peerRetryRequest _ _ => none
  | .peerInboundRequest _ _ _ => none
  | .packageReset => none
  | .functionReady _ => none
  | .functionFailed _ => none
  | .go => none
  | .runtimeStart => none
  | .commit => none
  | .switch => none
  | .feataccWrite _ _ => none
  | .configWindowWrite _ _ => none
  | .debugResume => none
  | .debugReset => none
  | .fqbaseWrite _ => none
  | .fqheadWrite _ => none
  | .fqtailRead _ => none
  | .ecauseWrite _ => none
  | .fpflagsWrite _ => none
  | .bwclsWrite _ => none
  | .mirrorSwapCompletion _ _ _ => none
  | .hbmEccCorrection => none

/-- The decoder on a word as the operation table numbers its bits (bit 0 the least significant). -/
noncomputable def decodeTableWord (nbits w : Nat) : Option Instr :=
  if nbits ≤ 32 then
    match decodeBytes (bytesOfWord (BitVec.ofNat 32 w)) with
    | .ok (i, _) => some i
    | .error _ => none
  else none

end Sys2Proof
end

