-- ==== Sys2Proof/Machine/Turn.lean ====
section
/-! DEFINITION. Who moves: the agenda, a core's wake-ups, the choice of a thread, and the word it issues
(05 R86; 06 R94, R118; 07 R127, R135; 10 R219; 19 R315, R328; log entry 5). -/

namespace Sys2Proof.Machine

/-- What a turn comes to: an outcome, or an instruction for `exec` with the state it starts from. -/
inductive Move where
  | done (o : Out)
  | run (i : Instr) (s : State)

/-- Time passes: the flits of the last turn leave, the active lists take the contexts that have gained a crew that
fits, and each crew's wait is brought up to date at the moment that turn ended, which is before the time of this one
passes (05 R83, R84; 23 R344). -/
def tick (ns : Nat) (s : State) : State :=
  let s := meetsPrereqs (settleWaits (enterLists (sendFlits s).bump))
  { s with ns := s.ns + ns }

/-! ## Wake-ups of a core -/

/-- The state that an outcome leads to; no wake-up stops the machine. -/
def outState (s : State) : Out → State
  | .next t => t
  | _ => s

/-- A thread that waits for its copy engine goes on once fewer commands are outstanding. -/
def wakeEngine (s : State) (key : Nat) : State :=
  match (s.thread key).status with
  | .engineWait n => if (s.thread key).cmds.length < n then wake s key else s
  | _ => s

/-- Whether a struck tile's machine check is taken now: no instruction of the thread stands half issued. -/
def Thread.mcheckDue (t : Thread) : Bool :=
  !t.mcheck.isEmpty && t.replay.isNone &&
  (match t.status with
   | .ready => true
   | .pause _ => true
   | .yield _ _ => true
   | _ => false)

def takeMcheck (s : State) (key : Nat) : State := if (s.thread key).mcheckDue then mcheckTrap s key else s

/-- `abort`, which waits for no marker: one still unfired never fires (22 R335). -/
def isAbort (w : BitVec 32) : Bool := opOf w == 0x19 && w.getLsbD 10

/-- A word that may not issue before the thread's barrier markers have fired: one that enters their queue or waits for
it, and an atomic after an unfired marker of scope s, for it may be a send (17 R296, R300); and a `cntrd` of the
traps, which a marker may count (23 R351). -/
def Thread.behindMarkers (t : Thread) (w : BitVec 32) : Bool :=
  queuedWord w || (endsStrip w && !(isAbort w)) || (opOf w == 0x24 && t.markers.any (·.scope == 3)) ||
  (opOf w == 0x7E && w.toNat % 16 == 0 && t.rd (w.extractLsb' 11 7) == 3)

/-- Whether a thread can issue nothing before its barrier markers have fired. -/
def heldByMarkers (s : State) (key : Nat) : Bool :=
  (s.thread key).markersDue && ((nextWord s key).map (s.thread key).behindMarkers).getD true

/-- A thread's barrier markers fire where they may: at once when it can issue nothing before, and otherwise at a time left
free, for the scalar side goes on issuing (17 R300; log entry 76). -/
def fireFreely (s : State) (key : Nat) : State :=
  if (s.thread key).markers.isEmpty then s
  else if (s.thread key).status ≠ .ready || heldByMarkers s key || Config.freeBit s.fresh then (s.fireAll key).bump
  else s.bump

/-- Everything that may make a thread ready is looked at. -/
def wakeThread (s : State) (key : Nat) : State :=
  let s := fireFreely s key
  let s := outState s (repoll s key)
  let s := outState s (retryRing s key)
  takeMcheck (wakeEngine (endYield (endPause (wakeLanes s key) key) key) key) key

/-- Records that wait for room, as many as there is room for. -/
def unblockAll (s : State) (core : Nat) : State :=
  (s.coreAt core).blocked.foldl (fun s _ => unblock s core) s

def wakeCore (s : State) (core : Nat) : State :=
  let s := (List.range 5).foldl (fun s k => wakeThread s (threadKey core k)) s
  enterNext (unblockAll s core) core

/-! ## Whose instruction (05 R86) -/

/-- A thread that may issue: ready, not about to be saved, and not held by a barrier marker. -/
def mayIssue (s : State) (key : Nat) : Bool :=
  (s.thread key).status == .ready && !(targeted s key && savable s key) && !(heldByMarkers s key)

/-- User slots in round-robin order, from the one after the last that issued. -/
def roundRobin (last : Nat) : List Nat := (List.range 4).map (fun i => (last + 1 + i) % 4)

/-- The slot that issues: the supervisor thread whenever it is ready. -/
def pickSlot (s : State) (core : Nat) : Option Nat :=
  if (s.thread (threadKey core 4)).status = .ready then some 4
  else (roundRobin (s.coreAt core).lastUser).find? (fun k => mayIssue s (threadKey core k))

/-- A user thread that issues is awaited no longer by a yield (06 R118). -/
def unyield (s : State) (core slot : Nat) : State :=
  (List.range 4).foldl (fun s k =>
    match (s.thread (threadKey core k)).status with
    | .yield u others =>
      s.modThread (threadKey core k) (fun t => { t with status := .yield u (others.filter (· != slot)) })
    | _ => s) s

/-- The chosen thread becomes the executing one. -/
def choose (s : State) (core slot : Nat) : State :=
  let s := if slot = 4 then s else (unyield s core slot).modCore core (fun c => { c with lastUser := slot })
  { s with cur := threadKey core slot, core := core }

/-! ## The word that issues -/

/-- The tile that a matrix instruction accumulates into. -/
def namedTile : Instr → Option (BitVec 3)
  | .mop d _ _ _ => some d
  | .mops d _ _ _ => some d
  | .mopn d _ _ _ => some d
  | .mwr d _ _ => some d
  | .mscale d _ => some d
  | .mrw d _ _ _ => some d
  | .mrx d _ _ _ => some d
  | .dmmac d _ _ => some d
  | _ => none

/-- Whether a replayed word names a tile that an uncorrectable error has struck (10 R219). -/
noncomputable def strikes (t : Thread) (w : BitVec 32) : Bool :=
  match decode w with
  | .ok i => (match namedTile i with
    | some d => t.mcheck.contains d.toNat
    | none => false)
  | .error _ => false

/-- A word decoded and run; a word that is no instruction is an instruction fault (03 R42). -/
noncomputable def runWord (s : State) (w : BitVec 32) : Move :=
  let s := { s with word := w }
  match decode w with
  | .ok i => .run i s
  | .error _ => .done (instrFault s 0x10)

/-- What the executing thread issues: the instruction it replays, a word or an edge of its open loop, or the word at
its PC. -/
noncomputable def issue (s : State) : Move :=
  let t := s.me
  match t.replay with
  | some r => if strikes t r.word then .done (.next s.retire) else runWord s r.word
  | none =>
    match t.vec.loop with
    | some l =>
      match loopEdge s l with
      | some s' => .done (.next s')
      | none => runWord s (l.body.getD l.next 0)
    | none =>
      match fetchWord s s.cur t.pc with
      | .ok w => runWord s w
      | .error e => .done (stopAt { s with word := 0 } e)

/-- A core's turn. A core whose island is off does nothing. -/
noncomputable def coreTurn (s : State) (core : Nat) : Move :=
  if !(s.island (core / 4)).on then .done (.next s)
  else
    let s := wakeCore s core
    match pickSlot s core with
    | none => .done (.next { s with core := core })
    | some slot => issue (choose s core slot)

/-! ## The agenda (log entry 5) -/

/-- The outside writes its own memory. -/
def outsideWrite (s : State) (kind : StoreKind) (pa : Nat) : List Byte → State
  | [] => s
  | b :: r =>
    let who : Agent := if tierOf pa = some 3 then .peer (peerPort pa) else .host
    outsideWrite (if outsidePa pa then s.record who kind none pa b else s) kind (pa + 1) r

/-- A peer's own arrival at a barrier in its window, where threads of this package may arrive too: it counts toward an
advance as theirs do (18 R305). -/
def outsideArrival (s : State) (pa n : Nat) : State :=
  if tierOf pa = some 3 then
    (barrierWrites ((span pa 10).map s.home) n).foldl (fun s w => outsideWrite s .counted (pa + w.1) w.2) s
  else s

/-- Pending bytes of a thread, running or saved, or sends under the key of an ended task, reach their homes before a
boundary asks for it (17 R287, R296); an access to a function that is not ready waits (23 R347). -/
def arriveEarly (s : State) (key : Nat) (pas : List Nat) : State :=
  let pas := pas.filter (fun pa => !(s.waitsAt pa))
  if key < 2048 then s.settle key pas
  else match s.savedThreads.find? (fun t => t.alias_ == key) with
    | some t => withSaved s t (fun s => s.settle key pas)
    | none => s.performSends key pas

/-- An event that a frozen package takes (19 R328). -/
def thaws : Instr → Bool
  | .debugResume => true
  | .debugReset => true
  | .packageReset => true
  | _ => false

/-- One turn. While the package is frozen time stands still and only a reset or a resume acts in it. -/
noncomputable def takeTurn (s : State) (t : Turn) : Move :=
  match t with
  | .core c ns => if s.frozen || 256 ≤ c then .done (.next s) else coreTurn (tick ns s) c
  | .event i ns =>
    if encode i ≠ none then .done (.fault .noSuchAgent)
    else if s.frozen && !(thaws i) then .done (.next s)
    else .run i (if s.frozen then s else tick ns s)
  | .outside pa data ns => .done (.next (outsideWrite (if s.frozen then s else tick ns s) .posted pa data))
  | .arrival pa n ns => .done (.next (outsideArrival (if s.frozen then s else tick ns s) pa n))
  | .early key pas ns => .done (.next (if s.frozen then s else arriveEarly (tick ns s) key pas))
  | .links errs poison ns =>
    .done (.next { (if s.frozen then s else tick ns s) with hostErr := errs, hostPoison := poison })

/-- The next turn: the first of the agenda, or, when it is empty, that of the core that moved last. -/
noncomputable def turn (s : State) : Move :=
  match s.agenda with
  | [] => takeTurn s (.core s.core (Config.stepNs s.fresh))
  | t :: r => takeTurn { s with agenda := r } t

/-! ## A word placed where the next step fetches (log entry 3) -/

/-- Bytes put at homes, as if they had always stood there. -/
def plant (s : State) (pa : Nat) : List Byte → State
  | [] => s
  | b :: r => plant { s with mem := cellSet resetByte s.mem pa b, hist := s.hist.filter (fun e => e.pa != pa) } (pa + 1) r

/-- A supervisor thread about to fetch at the start of the root's resident code. -/
def atResident (t : Thread) : Thread :=
  { t with pc := 0x20000, ctx := 0, status := .ready, replay := none, vec := { t.vec with loop := none } }

/-- A word stands where the present core's supervisor thread fetches next, of memory that is ready. -/
def placeWord (s : State) (w : BitVec 32) : State :=
  let s := plant s stagingBase (bytesOfWord w)
  let s := s.modThread (threadKey s.core 4) atResident
  { s with agenda := [], frozen := false
           mgmt := { s.mgmt with ready := setBit s.mgmt.ready 1, failed := clearBit s.mgmt.failed 1 } }

end Sys2Proof.Machine
end

