-- ==== Sys2Proof/Machine/Step.lean ====
section
/-! DEFINITION. One step of the machine, and the placing of a word for it to fetch. -/

namespace Sys2Proof.Machine

/-- The next turn taken: an instruction or an event runs by `exec`, and everything else is what the turn comes to. -/
noncomputable def step (s : State) : Host.Outcome State Fault Refusal :=
  match turn s with
  | .done o => o
  | .run i t => exec i t

/-- The state with an instruction where the next step fetches; the machine has no instruction longer than a word. -/
def State.withFetchWord (s : State) (nbits w : Nat) : State :=
  placeWord s (BitVec.ofNat 32 (w % 2 ^ min nbits 32))

end Sys2Proof.Machine
end

