-- ==== Sys2Proof/Safety.lean ====
section
/-! DEFINITION. What counts as a safe state and a safe step, in the terms the claims use. -/

namespace Sys2Proof.Machine

/-- A step that neither faults nor is refused. -/
def Out.goesOn (o : Out) : Prop := ∃ t, o = .next t

/-- Every thread that the state lists satisfies a property. -/
def State.allThreads (s : State) (P : Thread → Prop) : Prop := ∀ key, P (s.thread key)

/-- The bounds that the manual gives a core's lists: 256 pending entries and 8 suspended handlers (19 R315). -/
def Core.bounded (c : Core) : Prop := c.pending.length ≤ 256 ∧ c.stack.length ≤ 8

def State.coresBounded (s : State) : Prop := ∀ core, (s.coreAt core).bounded

/-- An island's clock is a multiple of 100 MHz from 600 to 2,400 (05 R76). -/
def Island.legal (i : Island) : Prop := 600 ≤ i.mhz ∧ i.mhz ≤ 2400 ∧ i.mhz % 100 = 0

def State.islandsLegal (s : State) : Prop := ∀ n, (s.island n).legal

/-- A throttle's level is at most 7, and an allowance it gives is at least 1 (05 R92). -/
def Throttle.legal (t : Throttle) : Prop := t.level ≤ 7 ∧ ∀ a, t.allowance = some a → 1 ≤ a

/-- The memory is in its canonical form. -/
def State.memOk (s : State) : Prop := Memory.wf s.mem = true

end Sys2Proof.Machine
end

