-- ==== Sys2Proof/Certificates/Slice0/Obligations.lean ====
section
/-! DEFINITION. The statements for the provers. Each names the rules of the manual that it formalises; the helper
definitions before a statement write the rules' results out, in arithmetic where the machine computes on bits. -/

namespace Sys2Proof.Claims

open Sys2Proof.Machine

/-! ## What a step leaves alone -/

/-- Everything of the package but the executing thread stands as it was. -/
def OnlyMe (s t : State) : Prop :=
  t = { s with threads := t.threads } ∧ ∀ k, k ≠ s.cur → t.thread k = s.thread k

/-- `t` follows `s` by an instruction that wrote `v` to scalar register `d` and went on: every other physical register,
and everything else of the thread and of the package, stands but for the place in the program and the count of retired
instructions, which move as `Thread.retire` says (06 R93; 03 R27, R29). -/
def Wrote (s t : State) (d : BitVec 7) (v : Word) : Prop :=
  OnlyMe s t ∧ t.me = { s.me.retire with regs := t.me.regs } ∧
  t.rd d = (if d = 0 then 0 else v) ∧
  ∀ p, (d = 0 ∨ p ≠ s.me.regIndex d) → Map.getD p 0 t.me.regs = Map.getD p 0 s.me.regs

/-- The same from a state `u` that an instruction has reached before its result is written: `u` itself says what it did
beyond the result. -/
def Answers (o : Out) (u : State) (d : BitVec 7) (v : Word) : Prop := ∃ t, o = .next t ∧ Wrote u t d v

/-- `t` follows `s` by an instruction that went on and changed nothing else. -/
def WentOn (o : Out) (s : State) : Prop := ∃ t, o = .next t ∧ OnlyMe s t ∧ t.me = s.me.retire

/-- The executing thread is a user thread. -/
def User (s : State) : Prop := isSupervisor s.cur = false

/-- The executing thread is a supervisor thread. -/
def Sup (s : State) : Prop := isSupervisor s.cur = true

/-- The executing thread is the supervisor thread of the root (03 R40). -/
def Root (s : State) : Prop := Sup s ∧ s.me.ctx = 0

/-- A trap of the executing thread at its instruction, with a cause and an address, which changes nothing before it. -/
def Traps (o : Out) (s : State) (cause : Nat) (va : Option Word) : Prop := o = .next (trapAt s cause va 0 none)

/-! ## Scalar results (06 R100 to R106) -/

/-- A number as a register. -/
def ofN (n : Nat) : Word := BitVec.ofNat 64 n
def ofI (n : Int) : Word := BitVec.ofInt 64 n
def ofB (b : Bool) : Word := if b then 1 else 0

/-- A shift amount: the low six bits. -/
def amount (x : Word) : Nat := x.toNat % 64

/-- A rotation right by k places, as arithmetic. -/
def rotated (x : Word) (k : Nat) : Word := ofN (x.toNat / 2 ^ k + x.toNat * 2 ^ (64 - k))

/-- The results of the register forms: of two registers, and for the forms that read it of the destination's old
value. -/
def scalarRR (s : State) : Instr → Option (BitVec 7 × Word)
  | .add d a b => some (d, ofN ((s.rd a).toNat + (s.rd b).toNat))
  | .sub d a b => some (d, ofI ((s.rd a).toInt - (s.rd b).toInt))
  | .and d a b => some (d, s.rd a &&& s.rd b)
  | .or d a b => some (d, s.rd a ||| s.rd b)
  | .xor d a b => some (d, s.rd a ^^^ s.rd b)
  | .andn d a b => some (d, s.rd a &&& ~~~(s.rd b))
  | .orn d a b => some (d, s.rd a ||| ~~~(s.rd b))
  | .xnor d a b => some (d, ~~~(s.rd a ^^^ s.rd b))
  | .sll d a b => some (d, ofN ((s.rd a).toNat * 2 ^ amount (s.rd b)))
  | .srl d a b => some (d, ofN ((s.rd a).toNat / 2 ^ amount (s.rd b)))
  | .sra d a b => some (d, ofI ((s.rd a).toInt / 2 ^ amount (s.rd b)))
  | .ror d a b => some (d, rotated (s.rd a) (amount (s.rd b)))
  | .min d a b => some (d, ofI (min (s.rd a).toInt (s.rd b).toInt))
  | .max d a b => some (d, ofI (max (s.rd a).toInt (s.rd b).toInt))
  | .minn d a b => some (d, ofN (min (s.rd a).toNat (s.rd b).toNat))
  | .maxn d a b => some (d, ofN (max (s.rd a).toNat (s.rd b).toNat))
  | .seq d a b => some (d, ofB ((s.rd a).toNat == (s.rd b).toNat))
  | .sne d a b => some (d, ofB ((s.rd a).toNat != (s.rd b).toNat))
  | .slt d a b => some (d, ofB ((s.rd a).toInt < (s.rd b).toInt))
  | .sge d a b => some (d, ofB ((s.rd b).toInt ≤ (s.rd a).toInt))
  | .sltn d a b => some (d, ofB ((s.rd a).toNat < (s.rd b).toNat))
  | .sgen d a b => some (d, ofB ((s.rd b).toNat ≤ (s.rd a).toNat))
  | .mul d a b => some (d, ofI ((s.rd a).toInt * (s.rd b).toInt))
  | .mulh d a b => some (d, ofI ((s.rd a).toInt * (s.rd b).toInt / 2 ^ 64))
  | .mulhn d a b => some (d, ofN ((s.rd a).toNat * (s.rd b).toNat / 2 ^ 64))
  | .div d a b => some (d, if s.rd b = 0 then -1 else ofI ((s.rd a).toInt.tdiv (s.rd b).toInt))
  | .divn d a b => some (d, if s.rd b = 0 then -1 else ofN ((s.rd a).toNat / (s.rd b).toNat))
  | .rem d a b => some (d, if s.rd b = 0 then s.rd a else ofI ((s.rd a).toInt.tmod (s.rd b).toInt))
  | .remn d a b => some (d, if s.rd b = 0 then s.rd a else ofN ((s.rd a).toNat % (s.rd b).toNat))
  | .seln d a b => some (d, if s.rd b = 0 then s.rd d else s.rd a)
  | .selz d a b => some (d, if s.rd b = 0 then s.rd a else s.rd d)
  | .adds d a b k => some (d, ofN ((s.rd a).toNat + (s.rd b).toNat * 2 ^ k.toNat))
  | .madd d a b => some (d, ofI ((s.rd d).toInt + (s.rd a).toInt * (s.rd b).toInt))
  | .msub d a b => some (d, ofI ((s.rd d).toInt - (s.rd a).toInt * (s.rd b).toInt))
  | _ => none

/-- The results of the immediate forms and the constants. -/
def scalarImm (s : State) : Instr → Option (BitVec 7 × Word)
  | .addi d a i => some (d, ofI ((s.rd a).toInt + i.toInt))
  | .andi d a i => some (d, s.rd a &&& ofI i.toInt)
  | .ori d a i => some (d, s.rd a ||| ofI i.toInt)
  | .xori d a i => some (d, s.rd a ^^^ ofI i.toInt)
  | .slli d a k => some (d, ofN ((s.rd a).toNat * 2 ^ k.toNat))
  | .srli d a k => some (d, ofN ((s.rd a).toNat / 2 ^ k.toNat))
  | .srai d a k => some (d, ofI ((s.rd a).toInt / 2 ^ k.toNat))
  | .rori d a k => some (d, rotated (s.rd a) k.toNat)
  | .seqi d a i => some (d, ofB ((s.rd a).toInt == i.toInt))
  | .snei d a i => some (d, ofB ((s.rd a).toInt != i.toInt))
  | .slti d a i => some (d, ofB ((s.rd a).toInt < i.toInt))
  | .sgei d a i => some (d, ofB (i.toInt ≤ (s.rd a).toInt))
  | .sltni d a i => some (d, ofB ((s.rd a).toNat < (ofI i.toInt).toNat))
  | .sgeni d a i => some (d, ofB ((ofI i.toInt).toNat ≤ (s.rd a).toNat))
  | .lhi d i => some (d, ofI (i.toInt * 1024))
  | .lpc d i => some (d, ofI (((s.me.curPc.toNat / 1024 * 1024 : Nat) : Int) + i.toInt * 1024))
  | .lix d i => some (d, ofN ((s.rd d).toNat * 2 ^ 18 + i.toNat))
  | _ => none

/-- The bits of a register that are set, in ascending order. -/
def setBitsOf (x : Word) : List Nat := (List.range 64).filter x.getLsbD

/-- The results of the bit operations, by the places of the set bits. -/
def scalarBits (s : State) : Instr → Option (BitVec 7 × Word)
  | .clz d a => some (d, ofN (((setBitsOf (s.rd a)).getLast?.map (63 - ·)).getD 64))
  | .ctz d a => some (d, ofN ((setBitsOf (s.rd a)).head?.getD 64))
  | .popc d a => some (d, ofN (setBitsOf (s.rd a)).length)
  | .brev d a => some (d, ofN ((setBitsOf (s.rd a)).map (fun i => 2 ^ (63 - i))).sum)
  | .bswap d a => some (d, ofN ((List.range 8).map (fun i => (s.rd a).toNat / 256 ^ i % 256 * 256 ^ (7 - i))).sum)
  | .sxb d a => some (d, ofI ((s.rd a).setWidth 8).toInt)
  | .sxh d a => some (d, ofI ((s.rd a).setWidth 16).toInt)
  | .sxw d a => some (d, ofI ((s.rd a).setWidth 32).toInt)
  | _ => none

/-! ## Branches and jumps (06 R107) -/

/-- The target of a displacement. -/
def target (s : State) (k : Int) : Word := s.me.curPc + ofI (4 * k)

/-- The condition and the displacement of a branch that every thread may execute. -/
def branchOf (s : State) : Instr → Option (Bool × Int)
  | .j k => some (true, k.toInt)
  | .beqz a k => some ((s.rd a).toInt == 0, k.toInt)
  | .bnez a k => some ((s.rd a).toInt != 0, k.toInt)
  | .bltz a k => some ((s.rd a).toInt < 0, k.toInt)
  | .bgez a k => some (0 ≤ (s.rd a).toInt, k.toInt)
  | .bgtz a k => some (0 < (s.rd a).toInt, k.toInt)
  | .blez a k => some ((s.rd a).toInt ≤ 0, k.toInt)
  | _ => none

/-- What a scalar read leaves that depends on what some effects change: the older instructions that have one of them have
finished, and none of their flags is in flight any longer (06 R99, 07 R133). -/
def waitedFor (s : State) (l : List Effect) : State :=
  s.setMe { s.me with flights := s.me.flights.filter (fun f => f.can.all (fun c => !(l.contains c))) }

/-- What a scalar read of AL leaves. -/
def lengthRead (s : State) : State := waitedFor s [.length]

/-- What a branch has waited for. -/
def branchFrom (s : State) : Instr → State
  | .btrim _ => lengthRead s
  | .bdone _ => lengthRead s
  | _ => s

/-- The two branches of user threads. -/
def userBranchOf (s : State) : Instr → Option (Bool × Int)
  | .btrim k => some (s.me.vec.al < s.me.vec.vl, k.toInt)
  | .bdone k => some (s.me.vec.itx, k.toInt)
  | _ => none

/-- `t` follows `s` by a jump: only the PC and the count of retired instructions move. -/
def Jumped (s t : State) (pc : Word) : Prop :=
  OnlyMe s t ∧ t.me = { s.me with pc := pc, cnt := { s.me.cnt with retired := (s.me.cnt.retired + 1) % 2 ^ 64 } }

/-- A jump with a link. -/
def Linked (s t : State) (d : BitVec 7) (pc : Word) : Prop := Jumped (s.wr d (s.me.curPc + 4)) t pc

end Sys2Proof.Claims

open Sys2Proof Sys2Proof.Machine Sys2Proof.Claims

/-! ## Scalar instructions -/

/-- 06 R100 to R106: every scalar integer instruction goes on with the result that the rules give, and changes nothing
else. 03 R27, R29: a register written reads back, g0 reads 0 whatever is written, and a write changes no other register,
inside the window or outside it. -/
def Obligations.ScalarIntegerResults : Prop :=
  (∀ (i : Instr) (s : State) (d : BitVec 7) (v : Word),
    (scalarRR s i = some (d, v) ∨ scalarImm s i = some (d, v) ∨ scalarBits s i = some (d, v)) →
    Answers (exec i s) s d v) ∧
  ∀ (t : Thread) (d n : BitVec 7) (v : Word),
    (t.wr d v).rd n = (if n = 0 then 0 else if n = d then v else t.rd n) ∧
    ∀ p, (d = 0 ∨ p ≠ (if d.toNat < 16 then d.toNat else d.toNat + t.wb)) →
      Map.getD p 0 (t.wr d v).regs = Map.getD p 0 t.regs

/-- 06 R107, R108; 07 R133: a branch jumps exactly when its condition holds, and falls through otherwise; `btrim` and
`bdone` wait for what can change AL or ITX. The jumps that link or go to a register's value do so; a target that is no
multiple of 4 traps with cause 0x03, and neither the link nor the PC is written. -/
def Obligations.BranchesAndJumps : Prop :=
  (∀ (i : Instr) (s : State) (c : Bool) (k : Int),
    (branchOf s i = some (c, k) ∨ (User s ∧ userBranchOf s i = some (c, k))) →
    (if c then ∃ t, exec i s = .next t ∧ Jumped (branchFrom s i) t (target s k)
     else WentOn (exec i s) (branchFrom s i))) ∧
  ∀ (s : State) (d a : BitVec 7) (k : BitVec 25),
    (∃ t, exec (.jal k) s = .next t ∧ Linked s t 15 (target s k.toInt)) ∧
    ((s.rd a).toNat % 4 = 0 →
      (∃ t, exec (.jr a) s = .next t ∧ Jumped s t (s.rd a)) ∧
      (∃ t, exec (.jalr d a) s = .next t ∧ Linked s t d (s.rd a))) ∧
    ((s.rd a).toNat % 4 ≠ 0 → Traps (exec (.jr a) s) s 3 (some (s.rd a)) ∧ Traps (exec (.jalr d a) s) s 3 (some (s.rd a)))

namespace Sys2Proof.Claims

open Sys2Proof.Machine

/-! ## The window, hints and coordinates (06 R96, R117 to R119) -/

/-- `t` follows `s` by an instruction that changed the executing thread alone, as `f` says, and went on. -/
def ChangedMe (o : Out) (s : State) (f : Thread → Thread) : Prop :=
  ∃ t, o = .next t ∧ OnlyMe s t ∧ t.me = f s.me.retire

/-- The window base that a form asks for. -/
def windowOf (s : State) : Instr → Option Int
  | .winb n => some ((s.me.wb : Int) + 16 * n.toInt)
  | .winba n => some (16 * (n.toNat : Int))
  | _ => none

/-- Window bases that WB may hold. -/
def legalWb (x : Int) : Prop := 0 ≤ x ∧ x ≤ 384 ∧ x % 16 = 0

/-- A hint that changes nothing but timing. -/
def idleHint : Instr → Bool
  | .hintPrefi _ => true
  | .cachePref _ => true
  | _ => false

/-- The coordinates of a task. -/
def taskCoord (k : Task) : Nat → Option Word
  | 0 => some (ofN (k.k % k.tasks))
  | 1 => some (ofN k.crew)
  | 2 => some k.handle
  | 3 => some (ofN (k.k / k.tasks))
  | _ => none

/-- The coordinates of any thread. -/
def placeCoord (s : State) : Nat → Option Word
  | 4 => some (ofN (s.cur / 8))
  | 5 => some (ofN (s.cur / 8 / 4))
  | 6 => some (ofN (s.ctxAt s.me.ctx).depth)
  | _ => none

/-! ## Control registers (06 R97 to R99; 07 R120; 10 R205; 12 R251; 15 R274; 19 R313, R314; 23 R350) -/

/-- What a user thread's own registers read as. -/
def userCreg (t : Thread) : Nat → Option Word
  | 0x000 => some (ofN (t.vec.fmt + 32 * t.vec.flush + 128 * t.vec.gran + 2048 * t.vec.decl))
  | 0x001 => some (ofN t.vec.vl)
  | 0x002 => some (ofN t.vec.al)
  | 0x003 => some (ofN t.vec.es)
  | 0x004 => some (ofN (t.vec.cause + 256 * b2n t.vec.freeze + 512 * b2n t.vec.itx + 1024 * b2n t.vec.more +
      2048 * b2n t.vec.starved))
  | 0x008 => some (ofN t.vec.maxvl)
  | 0x009 => some (match t.vec.loop with
      | none => 0
      | some l => ofN (l.len + 64 * (l.next % 32) + 2048 * b2n l.par + 4096))
  | 0x00A => some ((t.vec.loop.map (·.pc)).getD 0)
  | 0x062 => some (ofN (t.mx.k0 + 2 ^ 32 * t.mx.j0))
  | 0x063 => some t.mx.mref0
  | 0x064 => some t.mx.mref1
  | 0x070 => some (ofN t.itstat)
  | _ => none

/-- What the registers that every thread reads read as. -/
def anyCreg (s : State) : Nat → Option Word
  | 0x005 => some s.me.fpcr
  | 0x006 => some s.me.fpflags
  | 0x007 => some (ofN s.me.wb)
  | 0x010 => some (ofN (s.ctxAt s.me.ctx).id)
  | 0x011 => some (ofN (s.ctxAt s.me.ctx).depth)
  | 0x012 => some (ofN (s.ctxAt s.me.ctx).budget.keys.length)
  | 0x013 => some (ofN (s.ctxAt s.me.ctx).count)
  | 0x030 => some s.me.swz
  | 0x031 => some ((s.me.task.map (fun k => ofN (k.spad + 2 ^ 24 * k.rank + 2 ^ 32 * k.spBase))).getD 0)
  | 0x040 => some (laneMap s s.cur)
  | 0x050 => some (ofN (s.cycle (s.cur / 8)))
  | 0x051 => some (ofN s.ns)
  | 0x060 => some (s.ctxAt s.me.ctx).recbase
  | 0x061 => some (ofN (s.ctxAt s.me.ctx).budget.records)
  | _ => none

/-- What the supervisor registers read as, but for FQTAIL. -/
def supCreg (s : State) : Nat → Option Word
  | 0x020 => some ((s.ctxAt s.me.ctx).fqbase + ofN (s.ctxAt s.me.ctx).fqlog2)
  | 0x021 => some (ofN (s.ctxAt s.me.ctx).fqhead)
  | 0x023 => some (s.ctxAt s.me.ctx).deleg
  | 0x024 => some s.me.h.epc
  | 0x025 => some (ofN (s.me.h.cause + 2 ^ 62 * b2n s.me.h.remove + 2 ^ 63 * b2n s.me.h.keep))
  | 0x026 => some (s.ctxAt s.me.ctx).exitvec
  | 0x027 => some (s.ctxAt s.me.ctx).trapvec
  | 0x028 => some (ofN s.me.h.mstep)
  | 0x029 => some (ofB (s.ctxAt s.me.ctx).rev1)
  | 0x02A => some ((s.ctxAt s.me.ctx).imgbase + ofN (s.ctxAt s.me.ctx).imgcount)
  | _ => none

/-- What the root's registers read as. -/
def rootCreg (s : State) : Nat → Option Word
  | 0x044 => some (ofN (s.bwClass + 2 ^ 16 * Map.getD s.bwClass 16 s.bwWeights))
  | 0x052 => some (ofN s.mgmt.ready)
  | 0x053 => some (ofN s.mgmt.failed)
  | 0x054 => some (ofN s.peerSel)
  | 0x055 => some (ofN (2 ^ 16 * (s.port s.peerSel).inCount + 2 ^ 40 * (s.port s.peerSel).inBase))
  | _ => none

/-- The value with which a control register reads for the executing thread. -/
def cregReads (s : State) (n : Nat) (v : Word) : Prop :=
  anyCreg s n = some v ∨ (User s ∧ userCreg s.me n = some v) ∨ (Sup s ∧ supCreg s n = some v) ∨
  (Root s ∧ rootCreg s n = some v)

/-- A field of a register. -/
def field (x : Word) (lo n : Nat) : Nat := x.toNat / 2 ^ lo % 2 ^ n

/-- FPFLAGS written: where no flag of an older instruction is in flight, the written value; else that value and any of
the flags in flight, which may be in flight still (06 R99; log entry 15). -/
def flagsWritten (s : State) (x : Word) : State :=
  if s.me.flights = [] then s.setMe { s.me with fpflags := x }
  else (s.setMe { s.me with
    fpflags := x ||| (s.me.flights.foldl (fun a f => a ||| f.flags) 0 &&& Config.openWord s.fresh)
    flights := (s.me.flights.map (fun f => { f with flags := f.flags &&& Config.openWord s.fresh })).filter
      (fun f => f.flags != 0) }).bump

/-- What a read leaves: one of AL, ES, VSTAT, FPFLAGS or a matrix register has waited for the older instructions that can
change the register (06 R99, 07 R133), and one of FQTAIL acquires at scope p and takes the records it counts
(19 R313). -/
def afterRead (s : State) (n : Nat) : State :=
  if n = 0x022 then s.acquireWith s.cur 2 (s.ctxAt s.me.ctx).fqstores
  else if n = 0x002 then waitedFor s [.length]
  else if n = 0x003 then waitedFor s [.steps]
  else if n = 0x004 then waitedFor s [.status]
  else if n = 0x062 ∨ n = 0x063 ∨ n = 0x064 then waitedFor s [.mx]
  else if n = 0x006 then s.setMe { s.me with flights := [] } else s

/-- What a write of `x` makes of the state, where the executing thread may make it and `x` keeps the register's limits:
the registers of every thread and of user threads. -/
def threadCwr (s : State) (x : Word) : Nat → Option State
  | 0x005 => if field x 0 3 ≤ 4 ∧ field x 3 5 = 0 ∧ field x 13 51 = 0 then some (s.setMe { s.me with fpcr := x }) else none
  | 0x006 => if x.toNat < 32 then some (flagsWritten s x) else none
  | 0x007 => if x.toNat ≤ 384 ∧ x.toNat % 16 = 0 then some (s.setMe { s.me with wb := x.toNat }) else none
  | 0x030 =>
    if field x 29 35 = 0 ∧ field x 26 3 ≤ 5 ∧ field x 13 13 ≤ field x 0 13 then some (s.setMe { s.me with swz := x })
    else none
  | _ => none

/-- The matrix registers, which user threads write. -/
def userCwr (s : State) (x : Word) : Nat → Option State
  | 0x062 =>
    if field x 21 11 = 0 ∧ field x 32 7 = 0 ∧ field x 52 12 = 0 ∧ field x 0 21 ≤ 1048576 then
      some (s.setMe { s.me with mx := { s.me.mx with k0 := field x 0 21, j0 := field x 32 20 } })
    else none
  | 0x063 => some (s.setMe { s.me with mx := { s.me.mx with mref0 := x } })
  | 0x064 => some (s.setMe { s.me with mx := { s.me.mx with mref1 := x } })
  | _ => none

/-- The supervisor registers: the handler's own, and those of its context. -/
def supCwr (s : State) (x : Word) : Nat → Option State
  | 0x021 =>
    let c := s.ctxAt s.me.ctx
    if x.toNat < 2 ^ 32 ∧ (c.fqtail + 2 ^ 32 - x.toNat) % 2 ^ 32 ≤ c.fqsize then
      some (s.setCtx { c with fqhead := x.toNat })
    else none
  | 0x024 => if x.toNat % 4 = 0 then some (s.setMe { s.me with h := { s.me.h with epc := x } }) else none
  | 0x025 =>
    if field x 8 54 = 0 ∧ field x 62 2 ≠ 3 then
      some (s.setMe { s.me with h := { s.me.h with keep := x.getLsbD 63, remove := x.getLsbD 62 } })
    else none
  | 0x026 => if x.toNat % 4 = 0 then some (s.modCtx s.me.ctx (fun c => { c with exitvec := x })) else none
  | 0x027 => if x.toNat % 4 = 0 then some (s.modCtx s.me.ctx (fun c => { c with trapvec := x })) else none
  | 0x028 =>
    if x.toNat = 0 ∨ (x.toNat < 2 ^ 16 ∧ x.toNat < (s.me.h.served.map (·.steps)).getD 0) then
      some (s.setMe { s.me with h := { s.me.h with mstep := x.toNat } })
    else none
  | 0x029 =>
    if x.toNat = 0 ∨ (x.toNat = 1 ∧ bitAt s.mgmt.accepted 1) then
      some (s.modCtx s.me.ctx (fun c => { c with rev1 := x.toNat == 1 }))
    else none
  | 0x02A =>
    if field x 16 7 = 0 then
      some (s.modCtx s.me.ctx (fun c => { c with imgbase := x &&& ~~~0x7FFFFF#64, imgcount := field x 0 16 }))
    else none
  | 0x060 => if x.toNat % 64 = 0 then some (s.modCtx s.me.ctx (fun c => { c with recbase := x })) else none
  | _ => none

/-- The root's registers. -/
def rootCwr (s : State) (x : Word) : Nat → Option State
  | 0x020 =>
    if field x 5 7 = 0 ∧ (x = 0 ∨ (6 ≤ field x 0 5 ∧ field x 0 5 ≤ 16)) then
      some (s.modCtx 0 (fun c =>
        { c with fqbase := x &&& ~~~0xFFF#64, fqlog2 := field x 0 5, fqhead := 0, fqtail := 0, fqstores := [] }))
    else none
  | 0x044 =>
    if field x 6 10 = 0 ∧ field x 27 37 = 0 then
      some { s with bwClass := field x 0 6, bwWeights := Map.put (field x 0 6) (min (field x 16 11) 1024) s.bwWeights }
    else none
  | 0x054 => if x.toNat < 16 then some { s with peerSel := x.toNat } else none
  | 0x055 =>
    if field x 0 16 = 0 then
      some (s.setPort s.peerSel { s.port s.peerSel with inBase := field x 40 24, inCount := field x 16 24 })
    else none
  | _ => none

/-- A write that the executing thread may make. -/
def cregWrites (s : State) (n : Nat) (x : Word) (u : State) : Prop :=
  threadCwr s x n = some u ∨ (User s ∧ userCwr s x n = some u) ∨ (Sup s ∧ supCwr s x n = some u) ∨
  (Root s ∧ rootCwr s x n = some u)

/-- The registers that only user threads have. -/
def userRegs : List Nat := [0, 1, 2, 3, 4, 8, 9, 0xA, 0x62, 0x63, 0x64, 0x70]

/-- The supervisor registers, and the root's. -/
def supRegs : List Nat := [0x20, 0x21, 0x22, 0x23, 0x24, 0x25, 0x26, 0x27, 0x28, 0x29, 0x2A]
def rootRegs : List Nat := [0x44, 0x52, 0x53, 0x54, 0x55]

/-- The user registers that no instruction writes. -/
def userReadOnly : List Nat := [0, 1, 2, 3, 4, 8, 9, 0xA, 0x70]

/-- The registers with limits that every thread, user threads, supervisor threads and the root write. -/
def threadWritten : List Nat := [5, 6, 7, 0x30]
def userWritten : List Nat := [0x62, 0x63, 0x64]
def supWritten : List Nat := [0x21, 0x24, 0x25, 0x26, 0x27, 0x28, 0x29, 0x2A, 0x60]
def rootWritten : List Nat := [0x20, 0x44, 0x54, 0x55]

/-- The assigned numbers (03 R46). -/
def assignedRegs : List Nat :=
  userRegs ++ supRegs ++ rootRegs ++ [5, 6, 7, 0x10, 0x11, 0x12, 0x13, 0x30, 0x31, 0x40, 0x50, 0x51, 0x60, 0x61]

/-- The registers that `cwr` never writes, the user registers among them apart. -/
def readOnlyRegs : List Nat := [0x10, 0x11, 0x12, 0x13, 0x22, 0x23, 0x31, 0x40, 0x50, 0x51, 0x52, 0x53, 0x61]

/-! ## Calls, handlers and the supervisor's instructions -/

/-- What a call instruction traps with: cause and immediate. -/
def callOf : Instr → Option (Nat × Nat)
  | .svc n => some (0x30, n.toNat)
  | .ebreak n => some (0x32, n.toNat)
  | _ => none

/-- The trap that a call takes: VA is g16, and the resume PC follows the instruction (19 R316). -/
def callTrap (s : State) (cause n : Nat) : TrapInfo :=
  { cause := cause, va := some (s.rd 16), elem := n, hints := [], map := none, pcres := true, pc := s.me.curPc,
    resume := s.me.curPc + 4 }

/-- The instructions of supervisor threads. -/
def supervisorOnly : Instr → Bool
  | .eret => true
  | .probec _ _ _ => true
  | .frel _ => true
  | .fdele _ _ => true
  | .tlbinv _ _ _ => true
  | .tlbinvc _ _ => true
  | .pgmig _ _ _ => true
  | .ctxmk _ _ => true
  | .ctxdestroy _ => true
  | .ctxgrant _ _ _ => true
  | .ctxrevoke _ _ _ => true
  | .ctxrun _ => true
  | .ctxstop _ => true
  | .ctxq _ _ _ => true
  | .islon _ => true
  | .isloff _ => true
  | .islfreq _ _ => true
  | .featq _ _ => true
  | .featset _ _ => true
  | .cntset _ _ => true
  | .freeze => true
  | _ => false

/-- The instructions of user threads: vector, matrix, iterator, record, copy and ring instructions, and the end of a
task (03 R33 to R39, Thread column). -/
def userOnlyInstr : Instr → Bool
  | .btrim .. | .bdone .. | .exit .. | .abort .. | .vacq .. | .racqr .. | .rrelr .. | .racqw .. | .rrelw ..
  | .xcopy .. | .xquery .. | .xcancel .. | .setvl .. | .vdecl .. | .loop .. | .loopP .. | .bump .. | .vmv ..
  | .vsplat .. | .vext .. | .vins .. | .vperm .. | .vslup .. | .vsldn .. | .vrev .. | .vcompress .. | .vexpand ..
  | .viota .. | .vid .. | .vredadd .. | .vredmin .. | .vredmax .. | .vredminn .. | .vredand .. | .vredor ..
  | .vredxor .. | .vredmaxn .. | .vfredsum .. | .vfredseq .. | .vfredmin .. | .vfredmax .. | .mand .. | .mor ..
  | .mxor .. | .mnot .. | .mpopc .. | .mfirst .. | .mlast .. | .vretag .. | .vtagq .. | .vshape .. | .vsegsum ..
  | .vsegmin .. | .vsegmax .. | .vsegfsum .. | .vmaxvl .. | .vlanes .. | .vaddr .. | .vadd .. | .vaddX .. | .vsub ..
  | .vsubX .. | .vand .. | .vor .. | .vxor .. | .vandn .. | .vsll .. | .vsrl .. | .vsra .. | .vror .. | .vsllX ..
  | .vsrlX .. | .vsraX .. | .vrorX .. | .vmul .. | .vmulh .. | .vmulhn .. | .vmacc .. | .vmin .. | .vmax ..
  | .vminn .. | .vmaxn .. | .vaddsat .. | .vsubsat .. | .vaddsatn .. | .vsubsatn .. | .vseq .. | .vsne .. | .vslt ..
  | .vsltn .. | .vseqX .. | .vsneX .. | .vsltX .. | .vsltnX .. | .vdiv .. | .vdivn .. | .vrem .. | .vremn ..
  | .vabs .. | .vneg .. | .vclz .. | .vpopc .. | .vwiden .. | .vwidenn .. | .vnarrow .. | .vnarrowsat .. | .vmerge ..
  | .vmergeX .. | .vdot4 .. | .vdot4n .. | .vdot2 .. | .vmaccX .. | .vclamp .. | .vfadd .. | .vfaddX .. | .vfsub ..
  | .vfsubX .. | .vfmul .. | .vfmulX .. | .vfdiv .. | .vfdivX .. | .vfma .. | .vfms .. | .vfnma .. | .vfnms ..
  | .vfmaX .. | .vfmsX .. | .vfnmaX .. | .vfnmsX .. | .vfmin .. | .vfmax .. | .vfabs .. | .vfneg .. | .vfeq ..
  | .vflt .. | .vfle .. | .vfun .. | .vfeqX .. | .vfltX .. | .vfleX .. | .vfunX .. | .vfsqrt .. | .vfrsqrt ..
  | .vfrcp .. | .vfexp2 .. | .vflog2 .. | .vftanh .. | .vfsigm .. | .vfgelu .. | .vcvt .. | .vcvtfi .. | .vcvtif ..
  | .vcvtint .. | .vpack .. | .vunpack .. | .vcbdec .. | .vcbenc .. | .vfscale .. | .vfexpo .. | .vfmant ..
  | .vfclass .. | .vfdot2 .. | .vfdot4 .. | .vfclampX .. | .vfrelu .. | .vfwadd .. | .vfwmul .. | .vfwma ..
  | .vfsgnj .. | .vfsgnjn .. | .vfsgnjx .. | .vld .. | .vldNt .. | .vldBc .. | .vst .. | .vstNt .. | .vlds ..
  | .vsts .. | .vgather .. | .vgatherNt .. | .vscatter .. | .vscatterO .. | .vamoadd .. | .vamomin .. | .vamomax ..
  | .vamoswap .. | .vamoand .. | .vamoor .. | .vamoxor .. | .vamofadd .. | .tld .. | .tst .. | .vldsp .. | .vstsp ..
  | .vpref .. | .vprobe .. | .mld .. | .mldt .. | .vflush .. | .vinval .. | .qld .. | .qmk .. | .qdrop .. | .qwin ..
  | .dvlds2 .. | .dvred .. | .dmmac .. | .dcopy .. | .mop .. | .mops .. | .mopn .. | .mrw .. | .mrx .. | .mzero ..
  | .mrd .. | .mwr .. | .mscale .. | .mplane .. | .munplane .. | .itopen .. | .itclose .. | .next .. | .next2 ..
  | .enough .. | .itsave .. => true
  | _ => false

/-- The instructions that only the root's supervisor thread executes. -/
def rootOnlyInstr : Instr → Bool
  | .featq .. | .featset .. | .cntset .. | .freeze => true
  | _ => false

/-- The island instructions (05 R73). -/
def islandInstr : Instr → Bool
  | .islon .. | .isloff .. | .islfreq .. => true
  | _ => false

/-- The deprecated instructions (19 R326). -/
def deprecated : Instr → Bool
  | .dvlds2 .. | .dvred .. | .dmmac .. | .dcopy .. => true
  | _ => false

end Sys2Proof.Claims

/-- 06 R96, R117, R118: the window moves to a legal base, and any other base is an encoding fault that moves nothing; a
prefetch changes nothing; a pause is not ready until its cycles have passed; a yield until the other user threads that
were ready have each issued or stopped being ready, or 64 cycles, and on a supervisor thread it does nothing; the
coordinates of a task are a user thread's, and an encoding fault on a supervisor thread. -/
def Obligations.WindowHintsCoordinates : Prop :=
  (∀ (i : Instr) (s : State) (x : Int), windowOf s i = some x →
    (legalWb x → ChangedMe (exec i s) s (fun t => { t with wb := x.toNat })) ∧
    (¬ legalWb x → Traps (exec i s) s 0x10 none)) ∧
  (∀ (i : Instr) (s : State) (n : BitVec 16),
    (idleHint i = true → WentOn (exec i s) s) ∧
    ChangedMe (exec (.hintPause n) s) s (fun t => { t with status := .pause (s.cycle (s.cur / 8) + n.toNat) }) ∧
    (Sup s → WentOn (exec .hintYield s) s) ∧
    (User s → ∃ l, ChangedMe (exec .hintYield s) s (fun t => { t with status := .yield (s.cycle (s.cur / 8) + 64) l }) ∧
      ∀ k, k ∈ l ↔ k < 4 ∧ k ≠ s.cur % 8 ∧ (s.thread (s.cur / 8 * 8 + k)).status = .ready)) ∧
  ∀ (s : State) (d : BitVec 7) (w : BitVec 3) (k : Task) (v : Word),
    (placeCoord s w.toNat = some v → Answers (exec (.coord d w) s) s d v) ∧
    (User s → s.me.task = some k → taskCoord k w.toNat = some v → Answers (exec (.coord d w) s) s d v) ∧
    (Sup s → w.toNat < 4 → Traps (exec (.coord d w) s) s 0x10 none)

/-- 06 R97 to R99; 19 R313: `crd` answers with the register's fields in their places, and a read of FQTAIL acquires at
scope p. `cwr` writes the register whole where its fields keep their limits, and `cxchg` reads as `crd` does, writes
after that, and answers with the old value in the register that its field names before the exchange. The events of the
register tables write and read alike and leave the PC. Which flags in flight a write of FPFLAGS takes is open (06 R99;
log entry 15). -/
def Obligations.ControlRegistersReadAndWritten : Prop :=
  (∀ (s : State) (d : BitVec 7) (c : BitVec 11) (v : Word),
    (cregReads s c.toNat v → Answers (exec (.crd d c) s) (afterRead s c.toNat) d v) ∧
    (Sup s → v = ofN ((s.ctxAt s.me.ctx).fqtail + 2 ^ 32 * (s.ctxAt s.me.ctx).dropped) →
      Answers (exec (.crd d 0x022) s) (afterRead s 0x022) d v ∧
      exec (.fqtailRead d) s = .next ((afterRead s 0x022).wr d v))) ∧
  (∀ (s u : State) (d a : BitVec 7) (c : BitVec 11) (v : Word),
    (cregWrites s c.toNat (s.rd a) u → exec (.cwr a c) s = .next u.retire) ∧
    (cregWrites (afterRead s c.toNat) c.toNat (s.rd a) u → cregReads s c.toNat v → exec (.cxchg d a c) s =
      .next (if d = 0 then u else u.setMe { u.me with regs := Map.put (s.me.regIndex d) v u.me.regs }).retire)) ∧
  ∀ (s u : State) (v : Word),
    (cregWrites s 0x020 v u → exec (.fqbaseWrite v) s = .next u) ∧
    (cregWrites s 0x021 v u → exec (.fqheadWrite v) s = .next u) ∧
    (cregWrites s 0x025 v u → exec (.ecauseWrite v) s = .next u) ∧
    (cregWrites s 0x006 v u → exec (.fpflagsWrite v) s = .next u) ∧
    (cregWrites s 0x044 v u → exec (.bwclsWrite v) s = .next u)

/-- Every form that writes a control register takes an exception and writes nothing. -/
def Sys2Proof.Claims.WriteTraps (s : State) (d a : BitVec 7) (c : BitVec 11) (cause : Nat) : Prop :=
  Traps (exec (.cwr a c) s) s cause none ∧ Traps (exec (.cxchg d a c) s) s cause none

/-- 03 R40, R42, R46; 05 R73; 06 R97, R98; 19 R314, R326: what a thread may not execute takes the exception that the
manual names and has no other effect: 0x11 for a supervisor instruction on a user thread and for the root's elsewhere,
0x10 for an instruction of user threads on a supervisor thread. A register of the other kind of thread is refused
alike, and one that is read only is never written, by `cwr` or by `cxchg`; only the root writes FQBASE. An unassigned
number, and a value outside its register's limits, are 0x10. An island instruction is the root's, or that of a context
that is hard-isolated. A deprecated instruction without its feature is an encoding fault. -/
def Obligations.PrivilegeChecked : Prop :=
  (∀ (i : Instr) (s : State),
    (User s → supervisorOnly i = true → Traps (exec i s) s 0x11 none) ∧
    (Sup s → s.me.ctx ≠ 0 → rootOnlyInstr i = true → Traps (exec i s) s 0x11 none) ∧
    (Sup s → userOnlyInstr i = true → Traps (exec i s) s 0x10 none) ∧
    (Sup s → s.me.ctx ≠ 0 → (s.ctxAt s.me.ctx).isol = false → islandInstr i = true → Traps (exec i s) s 0x11 none) ∧
    (deprecated i = true → bitAt (s.env s.cur).features 0 = false → Traps (exec i s) s 0x10 none)) ∧
  ∀ (s : State) (d a : BitVec 7) (c : BitVec 11),
    (Sup s → c.toNat ∈ userRegs → Traps (exec (.crd d c) s) s 0x10 none ∧ WriteTraps s d a c 0x10) ∧
    (User s → c.toNat ∈ supRegs → Traps (exec (.crd d c) s) s 0x11 none ∧ WriteTraps s d a c 0x11) ∧
    (¬ Root s → c.toNat ∈ rootRegs → Traps (exec (.crd d c) s) s 0x11 none ∧ WriteTraps s d a c 0x11) ∧
    (c.toNat ∈ readOnlyRegs → WriteTraps s d a c 0x11) ∧
    (User s → c.toNat ∈ userReadOnly → WriteTraps s d a c 0x11) ∧
    (¬ Root s → c.toNat = 0x020 → WriteTraps s d a c 0x11) ∧
    (User s → c.toNat = 0x060 → WriteTraps s d a c 0x11) ∧
    (c.toNat ∉ assignedRegs → Traps (exec (.crd d c) s) s 0x10 none ∧ WriteTraps s d a c 0x10) ∧
    ((c.toNat ∈ threadWritten ∧ threadCwr s (s.rd a) c.toNat = none) ∨
     (User s ∧ c.toNat ∈ userWritten ∧ userCwr s (s.rd a) c.toNat = none) ∨
     (Sup s ∧ c.toNat ∈ supWritten ∧ supCwr s (s.rd a) c.toNat = none) ∨
     (Root s ∧ c.toNat ∈ rootWritten ∧ rootCwr s (s.rd a) c.toNat = none) → WriteTraps s d a c 0x10)

/-- 19 R316; 25 R366: a call traps with its immediate, with g16 as VA and the instruction after it as the resume PC; an
upcall has the effect of `phase.p` first, which begins once the thread's older barrier markers have fired (17 R288). -/
def Obligations.CallsTrap : Prop :=
  ∀ (i : Instr) (s : State) (cause n : Nat) (k : BitVec 18),
    (callOf i = some (cause, n) → exec i s = .next (takeTrap s s.cur (callTrap s cause n))) ∧
    (s.me.markers ≠ [] → exec (.upcall k) s = .next s) ∧
    (s.me.markers = [] → exec (.upcall k) s =
      .next (takeTrap (s.phase s.cur 2) s.cur (callTrap (s.phase s.cur 2) 0x31 k.toNat)))

namespace Sys2Proof.Claims

open Sys2Proof.Machine

/-! ## Taking an exception (07 R127; 19 R307 to R318) -/

/-- The entry that a trap of a user thread holds: the trap's own fields, and where it came from. -/
def TrapEntry (s : State) (key : Nat) (i : TrapInfo) (e : Entry) : Prop :=
  e.resume = i.resume ∧ e.record.cause = i.cause ∧ e.record.kind = 1 ∧ e.record.elem = i.elem ∧ e.record.pc = i.pc ∧
  e.record.pcres = i.pcres ∧ e.record.hints = i.hints ∧ e.record.ctx = (s.thread key).ctx ∧ e.record.core = key / 8 ∧
  e.record.thread = key % 8 ∧ e.record.nested = false ∧ e.mstep = (s.thread key).mstep ∧
  e.steps = i.steps

/-- A thread's count of traps after one more. -/
def trapCount (c : Counters) : Counters := { c with traps := (c.traps + 1) % 2 ^ 64 }

/-- The place of byte `i` in a list. -/
def byteOf (l : List Byte) (i : Nat) : Byte := l.getD i 0

/-! ## Scalar memory (06 R109 to R114) -/

/-- Bytes moved by a width value. -/
def byteCount (w : Nat) : Nat := [1, 2, 4, 8].getD (w % 4) 0

/-- The destination, the address and the width of a load. -/
def loadOf (s : State) : Instr → Option (BitVec 7 × Word × Nat)
  | .ld d a w k => if w = 7 then none else some (d, s.rd a + ofI (k.toInt * byteCount w.toNat), w.toNat)
  | .ldx d a b w => if w = 7 then none else some (d, s.rd a + ofN ((s.rd b).toNat * byteCount w.toNat), w.toNat)
  | _ => none

/-- The source, the address and the width of a store. -/
def storeOf (s : State) : Instr → Option (BitVec 7 × Word × Nat)
  | .st d a w k => some (d, s.rd a + ofI (k.toInt * byteCount w.toNat), w.toNat)
  | .stx d a b w => some (d, s.rd a + ofN ((s.rd b).toNat * byteCount w.toNat), w.toNat)
  | _ => none

/-- A loaded value: widths 0 to 2 sign-extend, the others zero-extend. -/
def widened (w x : Nat) : Word :=
  match w with
  | 0 => ofI (BitVec.ofNat 8 x).toInt
  | 1 => ofI (BitVec.ofNat 16 x).toInt
  | 2 => ofI (BitVec.ofNat 32 x).toInt
  | _ => ofN x

/-- `t` follows `s` by a load of `v` into `d`: nothing else changes but what the thread has observed, its counts and,
under the strengthening mode, its snapshot and which lines the L1s have filled (17 R303). -/
def Loaded (s t : State) (d : BitVec 7) (v : Word) : Prop :=
  t = { s with threads := t.threads, cores := t.cores, fresh := t.fresh } ∧
  (∀ k, k ≠ s.cur → t.thread k = s.thread k) ∧
  (∀ c, t.coreAt c = { s.coreAt c with l1Fills := (t.coreAt c).l1Fills }) ∧
  (s.rev1 s.cur = false → t.cores = s.cores ∧ t.me.carry = s.me.carry) ∧
  t.me = { s.me.retire with regs := t.me.regs, cnt := t.me.cnt, seen := t.me.seen, snap := t.me.snap,
                            carry := t.me.carry, reload := t.me.reload } ∧
  t.rd d = (if d = 0 then 0 else v) ∧
  ∀ p, (d = 0 ∨ p ≠ s.me.regIndex d) → Map.getD p 0 t.me.regs = Map.getD p 0 s.me.regs

/-- The own atomic writes of the executing thread to some bytes that no plain load of it has read since (06 R112). -/
def ownAtomics (s : State) (pas : List Nat) : List Undo :=
  s.hist.filter (fun e => s.me.reload.contains e.time && pas.contains e.pa)

/-- What a plain read of some bytes does to the snapshot without the strengthening mode: it takes stores that performed
after an own atomic of the thread to the same byte, for the thread finds the atomic's result or a later value there (06
R112); one that follows no such atomic leaves the snapshot as it was. -/
def SnapTakes (s t : State) (pas : List Nat) : Prop :=
  (∀ x ∈ s.me.snap, x ∈ t.me.snap) ∧
  (∀ x ∈ t.me.snap, x ∈ s.me.snap ∨ ∃ e ∈ s.hist, ∃ m ∈ ownAtomics s pas, e.time = x ∧ e.pa = m.pa ∧ m.time < e.time) ∧
  (ownAtomics s pas = [] → t.me.snap = s.me.snap)

/-- Such a read of all of the bytes: the next one of a byte finds no own atomic to read again. -/
def RereadsAtomics (s t : State) (pas : List Nat) : Prop :=
  SnapTakes s t pas ∧ ∀ x, x ∈ t.me.reload ↔ x ∈ s.me.reload ∧ ∀ m ∈ ownAtomics s pas, m.time ≠ x

/-- `s` as the executing thread's plain reads see it with the snapshot of `t`. -/
def withSnap (s t : State) : State := s.setMe { s.me with snap := t.me.snap }

/-- The pending bytes that a store of the executing thread adds, youngest first: behind its unfired markers, and sends in
order under the strengthening mode. -/
def pended (s : State) (pas : List Nat) (bytes : List Byte) : List Pend :=
  ((pas.zip bytes).map (fun x =>
    { pa := x.1, val := x.2, whole := wholeIn pas x.1, behind := s.me.markers.length
      ordered := s.rev1 s.cur && uncachedPa x.1 })).reverse

/-- Everything of the package stands but the executing thread and, for the lines that it stores whole, their poison in
the L1s (10 R220). -/
def OnlyMeL1 (s t : State) : Prop :=
  t = { s with threads := t.threads, cores := t.cores } ∧ (∀ k, k ≠ s.cur → t.thread k = s.thread k) ∧
  ∀ c, t.coreAt c = { s.coreAt c with l1Poison := (t.coreAt c).l1Poison } ∧
    ∀ x ∈ (t.coreAt c).l1Poison, x ∈ (s.coreAt c).l1Poison

/-- `t` follows `s` by a store of `bytes` at `pas` that stays pending: the thread's own reads see it and nothing at the
homes has changed. Every other byte reads as before. -/
def Stored (s t : State) (pas : List Nat) (bytes : List Byte) : Prop :=
  OnlyMe s t ∧
  t.me = { s.me.retire with pend := pended s pas bytes ++ s.me.pend, cnt := t.me.cnt } ∧
  (∀ pa, pa ∉ pas → (t.viewByte s.cur pa).1 = (s.viewByte s.cur pa).1) ∧
  ∀ pa, t.home pa = s.home pa

/-- An atomic of the scalar side: destination, address register, bytes, whether a PCIe AtomicOp carries it, and the new
value from the old one. -/
structure Amo where
  d : BitVec 7
  a : BitVec 7
  size : Nat
  onHost : Bool
  op : Nat → Nat

/-- 64 bits as a signed number. -/
def signed64 (x : Nat) : Int := (ofN x).toInt

/-- The atomics of 64 bits and of 32. -/
def amoOf (s : State) : Instr → Option Amo
  | .amoadd d a b => some ⟨d, a, 8, true, fun o => (o + (s.rd b).toNat) % 2 ^ 64⟩
  | .amoswap d a b => some ⟨d, a, 8, true, fun _ => (s.rd b).toNat⟩
  | .amocas d a b => some ⟨d, a, 8, true, fun o => if o % 2 ^ 64 = (s.rd d).toNat then (s.rd b).toNat else o % 2 ^ 64⟩
  | .amoand d a b => some ⟨d, a, 8, false, fun o => (ofN o &&& s.rd b).toNat⟩
  | .amoor d a b => some ⟨d, a, 8, false, fun o => (ofN o ||| s.rd b).toNat⟩
  | .amoxor d a b => some ⟨d, a, 8, false, fun o => (ofN o ^^^ s.rd b).toNat⟩
  | .amomin d a b => some ⟨d, a, 8, false, fun o => (ofI (min (signed64 o) (s.rd b).toInt)).toNat⟩
  | .amomax d a b => some ⟨d, a, 8, false, fun o => (ofI (max (signed64 o) (s.rd b).toInt)).toNat⟩
  | .amominn d a b => some ⟨d, a, 8, false, fun o => min (o % 2 ^ 64) (s.rd b).toNat⟩
  | .amomaxn d a b => some ⟨d, a, 8, false, fun o => max (o % 2 ^ 64) (s.rd b).toNat⟩
  | .amoaddW d a b => some ⟨d, a, 4, true, fun o => (o + (s.rd b).toNat) % 2 ^ 32⟩
  | .amoswapW d a b => some ⟨d, a, 4, true, fun _ => (s.rd b).toNat % 2 ^ 32⟩
  | .amocasW d a b =>
    some ⟨d, a, 4, true, fun o =>
      if o % 2 ^ 32 = (s.rd d).toNat % 2 ^ 32 then (s.rd b).toNat % 2 ^ 32 else o % 2 ^ 32⟩
  | .amoandW d a b => some ⟨d, a, 4, false, fun o => (BitVec.ofNat 32 o &&& (s.rd b).setWidth 32).toNat⟩
  | .amoorW d a b => some ⟨d, a, 4, false, fun o => (BitVec.ofNat 32 o ||| (s.rd b).setWidth 32).toNat⟩
  | .amoxorW d a b => some ⟨d, a, 4, false, fun o => (BitVec.ofNat 32 o ^^^ (s.rd b).setWidth 32).toNat⟩
  | _ => none

/-- The old value of an atomic, sign-extended from its size. -/
def oldValue (size x : Nat) : Word := if size = 4 then ofI (BitVec.ofNat 32 x).toInt else ofN x

/-- Counts after an atomic of `n` bytes. -/
def bothBytes (n : Nat) (c : Counters) : Counters :=
  { c with bytesRead := (c.bytesRead + n) % 2 ^ 64, bytesWritten := (c.bytesWritten + n) % 2 ^ 64 }

/-- The register of a cache form that writes back a line. -/
def lineFlush : Instr → Option (BitVec 7)
  | .cacheFlush a => some a
  | .cacheInval a => some a
  | _ => none

/-- The line that contains an address. -/
def lineStart (x : Word) : Word := ofN (x.toNat / 128 * 128)

/-! ## Scalar floating point (06 R115, R116) -/

/-- The IEEE result of a binary64 instruction: destination, pattern and exceptions. -/
def fpOf (s : State) : Instr → Option (BitVec 7 × Word × Flags)
  | .fadd d a b => some (d, res d (fmtFp64.result s.me.rm false (addFV s.me.rm (num a) (num b))))
  | .fsub d a b => some (d, res d (fmtFp64.result s.me.rm false (addFV s.me.rm (num a) (num b).negate)))
  | .fmul d a b => some (d, res d (fmtFp64.result s.me.rm false (mulFV (num a) (num b))))
  | .fdiv d a b => some (d, res d (fmtFp64.div s.me.rm false (num a) (num b)))
  | .fsqrt d a => some (d, res d (fmtFp64.sqrt s.me.rm false (num a)))
  | .fmac d a b =>
    some (d, res d (fmtFp64.result s.me.rm false
      ((addFV s.me.rm (mulFV (num a) (num b)).1 (num d)).1,
       orF (mulFV (num a) (num b)).2 (addFV s.me.rm (mulFV (num a) (num b)).1 (num d)).2)))
  | .fcvtif d a => some (d, res d (fmtFp64.deliver s.me.rm false (.fin ((s.rd a).toInt < 0) (s.rd a).toInt.natAbs 0) 0))
  | .fcvtfi d a =>
    some (d, ofI (toInt s.me.rm (-(2 ^ 63)) (2 ^ 63 - 1) (num a)).1, (toInt s.me.rm (-(2 ^ 63)) (2 ^ 63 - 1) (num a)).2)
  | .flt d a b => some (d, ofB (compareFV 0 (num a) (num b)).1, (compareFV 0 (num a) (num b)).2)
  | .feq d a b => some (d, ofB (compareFV 1 (num a) (num b)).1, (compareFV 1 (num a) (num b)).2)
  | .fle d a b => some (d, ofB (compareFV 2 (num a) (num b)).1, (compareFV 2 (num a) (num b)).2)
  | .fmin d a b => some (d, pick d a b (pickFV false (num a) (num b)))
  | .fmax d a b => some (d, pick d a b (pickFV true (num a) (num b)))
  | _ => none
where
  num (r : BitVec 7) : FV := fmtFp64.decode false (s.rd r).toNat
  res (_ : BitVec 7) (r : Nat × Flags) : Word × Flags := (ofN r.1, r.2)
  pick (_ a b : BitVec 7) (r : Pick × Flags) : Word × Flags :=
    (match r.1 with
      | .first => s.rd a
      | .second => s.rd b
      | .nan => ofN 0x7FF8000000000000, r.2)

/-- FPFLAGS with exceptions ORed in. -/
def flagged (s : State) (f : Flags) : State := s.setMe { s.me with fpflags := s.me.fpflags ||| ofN f }

/-! ## Phases, waits and rings (17 R288 to R302; 11 R240) -/

/-- A wait: which field it reads, its address and its value, and its scope. -/
def waitOf (s : State) : Instr → Option (Nat × Word × Word × Nat)
  | .waitb a b k => some (0, s.rd a, s.rd b, k.toNat)
  | .waitv a b k => some (1, s.rd a, s.rd b, k.toNat)
  | .waitc a b k => some (2, s.rd a, s.rd b, k.toNat)
  | _ => none

/-- A byte as a thread reads it at the home: a send of its own on the way there comes before the read (17 R291). -/
def homeSeen (s : State) (key pa : Nat) : Byte :=
  if uncachedPa pa then (((s.thread key).pend.find? (fun p => p.pa == pa)).map (·.val)).getD (s.home pa) else s.home pa

/-- The number that a thread reads at some of the bytes of a place. -/
def seenNum (s : State) (key : Nat) (pas : List Nat) (off n : Nat) : Nat :=
  leNat (((pas.drop off).take n).map (homeSeen s key))

/-- The number at some of the bytes of a place, at their homes. -/
def homeNum (s : State) (pas : List Nat) (off n : Nat) : Nat := leNat (((pas.drop off).take n).map s.home)

/-- The condition of a wait on the field as the executing thread reads it at the home. -/
def waitHolds (s : State) (pas : List Nat) (kind : Nat) (val : Word) : Prop :=
  match kind with
  | 0 => seenNum s s.cur pas 0 4 ≠ val.toNat % 2 ^ 32
  | 1 => seenNum s s.cur pas 0 8 ≠ val.toNat
  | _ => (if val = 0 then seenNum s s.cur pas 24 8 else val.toNat) ≤ seenNum s s.cur pas 16 8

/-- The size and the alignment of what a wait names: a barrier, or a doubleword. -/
def waitBytes (kind : Nat) : Nat := if kind = 1 then 8 else 32

/-- The bytes that a wait reads: PHASE, the doubleword, or LANDED and, with a count of 0, BEXP (17 R301). -/
def waitReads (pas : List Nat) (kind : Nat) (val : Word) : List Nat :=
  match kind with
  | 0 => pas.take 4
  | 1 => pas.take 8
  | _ => (pas.drop 16).take 8 ++ (if val = 0 then (pas.drop 24).take 8 else [])

/-- What a wait of a thread needs before it looks: it may read the object, and what it reads is sound. -/
def WaitReady (s : State) (kind : Nat) (va val : Word) (p : Place) : Prop :=
  locate s (s.env s.cur) .read va (waitBytes kind) (waitBytes kind) = .ok p ∧
  ∀ pa ∈ waitReads p.pas kind val, s.poisonHome pa = false ∧ s.linkError pa = false

/-- A place whose bytes are distinct and whose memory has not failed. -/
def SoundPlace (s : State) (pas : List Nat) : Prop := pas.Nodup ∧ ∀ pa ∈ pas, s.failedAt pa = false

/-- Pending bytes that reach their homes when those at some addresses do: those at them, and the other bytes of a line
or word that one store wrote whole (10 R220). -/
def Reaches (pend : List Pend) (pas : List Nat) (pa : Nat) : Prop :=
  pa ∈ pas ∨ ∃ q ∈ pend, q.whole = true ∧ poisonUnit q.pa = poisonUnit pa ∧ q.pa ∈ pas

/-- A byte that no store of a thread reaches when those at some addresses reach their homes for an atomic of its own.
Under the strengthening mode its older sends go first, in order and with what the publications of its unfired markers
make perform (17 R303), so there the condition is on its other stores alone. -/
def Unreached (s : State) (key : Nat) (pas : List Nat) (pa : Nat) : Prop :=
  (∀ q ∈ (s.thread key).pend, q.pa ≠ pa) ∨
  (¬ Reaches (s.thread key).pend pas pa ∧ (s.rev1 key = false ∨ (s.thread key).markers = []) ∧
    (uncachedPa pa = false ∨ (s.rev1 key = false ∧ ∀ q ∈ (s.thread key).pend, q.ordered = false)))

/-- The addresses of a thread's pending sends. -/
def sendsOf (s : State) (key : Nat) : List Nat := ((s.thread key).pend.filter (fun q => uncachedPa q.pa)).map (·.pa)

/-- What an acquire of a scope must take: the stores that an agent had published before a store of its own that the
thread has observed, at a scope that covers the two and that the acquire covers (17 R290). -/
def Required (s : State) (key scope x : Nat) : Prop :=
  ∃ y ∈ (s.thread key).seen, ∃ e, s.storeAt y = some e ∧ pairScope e.who (.thread key) ≤ scope ∧
    x ∈ s.publishedBy e.who (pairScope e.who (.thread key)) e.time

/-- A ring instruction: an acquire with its destination or a release, the side, the descriptor and the count. -/
def ringOf (s : State) : Instr → Option (Option (BitVec 7) × Bool × Word × Word)
  | .racqr d a b => some (some d, false, s.rd a, s.rd b)
  | .racqw d a b => some (some d, true, s.rd a, s.rd b)
  | .rrelr a b => some (none, false, s.rd a, s.rd b)
  | .rrelw a b => some (none, true, s.rd a, s.rd b)
  | _ => none

/-- A descriptor after an acquire of `n` slots, with the address of the first. -/
def acquired (r : RingDesc) (write : Bool) (n : Nat) : Word × RingDesc :=
  if write then
    (r.base + ofN (r.wpos * r.slotSize), { r with free := r.free - n, wpos := (r.wpos + n) % r.slots })
  else (r.base + ofN (r.rpos * r.slotSize), { r with filled := r.filled - n, rpos := (r.rpos + n) % r.slots })

/-- A descriptor after a release of `n` slots. -/
def released (r : RingDesc) (write : Bool) (n : Nat) : RingDesc :=
  if write then { r with filled := r.filled + n } else { r with free := r.free + n }

/-- Slots that an acquire of a side finds. -/
def available (r : RingDesc) (write : Bool) : Nat := if write then r.free else r.filled

/-- The limits of a descriptor (11 R239, R240), in a context that holds `rings` rings. -/
def soundRing (r : RingDesc) (rings : Nat) (baseOk : Bool) : Prop :=
  r.slotSize % 64 = 0 ∧ 64 ≤ r.slotSize ∧ r.slotSize ≤ 1048576 ∧ 1 ≤ r.slots ∧ r.slots ≤ 65536 ∧
  r.base.toNat % 64 = 0 ∧ baseOk = true ∧ r.reserved = 0 ∧ r.wpos < r.slots ∧ r.rpos < r.slots ∧
  r.free + r.filled ≤ r.slots ∧ r.rid < rings

/-- The counter that a side's acquire lowers, or that its release raises: where it stands, and its value. -/
def counterOf (r : RingDesc) (filled : Bool) : Nat × Nat := if filled then (20, r.filled) else (16, r.free)

/-- The position that an acquire moves. -/
def positionOf (r : RingDesc) (filled : Bool) : Nat × Nat := if filled then (30, r.rpos) else (28, r.wpos)

end Sys2Proof.Claims

/-- 07 R127; 19 R307, R311, R312: a user thread that traps stalls on a new token, which names a held fault with the
trap's fields; its registers and every other thread stand. -/
def Obligations.UserTrapStallsOnToken : Prop :=
  ∀ (s : State) (key : Nat) (i : TrapInfo), isSupervisor key = false →
    ∃ e, TrapEntry s key i e ∧
      (takeTrap s key i).thread key =
        { s.thread key with status := .trapped e.record.token, stop := none, cnt := trapCount (s.thread key).cnt } ∧
      (∀ k, k ≠ key → (takeTrap s key i).thread k = s.thread k) ∧
      (takeTrap s key i).held = { token := e.record.token, entry := e, by_ := .user } :: s.held ∧
      (∀ x, i.va = some x → e.record.va = x) ∧
      e.record.token = key / 8 * 2 ^ 40 + key % 8 * 2 ^ 37 + ((takeTrap s key i).coreAt (key / 8)).seq ∧
      1 ≤ ((takeTrap s key i).coreAt (key / 8)).seq ∧ ((takeTrap s key i).coreAt (key / 8)).seq < 2 ^ 30

/-- 19 R312, R315: a record whose queue has room is written whole at the queue's tail, the tail moves, and the record
joins its core's pending list. While an older record of the core waits, it waits behind that one. -/
def Obligations.RecordsAreQueued : Prop :=
  ∀ (s : State) (core q : Nat) (e : Entry) (va : Word) (pas : List Nat),
    suppressed s core q e.record = false →
    ((s.coreAt core).blocked = [] → (s.ctxAt q).id = q → (s.ctxAt q).queued < (s.ctxAt q).fqsize →
      queueSlot s (s.ctxAt q) = .ok (va, pas) → SoundPlace s pas → pas.length = 64 →
      (s.coreAt core).pending.length < 256 →
      (∀ i, i < 64 → (s.post core q e).home (pas.getD i 0) = byteOf e.record.bytes i) ∧
      (∀ pa, pa ∉ pas → (s.post core q e).home pa = s.home pa) ∧
      ((s.post core q e).ctxAt q).fqtail = ((s.ctxAt q).fqtail + 1) % 2 ^ 32 ∧
      ∃ o, ((s.post core q e).coreAt core).pending = (s.coreAt core).pending ++ [{ e with owner := o }]) ∧
    ((s.coreAt core).blocked ≠ [] →
      (∀ pa, (s.post core q e).home pa = s.home pa) ∧
      ((s.post core q e).coreAt core).pending = (s.coreAt core).pending ∧
      ((s.post core q e).coreAt core).blocked = (s.coreAt core).blocked ++ [{ e with owner := q }])

/-- 19 R315: the handler of an entry starts at its owner's TRAPVEC with the record's doublewords in g1 to g8, 0 in every
other register, WB, FPCR and FPFLAGS 0, EPC the resume PC and ECAUSE the cause; resident code that ran is kept. -/
def Obligations.HandlerEntryState : Prop :=
  ∀ (s : State) (core : Nat) (e : Entry),
    ((enterHandler s core e).thread (core * 8 + 4)).pc = (s.ctxAt e.owner).trapvec ∧
    ((enterHandler s core e).thread (core * 8 + 4)).ctx = e.owner ∧
    (∀ i, i < 8 → Map.getD (i + 1) 0 ((enterHandler s core e).thread (core * 8 + 4)).regs = dword e.record.bytes i) ∧
    (∀ p, (p = 0 ∨ 8 < p) → Map.getD p 0 ((enterHandler s core e).thread (core * 8 + 4)).regs = 0) ∧
    ((enterHandler s core e).thread (core * 8 + 4)).wb = 0 ∧
    ((enterHandler s core e).thread (core * 8 + 4)).fpcr = 0 ∧
    ((enterHandler s core e).thread (core * 8 + 4)).fpflags = 0 ∧
    ((enterHandler s core e).thread (core * 8 + 4)).h =
      { epc := e.resume, keep := false, remove := false, cause := e.record.cause, mstep := e.mstep, served := some e } ∧
    ((s.thread (core * 8 + 4)).h.served = none → (s.thread (core * 8 + 4)).status = .ready →
      ((enterHandler s core e).coreAt core).resident = some (s.thread (core * 8 + 4)))

/-- What a release makes of the thread that stalled (19 R318): with PCRES it fetches at the resume PC, and leaves the
loop it was in unless that is the instruction it stopped at; without, it replays from the micro-step. A barrier marker
whose fault was released may fire again (17 R300). -/
def Sys2Proof.Claims.Released (t u : Thread) (pcres : Bool) (resume : Word) (mstep : Nat) : Prop :=
  let t : Thread := { t with markers := t.markers.map (fun m => { m with stalled := false }) }
  if pcres then
    if t.vec.loop.isSome ∧ resume = t.curPc then u = { t with status := .ready, vec := { t.vec with es := 0 } }
    else u = { t with status := .ready, pc := resume, vec := { t.vec with es := 0, loop := none } }
  else u = { t with status := .ready, mstep := mstep }

/-- 19 R317, R318: `eret` outside a handler is an encoding fault. In one it releases the fault of the record served,
at EPC and MSTEP, keeps it held, or removes its task, and then runs what comes next: with no suspended handler and
nothing pending, resident code as it was saved, registers, PC and window. A release makes the stalled thread ready, at
the resume PC where PCRES is set, and leaves every other thread as it was. -/
def Obligations.EretReleasesAndReturns : Prop :=
  (∀ (s : State) (core : Nat) (r : Thread),
    (s.coreAt core).stack = [] → (s.coreAt core).pending = [] →
    (∀ e ∈ (s.coreAt core).blocked, e.first = true → e.written = false) → (s.coreAt core).resident = some r →
    (nextHandler s core).thread (core * 8 + 4) = (s.thread (core * 8 + 4)).resumeAs r ∧
    ((nextHandler s core).thread (core * 8 + 4)).pc = r.pc ∧
    ((nextHandler s core).thread (core * 8 + 4)).regs = r.regs ∧
    ((nextHandler s core).thread (core * 8 + 4)).wb = r.wb ∧
    ((nextHandler s core).coreAt core).resident = none) ∧
  (∀ (s : State) (f : Held) (resume : Word) (mstep key : Nat),
    (∀ x ∈ (releaseHeld s f resume mstep).held, x.token ≠ f.token) ∧
    (f.by_ = .user → (s.thread key).status = .trapped f.token →
      Released (s.thread key) ((releaseHeld s f resume mstep).thread key) f.entry.record.pcres resume mstep) ∧
    (f.by_ = .supervisor → (s.thread key).status = .trapped f.token →
      (releaseHeld s f resume mstep).thread key = { s.thread key with status := .ready, pc := resume }) ∧
    (f.by_ = .user ∨ f.by_ = .supervisor → (s.thread key).status ≠ .trapped f.token →
      (releaseHeld s f resume mstep).thread key = s.thread key)) ∧
  ∀ (s : State) (e : Entry) (f : Held), Sup s →
    (s.me.h.served = none → Traps (exec .eret s) s 0x10 none) ∧
    (s.me.h.served = some e → s.held.find? (fun x => x.token == e.record.token) = none →
      exec .eret s = .next (nextHandler (s.tally (fun c => { c with retired := (c.retired + 1) % 2 ^ 64 })) (s.cur / 8))) ∧
    (s.me.h.served = some e → s.held.find? (fun x => x.token == e.record.token) = some f → f.by_ ≠ .supervisor →
      s.me.h.remove = false →
      exec .eret s = .next (nextHandler
        (let u := s.tally (fun c => { c with retired := (c.retired + 1) % 2 ^ 64 })
         if s.me.h.keep then u else releaseHeld (u.phase s.cur 2) f s.me.h.epc s.me.h.mstep) (s.cur / 8))) ∧
    (s.me.h.served = some e → s.held.find? (fun x => x.token == e.record.token) = some f → f.by_ = .supervisor →
      s.me.h.remove = false →
      exec .eret s = .next (nextHandler
        (let u := s.tally (fun c => { c with retired := (c.retired + 1) % 2 ^ 64 })
         releaseHeld (u.phase s.cur 2) f s.me.h.epc s.me.h.mstep) (s.cur / 8))) ∧
    (s.me.h.served = some e → s.held.find? (fun x => x.token == e.record.token) = some f → f.by_ ≠ .supervisor →
      s.me.h.remove = true →
      exec .eret s = .next (nextHandler
        (let u := removeTask (s.tally (fun c => { c with retired := (c.retired + 1) % 2 ^ 64 })) (f.by_.concerns f.token)
           e.record.cause e.record.pc
         { u with held := u.held.filter (fun x => x.token != f.token) }) (s.cur / 8)))

/-- 19 R318, R319: `frel` publishes and acquires at scope p, retires and releases the held fault at the point that the
handler gives or the fault kept; a token that names none releases nothing. A bad token is 0x13; a fault of another
subtree, or one whose record belongs to a level above the thread's, is 0x11. -/
def Obligations.FaultReleaseByToken : Prop :=
  ∀ (s : State) (a : BitVec 7) (f : Held), Sup s →
    (badToken (s.rd a).toNat = true → Traps (exec (.frel a) s) s 0x13 none) ∧
    (badToken (s.rd a).toNat = false → s.held.find? (fun x => x.token == (s.rd a).toNat) = none →
      exec (.frel a) s = .next (s.phase s.cur 2).retire) ∧
    (badToken (s.rd a).toNat = false → s.held.find? (fun x => x.token == (s.rd a).toNat) = some f →
      (s.inSubtree s.me.ctx f.entry.record.ctx = true ∧ (s.ctxAt s.me.ctx).depth ≤ f.entry.record.level →
        exec (.frel a) s = .next (wakeEret (releaseHeld (s.phase s.cur 2).retire f (releasePoint s.me.h f).1
          (releasePoint s.me.h f).2) ((s.rd a).toNat / 2 ^ 40 % 256))) ∧
      (s.inSubtree s.me.ctx f.entry.record.ctx = false ∨ f.entry.record.level < (s.ctxAt s.me.ctx).depth →
        Traps (exec (.frel a) s) s 0x11 none)) ∧
    (∀ e, s.me.h.served = some e → e.record.token = f.token → releasePoint s.me.h f = (s.me.h.epc, s.me.h.mstep)) ∧
    ((∀ e, s.me.h.served = some e → e.record.token ≠ f.token) → releasePoint s.me.h f = (f.entry.resume, f.entry.mstep))

/-- 06 R109 to R111: a load whose address passes every check answers with the bytes that the thread sees there,
little-endian, widened; memory and every other register stand. A load of a byte that the thread's own atomic has written
finds the atomic's result there or a later value (06 R112; which one is free, log entry 78). Under the strengthening mode
an acquire comes first unless the L1 serves the bytes (17 R303). -/
def Obligations.LoadsAnswerWhatTheThreadSees : Prop :=
  ∀ (i : Instr) (s : State) (d : BitVec 7) (va : Word) (w : Nat) (p : Place), loadOf s i = some (d, va, w) →
    checkRead s (s.env s.cur) va (byteCount w) (byteCount w) = .ok p →
    ∃ t, exec i s = .next t ∧
      Loaded s t d (widened w (leNat (p.pas.map (fun pa => ((s.beforeRead s.cur [p]).viewByte s.cur pa).1)))) ∧
      (s.rev1 s.cur = false → RereadsAtomics s t p.pas ∧
        (ownAtomics s p.pas = [] → s.beforeRead s.cur [p] = s ∧ t.fresh = s.fresh)) ∧
      (s.rev1 s.cur = false → s.hist.Pairwise (fun a b => b.time < a.time) → ∀ e ∈ ownAtomics s p.pas,
        e.who = .thread s.cur → (∀ q ∈ s.me.pend, q.pa ≠ e.pa) → uncachedPa e.pa = false →
        ∃ x ∈ s.hist, x.pa = e.pa ∧ e.time ≤ x.time ∧ ((s.beforeRead s.cur [p]).viewByte s.cur e.pa).2 = some x)

/-- 06 R109 to R111; 17 R288, R303: a store whose address passes every check puts the register's low bytes there,
little-endian, as pending bytes of the thread; no other byte changes. Under the strengthening mode the bytes are
published at scope p at once, the thread's older sends first where they go to device memory, whatever markers those
wait for (17 R303; log entry 11). That no home changes while the bytes are pending is the model's choice: 17 R287 lets
a store reach its home before its publication, which here is a step of its own (log entry 10). -/
def Obligations.StoresPendInOrder : Prop :=
  ∀ (i : Instr) (s : State) (d : BitVec 7) (va : Word) (w : Nat) (p : Place), storeOf s i = some (d, va, w) →
    checkWrite s (s.env s.cur) va (byteCount w) (byteCount w) = .ok p →
    (s.rev1 s.cur = false → ∃ t, exec i s = .next t ∧ Stored s t p.pas (leBytes (byteCount w) (s.rd d).toNat)) ∧
    (s.rev1 s.cur = true →
      let u := s.setMe { s.me with pend := pended s p.pas (leBytes (byteCount w) (s.rd d).toNat) ++ s.me.pend }
      let sends := ((u.me.pend.dropWhile (fun q => uncachedPa q.pa)).filter (fun q => uncachedPa q.pa)).map (·.pa)
      exec i s = .next
        (((if sends = [] then u else u.settleNow s.cur sends).publish s.cur 2).tally
          (fun c => { c with bytesWritten := (c.bytesWritten + byteCount w) % 2 ^ 64 })).retire)

/-- 06 R110: the address is checked first: one that is neither canonical nor in the window misses, and one that is not a
multiple of its size is misaligned, whatever the maps hold. A scalar access that fails a check traps with the check's
cause and address, and moves nothing; poison of host data is counted (log entry 74). -/
def Obligations.FailedAccessTraps : Prop :=
  (∀ (i : Instr) (s : State) (d : BitVec 7) (va : Word) (w : Nat) (f : Flt),
    ((storeOf s i = some (d, va, w) ∧ checkWrite s (s.env s.cur) va (byteCount w) (byteCount w) = .error (.flt f)) ∨
     (loadOf s i = some (d, va, w) ∧ checkRead s (s.env s.cur) va (byteCount w) (byteCount w) = .error (.flt f))) →
    exec i s = .next (trapAt (s.meets f) f.cause f.va 0 f.map) ∧ (f.host = false → s.meets f = s)) ∧
  ∀ (s : State) (e : Env) (need : Need) (va : Word) (n : Nat), 0 < n →
    (canonical va = false → inWindow va = false →
      locate s e need va n n = .error (.flt { cause := 1, va := some va, map := none })) ∧
    (canonical va = true → va.toNat % n ≠ 0 →
      locate s e need va n n = .error (.flt { cause := 3, va := some va, map := none }))

/-- 06 R112, R113; 17 R292: an atomic whose address passes every check answers with the old value, sign-extended, and
leaves the new one at the home in the same step, where it counts as published. The old value is what stands at the
home once the thread's own pending bytes there have reached it, and under the strengthening mode every older send (17
R303); no other home changes but those that such bytes reach with them. The thread's L1 holds the line no longer. A
variant that PCIe does not carry faults with 0x06 on host memory; an atomic that fails a check traps and moves
nothing, and poison of host data is counted (log entry 74). -/
def Obligations.AtomicsReadModifyWrite : Prop :=
  (∀ (i : Instr) (s : State) (m : Amo) (p : Place), amoOf s i = some m →
    (checkAtomic s (s.env s.cur) (s.rd m.a) m.size m.onHost = .ok p → p.pas.any s.linkError = false →
      Answers (exec i s) ((atomicAt s s.cur p m.op).2.tally (bothBytes m.size)) m.d
        (oldValue m.size (atomicAt s s.cur p m.op).1)) ∧
    (∀ f, checkAtomic s (s.env s.cur) (s.rd m.a) m.size m.onHost = .error (.flt f) →
      exec i s = .next (trapAt (s.meets f) f.cause f.va 0 f.map)) ∧
    (locate s (s.env s.cur) .both (s.rd m.a) m.size m.size = .ok p → (∀ pa ∈ p.pas, s.poisonAtHome s.cur pa = false) →
      p.tier = 2 → m.onHost = false → exec i s = .next (trapAt s 6 (some (s.rd m.a)) 0 none))) ∧
  ∀ (s : State) (key : Nat) (p : Place) (op : Nat → Nat), SoundPlace s p.pas →
    (atomicAt s key p op).1 = leNat (p.pas.map (homeSeen (s.beforeAtomic key p.pas (fun _ => true)) key)) ∧
    (s.rev1 key = false ∨ (∀ q ∈ (s.thread key).pend, uncachedPa q.pa = false) →
      s.beforeAtomic key p.pas (fun _ => true) = s.settle key p.pas) ∧
    (s.rev1 key = true →
      s.beforeAtomic key p.pas (fun _ => true) = s.settleNow key (p.pas ++ sendsOf s key)) ∧
    (∀ i, i < p.pas.length → (atomicAt s key p op).2.home (p.pas.getD i 0) =
      byteOf (leBytes p.pas.length (op (atomicAt s key p op).1)) i) ∧
    (∀ pa ∈ p.pas, ∃ e, (atomicAt s key p op).2.lastStore pa = some e ∧ e.who = .thread key ∧ e.kind = .atomic) ∧
    (∀ pa ∈ p.pas, uncachedPa pa = false → isSpad pa = false → poisonUnit pa = poisonUnit (p.pas.headD 0) →
      (atomicAt s key p op).2.l1PoisonedAt key pa = false) ∧
    ∀ pa, pa ∉ p.pas → Unreached s key p.pas pa → (atomicAt s key p op).2.home pa = s.home pa

/-- 06 R115, R116: a binary64 instruction writes the rounded result and ORs its exceptions into FPFLAGS; an enabled
exception traps with cause 0x07 and writes nothing. -/
def Obligations.ScalarFloatResults : Prop :=
  ∀ (i : Instr) (s : State) (d : BitVec 7) (v : Word) (f : Flags), fpOf s i = some (d, v, f) →
    (trapsOn (field s.me.fpcr 8 5) f = false → Answers (exec i s) (if f = 0 then s else flagged s f) d v) ∧
    (trapsOn (field s.me.fpcr 8 5) f = true → Traps (exec i s) s 7 none)

/-- 17 R288 to R290, R296, R297: once the thread's older barrier markers have fired, `phase` publishes every pending
store of the thread and then acquires. Where its memory has not failed, the home of each byte pending so far holds the
latest value stored; nothing stays pending but sends at a scope narrower than s; the publication holds every store of
the thread that has performed. An acquire keeps what the snapshot held and takes every store that it must. Two clauses
are the model's choice: that a phase narrower than s leaves the sends pending (log entry 69, which reads R296 beside
R288), and that it leaves their homes as they were, a send performing in a turn of its own (log entry 10). -/
def Obligations.PhasePublishesAndAcquires : Prop :=
  (∀ (s : State) (k : BitVec 2),
    (s.me.markers = [] → exec (.phase k) s = .next (s.phase s.cur k.toNat).retire) ∧
    (s.me.markers ≠ [] → exec (.phase k) s = .next s) ∧
    (∀ p, p ∈ (s.phase s.cur k.toNat).me.pend ↔
      ∃ q ∈ s.me.pend, p = { q with released := true } ∧ uncachedPa q.pa = true ∧ k ≠ 3) ∧
    (∀ (pa : Nat) (p : Pend), s.me.pend.find? (fun q => q.pa == pa) = some p → p.home = false →
      (uncachedPa pa = true → k = 3) → s.failedAt pa = false → (s.phase s.cur k.toNat).home pa = p.val) ∧
    (∀ pa, (∀ p ∈ s.me.pend, p.pa = pa → p.home = true) ∨ s.failedAt pa = true ∨ (uncachedPa pa = true ∧ k ≠ 3) →
      (s.phase s.cur k.toNat).home pa = s.home pa) ∧
    (∃ x, (s.phase s.cur k.toNat).pubs = x :: s.pubs ∧ x.who = .thread s.cur ∧ x.scope = k.toNat ∧
      (∀ e ∈ (s.phase s.cur k.toNat).hist, e.who = .thread s.cur → e.time ∈ x.stores) ∧
      ∀ y ∈ s.me.carry, y ∈ x.stores) ∧
    (s.phase s.cur k.toNat).me.phaseAt = (s.phase s.cur k.toNat).now ∧
    ∀ key, key ≠ s.cur → (s.phase s.cur k.toNat).thread key = s.thread key) ∧
  ∀ (s : State) (key scope : Nat),
    (∀ x ∈ (s.thread key).snap, x ∈ ((s.acquire key scope).thread key).snap) ∧
    ∀ e ∈ s.hist, e.who ≠ .thread key → (s.thread key).ownChunk e = false → Required s key scope e.time →
      e.time ∈ ((s.acquire key scope).thread key).snap

/-- 17 R299 to R301: an arrival of a user thread enters the thread's queue as a marker and sets FREEZE; nothing
reaches the barrier before it fires; the marker keeps the SWZ of its issue (10 R206). On a supervisor thread it
publishes and updates the barrier at once. An arrival counts n arrivals: PHASE rises each time they reach EXPECTED,
however often, and ARRIVED keeps the rest; PHASE and ARRIVED at the barrier's home become so, and nothing else of the
barrier changes. A count of 0 or above 65,535, and a barrier whose ARRIVED is not below its EXPECTED, are refused. A
wait whose condition holds acquires at its scope and goes on; one whose condition does not hold leaves the thread not
ready at the same instruction. That a refused update is recorded with the barrier's address as VA is the model's
reading (log entry 29). -/
def Obligations.BarriersCountAndWaitsEnd : Prop :=
  (∀ (s u : State) (a b : BitVec 7) (k : BitVec 2),
    (User s → ChangedMe (exec (.arrive a b k) s) s (fun t =>
      { t with markers := s.me.markers ++
                 [{ scope := k.toNat, addr := s.rd a, count := s.rd b, pc := s.me.curPc, swz := s.me.swz }]
               vec := { t.vec with freeze := true } })) ∧
    (Sup s → updateBarrier (s.publish s.cur k.toNat) s.cur ((s.publish s.cur k.toNat).env s.cur) (s.rd a) (s.rd b) = .ok u →
      exec (.arrive a b k) s = .next u.retire)) ∧
  (∀ (phase expected arrived n : Nat), arrived < expected → 1 ≤ n → phase < 2 ^ 32 →
    (arrivals phase expected arrived n).2 < expected ∧
    (arrived + n < expected → arrivals phase expected arrived n = (phase, arrived + n)) ∧
    (arrived + n = expected → arrivals phase expected arrived n = ((phase + 1) % 2 ^ 32, 0)) ∧
    (∀ q r, arrived + n = q * expected + r → r < expected →
      arrivals phase expected arrived n = ((phase + q) % 2 ^ 32, r))) ∧
  (∀ (s : State) (key : Nat) (e : Env) (va n : Word) (p : Place), checkAtomic s e va 32 false = .ok p →
    (∀ pa ∈ p.pas, s.linkError pa = false) → SoundPlace s p.pas → p.pas.length = 32 →
    let b := s.beforeAtomic key p.pas (fun q => q.behind == 0)
    let phase := seenNum b key p.pas 0 4
    let expected := seenNum b key p.pas 4 2
    let arrived := seenNum b key p.pas 8 2
    (n.toNat = 0 ∨ 65535 < n.toNat ∨ expected ≤ arrived →
      updateBarrier s key e va n = .error (.flt { cause := 0x13, va := some va, map := none })) ∧
    (1 ≤ n.toNat → n.toNat ≤ 65535 → arrived < expected → ∃ u, updateBarrier s key e va n = .ok u ∧
      seenNum u key p.pas 0 4 = (arrivals phase expected arrived n.toNat).1 ∧
      homeNum u p.pas 8 2 = (arrivals phase expected arrived n.toNat).2 ∧
      ∀ pa, pa ∉ p.pas.take 4 → pa ∉ (p.pas.drop 8).take 2 → u.home pa = b.home pa)) ∧
  ∀ (i : Instr) (s : State) (kind : Nat) (va val : Word) (scope : Nat) (p : Place),
    waitOf s i = some (kind, va, val, scope) → WaitReady s kind va val p →
    (waitHolds s p.pas kind val → ∃ u : State, exec i s = .next
        ((u.acquire s.cur scope).setMe { (u.acquire s.cur scope).me with status := .ready }).retire ∧
        u.mem = s.mem ∧ u.hist = s.hist ∧ u.me.regs = s.me.regs) ∧
    (¬ waitHolds s p.pas kind val → ∃ t, exec i s = .next t ∧ t.mem = s.mem ∧ t.hist = s.hist ∧
      t.me.status = .waiting kind va val scope ∧ t.me.pc = s.me.pc ∧ t.me.regs = s.me.regs)

/-- 11 R239, R240: with slots enough and no earlier request, a ring acquire takes them, answers with the first slot's
address and acquires at the ring's scope; without, it waits; a release publishes, its older barrier markers fired, and
then raises the other counter. What either writes at the home is its counter, and for an acquire its position. A
descriptor outside its limits, a count of 0 or above SLOTS, and a release beyond SLOTS are bad handles, 0x13, and move
nothing. That a refused descriptor is recorded with its address as VA is the model's reading (log entry 29). -/
def Obligations.RingsHandSlotsOver : Prop :=
  (∀ (i : Instr) (s u : State) (write : Bool) (va n : Word) (p : Place) (r : RingDesc), User s →
    openRing s va = .ok (p, r, u) → 1 ≤ n.toNat → n.toNat ≤ r.slots →
    (∀ d, ringOf s i = some (some d, write, va, n) →
      (ringTurn u (p.pas.headD 0) write (.inl s.cur) = true → n.toNat ≤ available r write → exec i s = .next
        (let v := (writeRing (dropRequests u (.inl s.cur)) (.thread u.cur) p (acquired r write n.toNat).2 true
            (!write)).acquire u.cur r.scope
         ((v.setMe { v.me with status := .ready }).wr d (acquired r write n.toNat).1).retire)) ∧
      (ringTurn u (p.pas.headD 0) write (.inl s.cur) = false ∨ available r write < n.toNat →
        ∃ t, exec i s = .next t ∧ t.mem = u.mem ∧ t.me.status = .ringWait write va n d ∧ t.me.pc = u.me.pc)) ∧
    (ringOf s i = some (none, write, va, n) → s.me.markers = [] → r.free + r.filled + n.toNat ≤ r.slots →
      exec i s = .next
        (writeRing (u.publish u.cur r.scope) (.thread u.cur) p (released r write n.toNat) false write).retire)) ∧
  (∀ (s : State) (who : Agent) (p : Place) (r : RingDesc) (acquire filled : Bool), SoundPlace s p.pas → p.pas.length = 32 →
    let t := writeRing s who p r acquire filled
    homeNum t p.pas (counterOf r filled).1 4 = (counterOf r filled).2 % 2 ^ 32 ∧
    (acquire = true → homeNum t p.pas (positionOf r filled).1 2 = (positionOf r filled).2 % 2 ^ 16) ∧
    ∀ pa, pa ∉ (p.pas.drop (counterOf r filled).1).take 4 →
      (acquire = true → pa ∉ (p.pas.drop (positionOf r filled).1).take 2) → t.home pa = s.home pa) ∧
  ∀ (i : Instr) (s : State) (o : Option (BitVec 7)) (write : Bool) (va n : Word) (p : Place) (ok : Bool), User s →
    ringOf s i = some (o, write, va, n) → (o = none → s.me.markers = []) → ringPlace s (s.env s.cur) va = .ok p →
    let u := (s.beforeAtomic s.cur p.pas (fun _ => true)).beforeHome s.cur
    let r := RingDesc.ofBytes (p.pas.map u.home)
    ringBaseOk u (s.env s.cur) r.base = .ok ok →
    (p.tier = 3 ∨ ¬ soundRing r (s.ctxAt s.me.ctx).budget.rings ok ∨ n.toNat = 0 ∨ r.slots < n.toNat ∨
      (o = none ∧ r.slots < r.free + r.filled + n.toNat)) →
    exec i s = .next (trapAt (if o = none then s else dropRequests s (.inl s.cur)) 0x13 (some va) 0 none)

namespace Sys2Proof.Claims

open Sys2Proof.Machine

/-! ## Element-wise vector instructions (07 R121 to R130; 09 R170 to R189) -/

/-- An element-wise instruction as the rules give it: the destination and its tag, the mask and policy bits, the
registers read, whether their tags are the ones it takes (none of them PSN), and each element's result with its
exceptions. -/
structure VecOp where
  d : BitVec 7
  tag : Nat
  m : Bool
  z : Bool
  srcs : List (BitVec 7)
  ok : Bool
  f : Nat → Nat × Flags

/-- The state after a vector instruction whose active elements all complete: the tag at issue, the active elements
written, the flags ORed in, the elements counted, the others set by the policy, and the instruction retired. -/
def vecDone (s : State) (o : VecOp) : State :=
  let act := activeElems s o.m
  let u := ((s.setTag o.d o.tag).writeElems o.d o.tag (act.map (fun e => (e, (o.f e).1)))).raise [.vreg o.d.toNat]
    (act.foldl (fun a e => orF a (o.f e).2) 0)
  (zeroOthers (countElems act.length u) o.d o.tag o.m o.z s.me.vec.al (fun _ => true)).retire

/-- A user thread whose instruction names declared registers, a masked one not v0 as its destination, which is no word
(03 R31), and no copy command uses the register that it writes. -/
def Issues (s : State) (o : VecOp) : Prop :=
  User s ∧ (∀ r ∈ o.d :: o.srcs, r.toNat < s.me.vec.nregs) ∧ (o.m = true → o.d ≠ 0) ∧ ∀ c ∈ s.me.cmds, c.id ≠ o.d.toNat

/-- The conditions under which a vector instruction completes over its whole AL: it issues, the tags are those that it
takes, a mask is tagged MSK, no element raises an enabled exception, and no forced pre-emption waits for it. -/
def VecReady (s : State) (o : VecOp) : Prop :=
  Issues s o ∧ s.me.stop = none ∧ o.ok = true ∧ maskOk s o.m = true ∧
  ∀ e ∈ activeElems s o.m, trapsOn s.me.enables (o.f e).2 = false

/-- The low bits of a number as an element of w bytes. -/
def lowOf (w : Nat) (v : Int) : Nat := (v % (2 ^ (8 * w) : Nat)).toNat

/-- A pattern of w bytes as a signed number. -/
def sg (w x : Nat) : Int := (x : Int) - (if 2 ^ (8 * w - 1) ≤ x % 2 ^ (8 * w) then (2 ^ (8 * w) : Nat) else 0) -
  ((x / 2 ^ (8 * w) * 2 ^ (8 * w) : Nat) : Int)

/-- A number brought between two bounds. -/
def between (lo hi v : Int) : Int := max lo (min hi v)

section Ops

variable (s : State)

/-- Element e of a register in a tag. -/
def el (r : BitVec 7) (t e : Nat) : Nat := (s.vreg r).read t e

/-- The low bits of a scalar register as an element of a tag. -/
def scal (r : BitVec 7) (t : Nat) : Nat := (s.rd r).toNat % 2 ^ (8 * tagWidth t)

/-- Two vectors of one tag. -/
def two (ok : Nat → Bool) (res : Nat → Nat) (f : Nat → Nat → Nat → Nat × Flags) (d a b : BitVec 7) (m z : Bool) : VecOp :=
  { d := d, tag := res (s.vtag a), m := m, z := z, srcs := [a, b], ok := ok (s.vtag a) && s.vtag b == s.vtag a
    f := fun e => f (s.vtag a) (el s a (s.vtag a) e) (el s b (s.vtag a) e) }

/-- A vector and a scalar. -/
def withX (ok : Nat → Bool) (res : Nat → Nat) (f : Nat → Nat → Nat → Nat × Flags) (d a b : BitVec 7) (m z : Bool) : VecOp :=
  { d := d, tag := res (s.vtag a), m := m, z := z, srcs := [a], ok := ok (s.vtag a)
    f := fun e => f (s.vtag a) (el s a (s.vtag a) e) (scal s b (s.vtag a)) }

/-- One vector. -/
def one (ok : Nat → Bool) (res : Nat → Nat) (f : Nat → Nat → Nat × Flags) (d a : BitVec 7) (m z : Bool) : VecOp :=
  { d := d, tag := res (s.vtag a), m := m, z := z, srcs := [a], ok := ok (s.vtag a)
    f := fun e => f (s.vtag a) (el s a (s.vtag a) e) }

/-- Two vectors and the destination's old value, of one tag. -/
def three (ok : Nat → Bool) (f : Nat → Nat → Nat → Nat → Nat × Flags) (d a b : BitVec 7) (m z : Bool) : VecOp :=
  { d := d, tag := s.vtag a, m := m, z := z, srcs := [a, b, d]
    ok := ok (s.vtag a) && s.vtag b == s.vtag a && s.vtag d == s.vtag a
    f := fun e => f (s.vtag a) (el s a (s.vtag a) e) (el s b (s.vtag a) e) (el s d (s.vtag a) e) }

/-- A vector, a scalar and the destination's old value. -/
def threeX (ok : Nat → Bool) (f : Nat → Nat → Nat → Nat → Nat × Flags) (d a b : BitVec 7) (m z : Bool) : VecOp :=
  { d := d, tag := s.vtag a, m := m, z := z, srcs := [a, d], ok := ok (s.vtag a) && s.vtag d == s.vtag a
    f := fun e => f (s.vtag a) (el s a (s.vtag a) e) (scal s b (s.vtag a)) (el s d (s.vtag a) e) }

end Ops

/-- An integer result that wraps to the tag's width and raises nothing. -/
def wraps (op : Nat → Nat → Nat → Int) (t x y : Nat) : Nat × Flags := (lowOf (tagWidth t) (op (tagWidth t) x y), 0)

/-- The integers that a tag's width and signedness span. -/
def least (sgn : Bool) (w : Nat) : Int := if sgn then -(2 ^ (8 * w - 1)) else 0
def greatest (sgn : Bool) (w : Nat) : Int := if sgn then 2 ^ (8 * w - 1) - 1 else 2 ^ (8 * w) - 1

/-- A pattern by its tag's signedness. -/
def numT (t x : Nat) : Int := if isSignedTag t then sg (tagWidth t) x else x

/-- Integer operations of two operands, as numbers before they wrap (09 R173, R174; 08 R147). -/
def intOp : Instr → Option ((Nat → Bool) × (Nat → Nat → Nat → Int) × BitVec 7 × BitVec 7 × BitVec 7 × Bool × Bool)
  | .vadd d a b m z => some (isInt, fun _ x y => (x : Int) + y, d, a, b, m, z)
  | .vsub d a b m z => some (isInt, fun _ x y => (x : Int) - y, d, a, b, m, z)
  | .vand d a b m z => some (isInt, fun _ x y => (Nat.land x y : Int), d, a, b, m, z)
  | .vor d a b m z => some (isInt, fun _ x y => (Nat.lor x y : Int), d, a, b, m, z)
  | .vxor d a b m z => some (isInt, fun _ x y => (Nat.xor x y : Int), d, a, b, m, z)
  | .vandn d a b m z => some (isInt, fun w x y => (Nat.land x (2 ^ (8 * w) - 1 - y) : Int), d, a, b, m, z)
  | .vsll d a b m z => some (isInt, fun w x y => (x : Int) * 2 ^ (y % (8 * w)), d, a, b, m, z)
  | .vsrl d a b m z => some (isInt, fun w x y => ((x / 2 ^ (y % (8 * w)) : Nat) : Int), d, a, b, m, z)
  | .vsra d a b m z => some (isInt, fun w x y => sg w x / 2 ^ (y % (8 * w)), d, a, b, m, z)
  | .vror d a b m z =>
    some (isInt, fun w x y => ((x / 2 ^ (y % (8 * w)) + x * 2 ^ (8 * w - y % (8 * w)) : Nat) : Int), d, a, b, m, z)
  | .vmul d a b m z => some (isInt, fun _ x y => (x : Int) * y, d, a, b, m, z)
  | .vmulh d a b m z => some (isInt, fun w x y => sg w x * sg w y / 2 ^ (8 * w), d, a, b, m, z)
  | .vmulhn d a b m z => some (isInt, fun w x y => ((x * y / 2 ^ (8 * w) : Nat) : Int), d, a, b, m, z)
  | .vmin d a b m z => some (isInt, fun w x y => min (sg w x) (sg w y), d, a, b, m, z)
  | .vmax d a b m z => some (isInt, fun w x y => max (sg w x) (sg w y), d, a, b, m, z)
  | .vminn d a b m z => some (isInt, fun _ x y => min (x : Int) y, d, a, b, m, z)
  | .vmaxn d a b m z => some (isInt, fun _ x y => max (x : Int) y, d, a, b, m, z)
  | .vaddsat d a b m z =>
    some (isSignedTag, fun w x y => between (least true w) (greatest true w) (sg w x + sg w y), d, a, b, m, z)
  | .vsubsat d a b m z =>
    some (isSignedTag, fun w x y => between (least true w) (greatest true w) (sg w x - sg w y), d, a, b, m, z)
  | .vaddsatn d a b m z =>
    some (isUnsignedTag, fun w x y => between (least false w) (greatest false w) ((x : Int) + y), d, a, b, m, z)
  | .vsubsatn d a b m z =>
    some (isUnsignedTag, fun w x y => between (least false w) (greatest false w) ((x : Int) - y), d, a, b, m, z)
  | .vdiv d a b m z => some (isInt, fun w x y => if y = 0 then -1 else (sg w x).tdiv (sg w y), d, a, b, m, z)
  | .vdivn d a b m z => some (isInt, fun _ x y => if y = 0 then -1 else ((x / y : Nat) : Int), d, a, b, m, z)
  | .vrem d a b m z => some (isInt, fun w x y => if y = 0 then (x : Int) else (sg w x).tmod (sg w y), d, a, b, m, z)
  | .vremn d a b m z => some (isInt, fun _ x y => if y = 0 then (x : Int) else ((x % y : Nat) : Int), d, a, b, m, z)
  | _ => none

/-- The same with a scalar operand. -/
def intOpX : Instr → Option ((Nat → Nat → Nat → Int) × BitVec 7 × BitVec 7 × BitVec 7 × Bool × Bool)
  | .vaddX d a b m z => some (fun _ x y => (x : Int) + y, d, a, b, m, z)
  | .vsubX d a b m z => some (fun _ x y => (x : Int) - y, d, a, b, m, z)
  | _ => none

/-- Integer compares. -/
def intCmpOf : Instr → Option ((Nat → Nat → Nat → Bool) × Bool × BitVec 7 × BitVec 7 × BitVec 7 × Bool × Bool)
  | .vseq d a b m z => some (fun _ x y => x == y, false, d, a, b, m, z)
  | .vsne d a b m z => some (fun _ x y => x != y, false, d, a, b, m, z)
  | .vslt d a b m z => some (fun w x y => sg w x < sg w y, false, d, a, b, m, z)
  | .vsltn d a b m z => some (fun _ x y => x < y, false, d, a, b, m, z)
  | .vseqX d a b m z => some (fun _ x y => x == y, true, d, a, b, m, z)
  | .vsneX d a b m z => some (fun _ x y => x != y, true, d, a, b, m, z)
  | .vsltX d a b m z => some (fun w x y => sg w x < sg w y, true, d, a, b, m, z)
  | .vsltnX d a b m z => some (fun _ x y => x < y, true, d, a, b, m, z)
  | _ => none

/-- A compare's element: one bit. -/
def bitOf (op : Nat → Nat → Nat → Bool) (t x y : Nat) : Nat × Flags := (b2n (op (tagWidth t) x y), 0)

/-- A shift by a scalar counts all of the register modulo the width in bits (09 R174). -/
def shiftOp (s : State) (op : Nat → Nat → Nat → Int) (d a b : BitVec 7) (m z : Bool) : VecOp :=
  { d := d, tag := s.vtag a, m := m, z := z, srcs := [a], ok := isInt (s.vtag a)
    f := fun e => (lowOf (tagWidth (s.vtag a))
      (op (8 * tagWidth (s.vtag a)) (el s a (s.vtag a) e) ((s.rd b).toNat % (8 * tagWidth (s.vtag a)))), 0) }

/-- A dot product of n positions of two sources into a 32-bit element; a position from 65,536 on reads 0 (09 R178). -/
def dotOp (s : State) (n src dst : Nat) (d a b : BitVec 7) (m z : Bool) : VecOp :=
  { d := d, tag := dst, m := m, z := z, srcs := [a, b, d], ok := s.vtag a == src && s.vtag b == src && s.vtag d == dst
    f := fun e => (lowOf 4 ((el s d dst e : Int) + ((List.range n).map (fun j =>
      if n * e + j < 65536 then numT src (el s a src (n * e + j)) * numT src (el s b src (n * e + j)) else 0)).sum), 0) }

/-- Every other integer form, the moves and `vaddr` (07 R139; 09 R174 to R179, R196). -/
def intForm (s : State) : Instr → Option VecOp
  | .vsllX d a b m z => some (shiftOp s (fun _ x k => ((x * 2 ^ k : Nat) : Int)) d a b m z)
  | .vsrlX d a b m z => some (shiftOp s (fun _ x k => ((x / 2 ^ k : Nat) : Int)) d a b m z)
  | .vsraX d a b m z => some (shiftOp s (fun w x k => sg (w / 8) x / 2 ^ k) d a b m z)
  | .vrorX d a b m z => some (shiftOp s (fun w x k => ((x / 2 ^ k + x * 2 ^ (w - k) : Nat) : Int)) d a b m z)
  | .vmacc d a b m z => some (three s isInt (fun t x y c => (lowOf (tagWidth t) ((c : Int) + x * y), 0)) d a b m z)
  | .vmaccX d a b m z => some (threeX s isInt (fun t x y c => (lowOf (tagWidth t) ((c : Int) + x * y), 0)) d a b m z)
  | .vabs d a m z => some (one s isSignedTag id (fun t x => (lowOf (tagWidth t) (sg (tagWidth t) x).natAbs, 0)) d a m z)
  | .vneg d a m z => some (one s isInt id (fun t x => (lowOf (tagWidth t) (-(x : Int)), 0)) d a m z)
  | .vclz d a m z =>
    some (one s isInt id (fun t x => (lowOf (tagWidth t) (leadZeros (8 * tagWidth t) x : Nat), 0)) d a m z)
  | .vpopc d a m z =>
    some (one s isInt id (fun t x =>
      (lowOf (tagWidth t) (((List.range (8 * tagWidth t)).filter x.testBit).length : Nat), 0)) d a m z)
  | .vwiden d a m z =>
    some (one s (fun t => isSignedTag t && t != 7) (· + 2) (fun t x => (lowOf (tagWidth (t + 2)) (sg (tagWidth t) x), 0)) d a m z)
  | .vwidenn d a m z =>
    some (one s (fun t => isUnsignedTag t && t != 8) (· + 2) (fun t x => (lowOf (tagWidth (t + 2)) x, 0)) d a m z)
  | .vnarrow d a m z =>
    some (one s (fun t => isInt t && 2 < t) (· - 2) (fun t x => (lowOf (tagWidth (t - 2)) x, 0)) d a m z)
  | .vnarrowsat d a m z =>
    some (one s (fun t => isInt t && 2 < t) (· - 2) (fun t x => (lowOf (tagWidth (t - 2))
      (between (least (isSignedTag t) (tagWidth (t - 2))) (greatest (isSignedTag t) (tagWidth (t - 2))) (numT t x)), 0)) d a m z)
  | .vclamp d a b m z =>
    some { one s isInt id (fun t x => (lowOf (tagWidth t) (between (least (isSignedTag t) (tagWidth t))
      (greatest (isSignedTag t) (tagWidth t))
      (min (max (numT t x) (bound t (field (s.rd b) 0 32))) (bound t (field (s.rd b) 32 32)))), 0)) d a m z with srcs := [a] }
  | .vdot4 d a b m z => some (dotOp s 4 1 5 d a b m z)
  | .vdot4n d a b m z => some (dotOp s 4 2 6 d a b m z)
  | .vdot2 d a b m z => some (dotOp s 2 3 5 d a b m z)
  | .vaddr d a b m z =>
    some (one s isInt (fun _ => 7)
      (fun t x => (lowOf 8 (((s.rd b).toNat : Int) + numT t x * fmtWidth s.me.vec), 0)) d a m z)
  | .vmerge d a b z =>
    some { two s isData id (fun _ _ _ => (0, 0)) d a b false z with
      ok := isData (s.vtag a) && s.vtag b == s.vtag a && s.vtag 0 == tagMsk
      f := fun e => (if (s.vreg 0).bit e then el s b (s.vtag a) e else el s a (s.vtag a) e, 0) }
  | .vmergeX d a b z =>
    some { one s isData id (fun _ _ => (0, 0)) d a false z with
      ok := isData (s.vtag a) && s.vtag 0 == tagMsk
      f := fun e => (if (s.vreg 0).bit e then scal s b (s.vtag a) else el s a (s.vtag a) e, 0) }
  | .vmv d a m z => some (one s (· != 0) id (fun _ x => (x, 0)) d a m z)
  | .vsplat d a m z =>
    some { d := d, tag := s.me.vec.fmt, m := m, z := z, srcs := [], ok := s.me.vec.fmt != 0
           f := fun _ => (scal s a s.me.vec.fmt, 0) }
  | _ => none
where
  bound (t x : Nat) : Int := if isSignedTag t then sg 4 x else x

/-- Floating-point operations of two operands (09 R180, R182). -/
def floatOp (q : FMode) :
    Instr → Option ((Nat → Bool) × (Nat → Nat → Nat → Nat × Flags) × Bool × BitVec 7 × BitVec 7 × BitVec 7 × Bool × Bool)
  | .vfadd d a b m z => some (isF, fopAdd q, false, d, a, b, m, z)
  | .vfsub d a b m z => some (isF, fopSub q, false, d, a, b, m, z)
  | .vfmul d a b m z => some (isF, fopMul q, false, d, a, b, m, z)
  | .vfdiv d a b m z => some (isF, fopDiv q, false, d, a, b, m, z)
  | .vfaddX d a b m z => some (isF, fopAdd q, true, d, a, b, m, z)
  | .vfsubX d a b m z => some (isF, fopSub q, true, d, a, b, m, z)
  | .vfmulX d a b m z => some (isF, fopMul q, true, d, a, b, m, z)
  | .vfdivX d a b m z => some (isF, fopDiv q, true, d, a, b, m, z)
  | .vfmin d a b m z => some (isFF8, pickBits false q, false, d, a, b, m, z)
  | .vfmax d a b m z => some (isFF8, pickBits true q, false, d, a, b, m, z)
  | .vfsgnj d a b m z => some (isFF8, fun t x y => (withSign t x (signBitOf t y), 0), false, d, a, b, m, z)
  | .vfsgnjn d a b m z => some (isFF8, fun t x y => (withSign t x (!(signBitOf t y)), 0), false, d, a, b, m, z)
  | .vfsgnjx d a b m z =>
    some (isFF8, fun t x y => (withSign t x (signBitOf t x ^^ signBitOf t y), 0), false, d, a, b, m, z)
  | _ => none

/-- Floating-point compares: the comparison's number, and whether the second operand is a scalar (09 R181). -/
def floatCmp : Instr → Option (Nat × Bool × BitVec 7 × BitVec 7 × BitVec 7 × Bool × Bool)
  | .vfeq d a b m z => some (1, false, d, a, b, m, z)
  | .vflt d a b m z => some (0, false, d, a, b, m, z)
  | .vfle d a b m z => some (2, false, d, a, b, m, z)
  | .vfun d a b m z => some (3, false, d, a, b, m, z)
  | .vfeqX d a b m z => some (1, true, d, a, b, m, z)
  | .vfltX d a b m z => some (0, true, d, a, b, m, z)
  | .vfleX d a b m z => some (2, true, d, a, b, m, z)
  | .vfunX d a b m z => some (3, true, d, a, b, m, z)
  | _ => none

/-- The fused forms: whether the product and the addend are negated, and whether the second factor is a scalar
(09 R180). -/
def fusedOf : Instr → Option (Bool × Bool × Bool × BitVec 7 × BitVec 7 × BitVec 7 × Bool × Bool)
  | .vfma d a b m z => some (false, false, false, d, a, b, m, z)
  | .vfms d a b m z => some (false, true, false, d, a, b, m, z)
  | .vfnma d a b m z => some (true, true, false, d, a, b, m, z)
  | .vfnms d a b m z => some (true, false, false, d, a, b, m, z)
  | .vfmaX d a b m z => some (false, false, true, d, a, b, m, z)
  | .vfmsX d a b m z => some (false, true, true, d, a, b, m, z)
  | .vfnmaX d a b m z => some (true, true, true, d, a, b, m, z)
  | .vfnmsX d a b m z => some (true, false, true, d, a, b, m, z)
  | _ => none

/-- A fused result, rounded once. -/
def fusedBits (q : FMode) (np nc : Bool) (t x y c : Nat) : Nat × Flags :=
  (fmtOr t).result q.rm q.ftz (fusedFV q np nc (valOf q t x) (valOf q t y) (valOf q t c))

/-- Forms of one float operand that keep its tag (09 R182, R183, R189). -/
def floatUn (s : State) (q : FMode) : Instr → Option ((Nat → Bool) × (Nat → Nat → Nat × Flags) × BitVec 7 × BitVec 7 × Bool × Bool)
  | .vfabs d a m z => some (isFF8, fun t x => (withSign t x false, 0), d, a, m, z)
  | .vfneg d a m z => some (isFF8, fun t x => (withSign t x (!(signBitOf t x)), 0), d, a, m, z)
  | .vfrelu d a m z => some (isFF8, fun t x => if (valOf q t x).isNan then
      ((fmtOr t).nan, if (valOf q t x).isSnan then fInvalid else 0) else pickBits true q t x 0, d, a, m, z)
  | .vfsqrt d a m z => some (isF, fun t x => (fmtOr t).sqrt q.rm q.ftz (valOf q t x), d, a, m, z)
  | .vfrsqrt d a m z => some (isF, fun t x => (fmtOr t).rsqrt q.rm q.ftz (valOf q t x), d, a, m, z)
  | .vfrcp d a m z => some (isF, fun t x => (fmtOr t).rcp q.rm q.ftz (valOf q t x), d, a, m, z)
  | .vfexp2 d a m z => some (isF, fun t x => (fmtOr t).exp2 q.rm q.ftz x (valOf q t x), d, a, m, z)
  | .vflog2 d a m z => some (isF, fun t x => (fmtOr t).log2 q.rm q.ftz x (valOf q t x), d, a, m, z)
  | .vftanh d a m z => some (isF, fun t x => (fmtOr t).tanh q.rm q.ftz x (valOf q t x), d, a, m, z)
  | .vfsigm d a m z => some (isF, fun t x => (fmtOr t).sigm q.rm q.ftz x (valOf q t x), d, a, m, z)
  | .vfgelu d a m z => some (isF, fun t x => (fmtOr t).gelu q.rm q.ftz x (valOf q t x), d, a, m, z)
  | .vfclampX d a b m z => some (isF, clampBits q (field (s.rd b) 0 32) (field (s.rd b) 32 32), d, a, m, z)
  | _ => none

/-- Every other float form (09 R184 to R189). -/
def floatForm (s : State) (q : FMode) : Instr → Option VecOp
  | .vfwadd d a b m z => some (two s isWidens wideTag (fun t x y =>
      (fmtOr (wideTag t)).result q.rm q.ftz (addFV q.rm (valOf q t x) (valOf q t y))) d a b m z)
  | .vfwmul d a b m z => some (two s isWidens wideTag (fun t x y =>
      (fmtOr (wideTag t)).result q.rm q.ftz (mulFV (valOf q t x) (valOf q t y))) d a b m z)
  | .vfwma d a b m z =>
    let t := s.vtag a
    let w := wideTag t
    some { d := d, tag := w, m := m, z := z, srcs := [a, b, d], ok := isWidens t && s.vtag b == t && s.vtag d == w
           f := fun e => (fmtOr w).result q.rm q.ftz (fusedFV q false false (valOf q t (el s a t e)) (valOf q t (el s b t e))
             (valOf q w (el s d w e))) }
  | .vfdot2 d a b m z =>
    some { d := d, tag := 11, m := m, z := z, srcs := [a, b, d]
           ok := (s.vtag a == 9 || s.vtag a == 10) && s.vtag b == s.vtag a && s.vtag d == 11
           f := fpDot 2 q (s.vtag a) (s.vtag b) (s.vreg a) (s.vreg b) (s.vreg d) }
  | .vfdot4 d a b m z =>
    some { d := d, tag := 11, m := m, z := z, srcs := [a, b, d], ok := isF8 (s.vtag a) && isF8 (s.vtag b) && s.vtag d == 11
           f := fpDot 4 q (s.vtag a) (s.vtag b) (s.vreg a) (s.vreg b) (s.vreg d) }
  | .vcvt d a t m z => some (conv isCvt isCvt (cvtBits q) d a t m z)
  | .vcvtfi d a t m z => some (conv isCvtF isInt (fun ta t x =>
      (lowOf (tagWidth t) (toInt q.rm (least (isSignedTag t) (tagWidth t)) (greatest (isSignedTag t) (tagWidth t))
        (valOf q ta x)).1,
       (toInt q.rm (least (isSignedTag t) (tagWidth t)) (greatest (isSignedTag t) (tagWidth t)) (valOf q ta x)).2)) d a t m z)
  | .vcvtif d a t m z => some (conv isInt isCvtF (fun ta t x => (fmtOr t).deliver q.rm q.ftz (ofInt (numT ta x)) 0) d a t m z)
  | .vcvtint d a t m z => some (conv isInt isInt (fun ta t x => (lowOf (tagWidth t) (numT ta x), 0)) d a t m z)
  | .vpack d a b m z =>
    some { d := d, tag := s.me.vec.fmt, m := m, z := z, srcs := [a, b]
           ok := isShortF (s.vtag a) && s.vtag b == 16 && isPacked s.me.vec.fmt
           f := fun e => packElem q s.me.vec.fmt (el s b 16 (e / 32)) (valOf q (s.vtag a) (el s a (s.vtag a) e)) }
  | .vunpack d a b m z =>
    some { d := d, tag := 11, m := m, z := z, srcs := [a, b], ok := isPacked (s.vtag a) && s.vtag b == 16
           f := fun e => unpackElem q (s.vtag a) (el s b 16 (e / 32)) (el s a (s.vtag a) e) }
  | .vcbenc d a b m z =>
    some { d := d, tag := 17, m := m, z := z, srcs := [a, b], ok := isShortF (s.vtag a) && s.vtag b == 16
           f := fun e => cb2enc (el s b 16 (e / 8)) ((List.range 8).map (fun k =>
             valOf q (s.vtag a) ((s.vreg a).at_ (s.vtag a) (8 * e + k)))) }
  | .vfscale d a b m z =>
    some { d := d, tag := s.vtag a, m := m, z := z, srcs := [a, b], ok := isF (s.vtag a) && isSignedTag (s.vtag b)
           f := fun e => (fmtOr (s.vtag a)).deliver q.rm q.ftz ((valOf q (s.vtag a) (el s a (s.vtag a) e)).scale
             (between (-8000) 8000 (sg (tagWidth (s.vtag b)) (el s b (s.vtag b) e)))) 0 }
  | .vfexpo d a m z => some (one s isF (fun _ => 5) (fun t x => (expoOf (valOf q t x), 0)) d a m z)
  | .vfmant d a m z => some (one s isF id (fun t x => match valOf q t x with
      | .fin n k e => if k = 0 then ((fmtOr t).signed n 0, 0) else
          (fmtOr t).deliver q.rm false (.fin n k (e - ((Nat.log2 k : Int) + e))) 0
      | v => (fmtOr t).deliver q.rm false v 0) d a m z)
  | .vfclass d a m z => some (one s isF (fun _ => 4) (fun t x => (2 ^ classBit (fmtOr t) x (valOf q t x), 0)) d a m z)
  | _ => none
where
  conv (src dst : Nat → Bool) (f : Nat → Nat → Nat → Nat × Flags) (d a : BitVec 7) (t : BitVec 5) (m z : Bool) : VecOp :=
    { d := d, tag := t.toNat, m := m, z := z, srcs := [a], ok := src (s.vtag a) && dst t.toNat
      f := fun e => f (s.vtag a) t.toNat (el s a (s.vtag a) e) }

/-- The vector operation of an instruction, of any of the families above. -/
def vecOf (s : State) (i : Instr) : List VecOp :=
  ((intOp i).map (fun x => two s x.1 id (wraps x.2.1) x.2.2.1 x.2.2.2.1 x.2.2.2.2.1 x.2.2.2.2.2.1 x.2.2.2.2.2.2)).toList ++
  ((intOpX i).map (fun x => withX s isInt id (wraps x.1) x.2.1 x.2.2.1 x.2.2.2.1 x.2.2.2.2.1 x.2.2.2.2.2)).toList ++
  ((intCmpOf i).map (fun x => (if x.2.1 then withX else two) s isInt (fun _ => tagMsk) (bitOf x.1) x.2.2.1 x.2.2.2.1
    x.2.2.2.2.1 x.2.2.2.2.2.1 x.2.2.2.2.2.2)).toList ++
  (intForm s i).toList

/-- The same for the float families. -/
def floatOf (s : State) (i : Instr) : List VecOp :=
  ((floatOp s.me.fmode i).map (fun x => (if x.2.2.1 then withX else two) s x.1 id x.2.1 x.2.2.2.1 x.2.2.2.2.1 x.2.2.2.2.2.1
    x.2.2.2.2.2.2.1 x.2.2.2.2.2.2.2)).toList ++
  ((floatCmp i).map (fun x => (if x.2.1 then withX else two) s isFF8 (fun _ => tagMsk)
    (fun t u v => (b2n (compareFV x.1 (valOf s.me.fmode t u) (valOf s.me.fmode t v)).1,
      (compareFV x.1 (valOf s.me.fmode t u) (valOf s.me.fmode t v)).2)) x.2.2.1 x.2.2.2.1 x.2.2.2.2.1 x.2.2.2.2.2.1
      x.2.2.2.2.2.2)).toList ++
  ((fusedOf i).map (fun x => (if x.2.2.1 then threeX else three) s isF (fusedBits s.me.fmode x.1 x.2.1) x.2.2.2.1
    x.2.2.2.2.1 x.2.2.2.2.2.1 x.2.2.2.2.2.2.1 x.2.2.2.2.2.2.2)).toList ++
  ((floatUn s s.me.fmode i).map (fun x => one s x.1 id x.2.1 x.2.2.1 x.2.2.2.1 x.2.2.2.2.1 x.2.2.2.2.2)).toList ++
  (floatForm s s.me.fmode i).toList

/-- The first element at which an operation meets an enabled exception. -/
def FirstTrap (s : State) (o : VecOp) (k : Nat) : Prop :=
  k ∈ activeElems s o.m ∧ trapsOn s.me.enables (o.f k).2 = true ∧
  ∀ e ∈ activeElems s o.m, e < k → trapsOn s.me.enables (o.f e).2 = false

/-- The granule boundary below an element. -/
def granuleStart (v : Vec) (k : Nat) : Nat := k / 2 ^ v.gran * 2 ^ v.gran

/-- The active elements below a bound. -/
def below (s : State) (o : VecOp) (n : Nat) : List Nat := (activeElems s o.m).filter (· < n)

/-- The exceptions of the active elements below a bound. -/
def flagsBelow (s : State) (o : VecOp) (n : Nat) : Flags := (below s o n).foldl (fun a e => orF a (o.f e).2) 0

/-- The destination with its tag and the active elements below a bound written. -/
def partly (s : State) (o : VecOp) (n : Nat) : VReg :=
  ({ s.dst o.d with tag := o.tag } : VReg).writeAll s.vlim o.tag ((below s o n).map (fun e => (e, (o.f e).1)))

/-- The positions below VL that a strip cut at a bound does not write, at 0 under the z policy. -/
def zeroedFrom (s : State) (o : VecOp) (n : Nat) (v : VReg) : VReg :=
  if o.z then v.writeAll s.vlim o.tag (((List.range s.me.vec.vl).filter
    (fun e => !(e < n && selected s o.m e))).map (fun e => (e, 0)))
  else v

/-- The instruction at a trap: the thread stalls at element k on a held fault with this cause, which names the
element, and the instruction will be replayed there (07 R127). -/
def StallsAt (s t : State) (cause k : Nat) : Prop :=
  t.me.vec.al = s.me.vec.al ∧ t.me.vec.es = k ∧ t.me.regs = s.me.regs ∧ t.me.replay.isSome = true ∧
  ∃ f, t.held = f :: s.held ∧ t.me.status = .trapped f.token ∧ f.entry.record.cause = cause ∧
    f.entry.record.elem = k ∧ f.entry.record.pcres = false ∧ f.entry.record.pc = s.me.curPc

/-- A destination literal that names no tag (03 R27). -/
def badLiteral : Instr → Bool
  | .vcvt _ _ t _ _ => t == 0 || 21 < t.toNat
  | .vcvtfi _ _ t _ _ => t == 0 || 21 < t.toNat
  | .vcvtif _ _ t _ _ => t == 0 || 21 < t.toNat
  | .vcvtint _ _ t _ _ => t == 0 || 21 < t.toNat
  | _ => false

/-- A state in which each source register that holds poison carries some other tag. -/
def retagged (s : State) (srcs : List (BitVec 7)) (f : Nat → Nat) : State :=
  s.setMe { s.me with vregs := s.me.vregs.map (fun p =>
    (p.1, if p.2.tag = tagPsn && srcs.any (fun r => r.toNat == p.1) then { p.2 with tag := f p.1 } else p.2)) }

end Sys2Proof.Claims

/-- 08 R147; 09 R170 to R179, R196; 07 R125, R139: every integer element-wise instruction, the moves and `vaddr` write
the results that the rules give to their active elements, set the others by policy, and change nothing else. -/
def Obligations.IntegerVectorResults : Prop :=
  ∀ (i : Instr) (s : State) (o : VecOp), o ∈ vecOf s i → VecReady s o → exec i s = .next (vecDone s o)

/-- 08 R150 to R161, R167; 09 R180 to R189; 07 R130: the same for the floating-point families and the conversions; the
exceptions of the active elements are ORed into FPFLAGS. Two clauses of `floatUn` and `floatForm` are the model's
choice and no rule's: the bounds of `vfclamp` are read as R153 says (log entry 24), and `vpack` into I8 raises
overflow and inexact where it clamps and gives 0 with invalid for a NaN (log entry 26). -/
def Obligations.FloatVectorResults : Prop :=
  ∀ (i : Instr) (s : State) (o : VecOp), o ∈ floatOf s i → VecReady s o → exec i s = .next (vecDone s o)

/-- 03 R41; 07 R127, R130; 08 R146: at the first element with an enabled exception a strip that has performed no
effect is trimmed to the granule boundary below it, when that is not 0, and the instruction retires with the elements
below the boundary written; otherwise the thread traps with cause 0x07 there, the elements below are complete, their
flags wait for the instruction to retire, ES names the element, and the instruction will be replayed. Tags that the
instruction does not take, and a mask that is not tagged MSK, are format faults, 0x12. A source that holds poison
agrees with any tag, and every active element then faults with 0x04. -/
def Obligations.VectorExceptionsTrimOrTrap : Prop :=
  (∀ (i : Instr) (s : State) (o : VecOp) (k : Nat), o ∈ floatOf s i →
    VecReady s { o with f := fun e => ((o.f e).1, 0) } → FirstTrap s o k →
    (s.me.vec.freeze = false → 0 < granuleStart s.me.vec k → ∃ t, exec i s = .next t ∧
      t.me.vec.al = granuleStart s.me.vec k ∧ t.me.vec.vl = s.me.vec.vl ∧ t.me.vec.cause = 7 ∧
      t.me.pc = s.me.retire.pc ∧ t.me.status = s.me.status ∧
      t.me.vreg o.d.toNat = zeroedFrom s o (granuleStart s.me.vec k) (partly s o (granuleStart s.me.vec k)) ∧
      t.me.fpflags = s.me.retire.fpflags ||| ofN (flagsBelow s o (granuleStart s.me.vec k))) ∧
    ((s.me.vec.freeze = true ∨ granuleStart s.me.vec k = 0) → ∃ t r, exec i s = .next t ∧ StallsAt s t 7 k ∧
      t.me.vreg o.d.toNat = partly s o k ∧ t.me.fpflags = s.me.fpflags ∧ t.me.replay = some r ∧
      t.me.fpflags ||| r.flags =
        s.me.fpflags ||| ((s.me.replay.map (·.flags)).getD 0) ||| ofN (flagsBelow s o k))) ∧
  (∀ (i : Instr) (s : State) (o : VecOp), o ∈ vecOf s i ∨ o ∈ floatOf s i → badLiteral i = false → User s →
    (∀ r ∈ o.d :: o.srcs, r.toNat < s.me.vec.nregs) →
    ((∀ r ∈ o.srcs, s.vtag r ≠ tagPsn) → o.ok = false → Traps (exec i s) s 0x12 none) ∧
    (o.ok = true → maskOk s o.m = false → Traps (exec i s) s 0x12 none)) ∧
  ∀ (i : Instr) (s : State) (o p : VecOp) (f : Nat → Nat) (k : Nat), o ∈ vecOf s i ∨ o ∈ floatOf s i → Issues s o →
    s.me.stop = none → s.me.replay = none → maskOk s o.m = true → (∃ r ∈ o.srcs, s.vtag r = tagPsn) → o.ok = false →
    p ∈ vecOf (retagged s o.srcs f) i ∨ p ∈ floatOf (retagged s o.srcs f) i → p.ok = true →
    (activeElems s o.m).head? = some k →
    (s.me.vec.freeze = false → 0 < granuleStart s.me.vec k → ∃ t, exec i s = .next t ∧
      t.me.vec.al = granuleStart s.me.vec k ∧ t.me.vec.vl = s.me.vec.vl ∧ t.me.vec.cause = 4 ∧
      t.me.pc = s.me.retire.pc ∧ t.me.status = s.me.status) ∧
    ((s.me.vec.freeze = true ∨ granuleStart s.me.vec k = 0) → ∃ t, exec i s = .next t ∧ StallsAt s t 4 k)

/-- 07 R121: an element written reads back in its width, and no other element of the register changes; a position beyond
the register's storage is not written. -/
def Obligations.VectorElementsReadBack : Prop :=
  ∀ (v : VReg) (lim tag e k x : Nat), 1 ≤ tag → tag ≤ 17 →
    ((e + 1) * tagWidth tag ≤ lim →
      (v.write lim tag e x).read tag e = x % (if tag = 15 then 16 else 2 ^ (8 * tagWidth tag))) ∧
    (k ≠ e → (v.write lim tag e x).read tag k = v.read tag k) ∧
    (lim ≤ e * tagWidth tag → v.write lim tag e x = v)

namespace Sys2Proof.Claims

open Sys2Proof.Machine

/-! ## Strips (05 R87, R88; 07 R122, R123, R134 to R136) -/

/-- VL of a strip that opens on a grant: whole granules, unless the count or the grant is less than one. -/
def stripLength (count maxvl gran : Nat) : Nat :=
  if min count maxvl < 2 ^ gran then min count maxvl else min count maxvl / 2 ^ gran * 2 ^ gran

/-- A strip that has just opened. -/
def Opened (v : Vec) (count : Nat) : Prop :=
  v.vl = stripLength count v.maxvl v.gran ∧ v.al = v.vl ∧ v.es = 0 ∧ v.cause = 0 ∧ v.freeze = false

/-- The working lanes of a group of a core: those that no error has retired (05 R87, 10 R221). -/
def lanesOf (c : Core) (g : Nat) : Nat := 16 - ((List.range 16).filter (Map.getD g 0 c.retired).testBit).length

/-- The working groups of a core: with a working lane, and not gated or marked for gating (05 R87). -/
def workGroups (c : Core) : List Nat := (List.range 16).filter (fun g => decide (0 < lanesOf c g) && !(c.gated.testBit g))

/-- The user slots of the executing thread's core that hold a placed task. -/
def tasksHere (s : State) : List Nat :=
  (List.range 4).filter (fun k => (s.thread (s.cur / 8 * 8 + k)).task.any (fun t => !t.removed))

/-- The target of the executing thread: an even share of the working groups, the first threads taking what is left
over. -/
def shareOf (s : State) : Nat :=
  let w := (workGroups (s.coreAt (s.cur / 8))).length
  let n := max 1 (tasksHere s).length
  let j := ((tasksHere s).filter (· < s.cur % 8)).length
  max 1 (w / n + if j < w % n then 1 else 0)

/-- The working groups that no other user thread of the core holds, in rising order. -/
def groupsFree (s : State) : List Nat :=
  (workGroups (s.coreAt (s.cur / 8))).filter (fun g => (List.range 4).all (fun k =>
    k == s.cur % 8 || !((s.thread (s.cur / 8 * 8 + k)).vec.grant.testBit g)))

/-- What a strip opening on a count leaves of the grant: with a count of 0 none; else the lowest free groups up to the
target, their lanes, the longest vector that they hold, and whether they fall short (05 R88). -/
def Granted (s : State) (v : Vec) (count fmtBytes decl : Nat) : Prop :=
  let take := (groupsFree s).take (shareOf s)
  (count = 0 → v.grant = 0 ∧ v.lanes = 0 ∧ v.maxvl = 0) ∧
  (count ≠ 0 → v.grant = (take.map (2 ^ ·)).sum ∧ v.lanes = (take.map (lanesOf (s.coreAt (s.cur / 8)))).sum ∧
    v.maxvl = min 65536 (v.lanes * (16384 / (2 ^ (decl + 2) * fmtBytes))) ∧ v.starved = decide (take.length < shareOf s))

/-- The bumps of a loop body, in body order: destination, source and shift (07 R136). -/
def bumpsOf (body : List (BitVec 32)) : List (BitVec 7 × BitVec 7 × Nat) :=
  body.filterMap (fun w =>
    if w.toNat / 2 ^ 25 = 0x33 then some (w.extractLsb' 18 7, w.extractLsb' 11 7, w.toNat % 16) else none)

/-- Every bump of a strip, with its final AL. -/
def bumped (s : State) (l : List (BitVec 7 × BitVec 7 × Nat)) : State :=
  l.foldl (fun u x => u.wr x.1 (ofN ((u.rd x.2.1).toNat + s.me.vec.al * 2 ^ x.2.2))) s

/-- Loop forms: whether in parallel, the count register and the body's length. -/
def loopOf : Instr → Option (Bool × BitVec 7 × BitVec 6)
  | .loop a n => some (false, a, n)
  | .loopP a n => some (true, a, n)
  | _ => none

/-! ## Vector registers to scalars, and masks (07 R139 to R144) -/

/-- A user thread with these vector registers declared. -/
def Declared (s : State) (regs : List (BitVec 7)) : Prop := User s ∧ ∀ r ∈ regs, r.toNat < s.me.vec.nregs

/-- A register that no copy command of the thread uses as its chunk mask (11 R234). -/
def Writable (s : State) (d : BitVec 7) : Prop := Declared s [d] ∧ ∀ c ∈ s.me.cmds, c.id ≠ d.toNat

/-- The active elements of a mask register's set bits. -/
def hits (s : State) (a : BitVec 7) (m : Bool) : List Nat := (activeElems s m).filter (s.vreg a).bit

/-- What a scalar result from the active elements of a register depends on: AL, the register and, under a mask, v0 (07
R133). -/
def elemsOf (a : BitVec 7) (m : Bool) : List Effect := [.length, .vreg a.toNat] ++ if m then [.vreg 0] else []

/-- Forms that read vector state and write a scalar register: registers, tags accepted, and the result. -/
def toScalar (s : State) : Instr → Option (List (BitVec 7) × Bool × BitVec 7 × Word)
  | .vext d a b => some ([a], s.vtag a != 0 && s.vtag a ≤ 18, d,
      if (s.rd b).toNat < s.me.vec.al then extendElem (s.vtag a) (el s a (s.vtag a) (s.rd b).toNat) else 0)
  | .vtagq d a => some ([a], true, d, ofN (s.vtag a))
  | .vmaxvl d => some ([], true, d, ofN s.me.vec.maxvl)
  | .vlanes d => some ([], true, d, ofN s.me.vec.lanes)
  | .mpopc d a m => some ([a], s.vtag a == 18 && maskOk s m, d, ofN (hits s a m).length)
  | .mfirst d a m => some ([a], s.vtag a == 18 && maskOk s m, d, ((hits s a m).head?.map ofN).getD (ofI (-1)))
  | .mlast d a m => some ([a], s.vtag a == 18 && maskOk s m, d, ((hits s a m).getLast?.map ofN).getD (ofI (-1)))
  | _ => none

/-- What such a form has waited for: those whose result AL and elements decide read them once the older instructions
that can change AL, the register or the mask have finished (07 R133). -/
def scalarFrom (s : State) : Instr → State
  | .vext _ a _ => waitedFor s (elemsOf a false)
  | .mpopc _ a m => waitedFor s (elemsOf a m)
  | .mfirst _ a m => waitedFor s (elemsOf a m)
  | .mlast _ a m => waitedFor s (elemsOf a m)
  | _ => s

/-- Logical forms over masks: sources and the bit of each element below AL. -/
def maskForm (s : State) : Instr → Option (BitVec 7 × List (BitVec 7) × (Nat → Bool))
  | .mand d a b => some (d, [a, b], fun e => (s.vreg a).bit e && (s.vreg b).bit e)
  | .mor d a b => some (d, [a, b], fun e => (s.vreg a).bit e || (s.vreg b).bit e)
  | .mxor d a b => some (d, [a, b], fun e => (s.vreg a).bit e ^^ (s.vreg b).bit e)
  | .mnot d a => some (d, [a], fun e => !((s.vreg a).bit e))
  | _ => none

/-- What a forced pre-emption that asks an instruction without elements of its own to stop leaves before its effect: the
strip trimmed to the place of the request where that lies below AL (07 R131; log entry 40). -/
def answered (s : State) : State :=
  match s.me.stop with
  | none => s
  | some b =>
    if s.me.vec.freeze = true ∨ s.me.vec.al ≤ b then s
    else s.setMe { s.me with vec := { s.me.vec with al := b, cause := 0x21 }
                             cnt := { s.me.cnt with trims := (s.me.cnt.trims + 1) % 2 ^ 64 } }

/-- A register with the positions of another, of elements of w bytes, under a tag: its bytes from position 65,536 on are no
position's, and stay (07 R121, R140). -/
def shownAs (v src : VReg) (w tag : Nat) : VReg :=
  { tag := tag, bytes := src.bytes.filter (fun p => p.1 < 65536 * w) ++ v.bytes.filter (fun p => 65536 * w ≤ p.1) }

/-- Forms that give a register other contents: destination, sources, whether the tags are taken, and the new register.
-/
def regForm (s : State) : Instr → Option (BitVec 7 × List (BitVec 7) × Bool × VReg)
  | .vins d a b => some (d, [], 1 ≤ s.vtag d && s.vtag d ≤ 17 && (s.rd b).toNat < (answered s).me.vec.al,
      (s.dst d).write s.vlim (s.vtag d) (s.rd b).toNat (scal s a (s.vtag d)))
  | .vretag d a t => some (d, [a], 1 ≤ s.vtag a && s.vtag a ≤ 17 && 1 ≤ t.toNat && t.toNat ≤ 17 &&
      tagWidth (s.vtag a) == tagWidth t.toNat, shownAs (s.dst d) (s.vreg a) (tagWidth (s.vtag a)) t.toNat)
  | .vshape d a => some (d, [a], s.vtag a == 7 && (parseShape (shapeElems (s.vreg a))).isSome,
      ({ s.dst d with tag := 19 }).writeAll s.vlim 19 ((List.range 16).map (fun i => (i, (s.vreg a).elem 8 i))))
  | _ => none

/-! ## Reductions and permutations (08 R165, R166; 09 R190 to R195) -/

/-- FPFLAGS with exceptions ORed in, in flight until the instruction is known to have finished: by a wait for something of
`can`, which is what else it changes, or for every older instruction (06 R99, 07 R133; log entry 15). -/
def raisedIn (can : List Effect) (s : State) (f : Flags) : State :=
  if f = 0 then s
  else s.setMe { s.me with fpflags := s.me.fpflags ||| ofN f, flights := { flags := ofN f, can := can } :: s.me.flights }

/-- The patterns of the active elements, in ascending order. -/
def activeVals (s : State) (a : BitVec 7) (m : Bool) : List Nat := (activeElems s m).map (el s a (s.vtag a))

/-- Reductions of integers to a scalar register. -/
def intRed (s : State) : Instr → Option (BitVec 7 × BitVec 7 × Bool × Nat)
  | .vredadd d a m => some (d, a, m, lowOf (w a) ((activeVals s a m).map Int.ofNat).sum)
  | .vredmin d a m => some (d, a, m, lowOf (w a) (((activeVals s a m).map (sg (w a))).foldl min (greatest true (w a))))
  | .vredmax d a m => some (d, a, m, lowOf (w a) (((activeVals s a m).map (sg (w a))).foldl max (least true (w a))))
  | .vredminn d a m => some (d, a, m, ((activeVals s a m)).foldl min (2 ^ (8 * w a) - 1))
  | .vredmaxn d a m => some (d, a, m, ((activeVals s a m)).foldl max 0)
  | .vredand d a m => some (d, a, m, ((activeVals s a m)).foldl Nat.land (2 ^ (8 * w a) - 1))
  | .vredor d a m => some (d, a, m, ((activeVals s a m)).foldl Nat.lor 0)
  | .vredxor d a m => some (d, a, m, ((activeVals s a m)).foldl Nat.xor 0)
  | _ => none
where
  w (a : BitVec 7) : Nat := tagWidth (s.vtag a)

/-- The state that a float reduction of some active elements leaves, but for its result: the elements counted, and the
exceptions raised. -/
def reducedTo (s : State) (a : BitVec 7) (m : Bool) (f : Flags) : State :=
  countElems (activeElems s m).length (raisedIn [] (waitedFor s (elemsOf a m)) f)

/-- A cross-element form that writes a vector: destination, registers read, tags taken, result tag, policy bit, the
positions written with their patterns, and the exceptions. -/
structure CrossOp where
  d : BitVec 7
  srcs : List (BitVec 7)
  ok : Bool
  tag : Nat
  z : Bool
  out : List (Nat × Nat)
  flags : Flags

/-- The state after a cross-element form: its positions written, the other positions below VL set by the policy, the
exceptions ORed in. -/
def crossDone (s : State) (o : CrossOp) : State :=
  let u := ((raisedIn [.vreg o.d.toNat] s o.flags).setTag o.d o.tag).writeElems o.d o.tag o.out
  let u := if o.z then u.writeElems o.d o.tag
      (((List.range s.me.vec.vl).filter (fun e => !(o.out.any (fun p => p.1 == e)))).map (fun e => (e, 0))) else u
  (countElems o.out.length u).retire

section Cross

variable (s : State)

/-- The granules of a strip, and the active patterns of one. -/
def granules : List Nat := List.range ((s.me.vec.al + 2 ^ s.me.vec.gran - 1) / 2 ^ s.me.vec.gran)

def granuleVals (a : BitVec 7) (m : Bool) (j : Nat) : List Nat :=
  ((activeElems s m).filter (fun e => e / 2 ^ s.me.vec.gran == j)).map (el s a (s.vtag a))

/-- A segment reduction. -/
def seg (ok : Nat → Bool) (res : Nat → Nat) (f : Nat → List Nat → Nat × Flags) (d a : BitVec 7) (m z : Bool) : CrossOp :=
  { d := d, srcs := [a], ok := ok (s.vtag a) && maskOk s m, tag := res (s.vtag a), z := z
    out := (granules s).map (fun j => (j, (f (s.vtag a) (granuleVals s a m j)).1))
    flags := (granules s).foldl (fun x j => orF x (f (s.vtag a) (granuleVals s a m j)).2) 0 }

/-- A permutation: `src e` is the source position of element e, or none for the fill 0. -/
def perm (ok : Bool) (srcs : List (BitVec 7)) (d a : BitVec 7) (m z : Bool) (src : Nat → Option Nat) : CrossOp :=
  { d := d, srcs := srcs, ok := isData (s.vtag a) && ok && maskOk s m, tag := s.vtag a, z := z
    out := (activeElems s m).map (fun e => (e, match src e with
      | some p => if p < s.me.vec.al then el s a (s.vtag a) p else 0
      | none => 0))
    flags := 0 }

/-- Elements below AL that a mask register selects, in ascending order. -/
def chosen (b : BitVec 7) : List Nat := (List.range s.me.vec.al).filter (s.vreg b).bit

/-- An integer fold of a granule by the tag's signedness. -/
def segInt (start : Nat → Int) (op : Int → Int → Int) (t : Nat) (l : List Nat) : Nat × Flags :=
  (lowOf (tagWidth t) ((l.map (numT t)).foldl op (start t)), 0)

/-- The cross-element forms. -/
def crossOf : Instr → Option CrossOp
  | .vsegsum d a m z => some (seg s isInt id (segInt (fun _ => 0) (· + ·)) d a m z)
  | .vsegmin d a m z =>
    some (seg s isInt id (segInt (fun t => greatest (isSignedTag t) (tagWidth t)) min) d a m z)
  | .vsegmax d a m z => some (seg s isInt id (segInt (fun t => least (isSignedTag t) (tagWidth t)) max) d a m z)
  | .vsegfsum d a m z => some (seg s isFF8 (fun t => if t = 12 then 12 else 11) (pairwise s.me.fmode) d a m z)
  | .vperm d a b m z => some (perm s (isInt (s.vtag b)) [a, b] d a m z (fun e => some (el s b (s.vtag b) e)))
  | .vslup d a b m z =>
    some (perm s true [a] d a m z (fun e => if (s.rd b).toNat ≤ e then some (e - (s.rd b).toNat) else none))
  | .vsldn d a b m z => some (perm s true [a] d a m z (fun e => some (e + (s.rd b).toNat)))
  | .vrev d a m z => some (perm s true [a] d a m z (fun e => some (s.me.vec.al - 1 - e)))
  | .vcompress d a b z =>
    some { d := d, srcs := [a, b], ok := isData (s.vtag a) && s.vtag b == 18, tag := s.vtag a, z := z
           out := (List.range (chosen s b).length).map (fun i => (i, el s a (s.vtag a) ((chosen s b).getD i 0))), flags := 0 }
  | .vexpand d a b z =>
    some { d := d, srcs := [a, b], ok := isData (s.vtag a) && s.vtag b == 18, tag := s.vtag a, z := z
           out := (List.range (chosen s b).length).map (fun i => ((chosen s b).getD i 0, el s a (s.vtag a) i)), flags := 0 }
  | .viota d a m z =>
    some { d := d, srcs := [a], ok := s.vtag a == 18 && isInt s.me.vec.fmt && maskOk s m, tag := s.me.vec.fmt, z := z
           out := (activeElems s m).map (fun e =>
             (e, lowOf (tagWidth s.me.vec.fmt) ((hits s a m).filter (· < e)).length)), flags := 0 }
  | .vid d m z =>
    some { d := d, srcs := [], ok := isInt s.me.vec.fmt && maskOk s m, tag := s.me.vec.fmt, z := z
           out := (activeElems s m).map (fun e => (e, lowOf (tagWidth s.me.vec.fmt) e)), flags := 0 }
  | _ => none

end Cross

end Sys2Proof.Claims

/-- 05 R87, R88; 07 R122, R123: `setvl` takes the format, granule and flush of its word, renegotiates the grant, opens
a strip and answers with VL. The thread's groups are released first; it then holds the lowest-numbered free working
groups up to its share, and MAXVL is what their lanes hold. While no working lane group is free it waits at the same
instruction. `vdecl` sets the declaration, releases the grant and closes the strip; the registers that both
declarations have keep the positions that they still store, and the others read 0. -/
def Obligations.StripsOpenAndRepartition : Prop :=
  (∀ (s : State) (d a : BitVec 7) (g : BitVec 4) (f : BitVec 2) (t : BitVec 5),
    User s → 1 ≤ t.toNat → t.toNat ≤ 17 →
    ∃ u, exec (.setvl d a g f t) s = .next u ∧ u.mem = s.mem ∧ u.me.vec.gran = g.toNat ∧ u.me.vec.flush = f.toNat ∧
      u.me.vec.fmt = t.toNat ∧ u.me.vec.decl = s.me.vec.decl ∧ u.me.vregs = s.me.vregs ∧
      ((groupsFree s ≠ [] ∨ s.rd a = 0) →
        u.me.status = s.me.status ∧ Opened u.me.vec (s.rd a).toNat ∧
        Granted s u.me.vec (s.rd a).toNat (tagWidth t.toNat) s.me.vec.decl ∧
        u.me.vec.vl ≤ (s.rd a).toNat ∧ u.rd d = (if d = 0 then 0 else ofN u.me.vec.vl) ∧ u.me.pc = s.me.retire.pc) ∧
      ((groupsFree s = [] ∧ s.rd a ≠ 0) →
        u.me.status = .laneWait ∧ u.me.vec.grant = 0 ∧ u.me.pc = s.me.pc ∧ u.me.regs = s.me.regs)) ∧
  ∀ (s : State) (c : BitVec 3), User s → c.toNat ≤ 5 →
    ∃ u, exec (.vdecl c) s = .next u ∧ OnlyMe s u ∧ u.me.vec.decl = c.toNat ∧ u.me.vec.vl = 0 ∧ u.me.vec.al = 0 ∧
      u.me.vec.maxvl = 0 ∧ u.me.vec.grant = 0 ∧ u.me.vec.lanes = s.me.vec.lanes ∧ u.me.vec.freeze = false ∧
      u.me.vec.cause = 0 ∧
      (∀ r i, r < min s.me.vec.nregs (2 ^ (c.toNat + 2)) → i < 2 ^ 22 / 2 ^ (c.toNat + 2) →
        (u.me.vreg r).byte i = (s.me.vreg r).byte i) ∧
      (∀ r i, min s.me.vec.nregs (2 ^ (c.toNat + 2)) ≤ r → (u.me.vreg r).byte i = 0)

/-- 07 R134 to R136: a loop over 0 elements is skipped with its body; any other captures its body and stands open
before its first strip, with the count register unchanged. At the end of a pass every bump of the body adds the
strip's final AL, shifted, to its register, in body order, and the count register then falls by AL, every word of the
body finished and none of its flags in flight; the next strip
opens over what is left, on a grant of its own, or waits while no working group is free; with nothing left the thread
goes on after the body. Outside a loop `bump` adds AL shifted to a register; in a loop it changes none where it
stands. The width of a strip whose format was never set is the model's choice (log entry 23). -/
def Obligations.LoopsCountDown : Prop :=
  (∀ (i : Instr) (s : State) (par : Bool) (a : BitVec 7) (n : BitVec 6) (body : List (BitVec 32)),
    loopOf i = some (par, a, n) → User s → 1 ≤ n.toNat → n.toNat ≤ 32 →
    fetchBody s (s.me.curPc + 4) n.toNat = .ok body →
    (s.rd a = 0 → ∃ t, exec i s = .next t ∧ Jumped s t (s.me.curPc + ofN (4 * (n.toNat + 1)))) ∧
    (s.rd a ≠ 0 → ∃ t, exec i s = .next t ∧ OnlyMe s t ∧ t.me =
      { s.me with cnt := { s.me.cnt with retired := (s.me.cnt.retired + 1) % 2 ^ 64 }
                  vec := { s.me.vec with loop := some { par := par, next := 0, len := n.toNat, pc := s.me.curPc, reg := a,
                                                        body := body, open_ := false } } })) ∧
  (∀ (s : State) (l : Loop), s.me.vec.loop = some l →
    (l.open_ = true → l.next < l.len → loopEdge s l = none) ∧
    (l.open_ = false → s.rd l.reg = 0 → ∃ t, loopEdge s l = some t ∧ t.me.vec.loop = none ∧
      t.me.pc = l.pc + ofN (4 * (l.len + 1)) ∧ t.me.regs = s.me.regs) ∧
    (l.open_ = true → l.len ≤ l.next → (∀ w ∈ l.body, w.toNat / 2 ^ 25 ≠ 0x33) → l.reg ≠ 0 →
      ∃ t, loopEdge s l = some t ∧ t.rd l.reg = s.rd l.reg - ofN s.me.vec.al ∧
        t.me.vec.loop = some { l with next := 0, open_ := false } ∧ t.mem = s.mem) ∧
    (l.open_ = true → l.len ≤ l.next → ∃ t, loopEdge s l = some t ∧
      t.me.flights = [] ∧ t.me.fpflags = s.me.fpflags ∧
      t.me.regs = ((bumped s (bumpsOf l.body)).wr l.reg
        ((bumped s (bumpsOf l.body)).rd l.reg - ofN s.me.vec.al)).me.regs ∧
      t.me.vec.loop = some { l with next := 0, open_ := false } ∧ t.mem = s.mem) ∧
    (l.open_ = false → s.rd l.reg ≠ 0 → groupsFree s ≠ [] →
      ∃ t, loopEdge s l = some t ∧ Opened t.me.vec (s.rd l.reg).toNat ∧
        Granted s t.me.vec (s.rd l.reg).toNat (fmtWidth s.me.vec) s.me.vec.decl ∧
        t.me.vec.loop = some { l with next := 0, open_ := true } ∧ t.me.regs = s.me.regs ∧ t.mem = s.mem) ∧
    (l.open_ = false → s.rd l.reg ≠ 0 → groupsFree s = [] → ∃ t, loopEdge s l = some t ∧
      t.me.status = .laneWait ∧ t.me.vec.grant = 0 ∧ t.me.vec.loop = some l ∧ t.me.regs = s.me.regs ∧ t.mem = s.mem)) ∧
  ∀ (s : State) (d a : BitVec 7) (k : BitVec 4), User s →
    (s.me.vec.loop = none → Answers (exec (.bump d a k) s) (lengthRead s) d (ofN ((s.rd a).toNat + s.me.vec.al * 2 ^ k.toNat))) ∧
    (s.me.vec.loop.isSome = true → WentOn (exec (.bump d a k) s) s)

/-- No forced pre-emption cuts an instruction that begins short of AL: none waits for it, FREEZE is set, or the strip has
ended below the place where it would be cut (07 R131). -/
def Sys2Proof.Claims.Unstopped (s : State) : Prop :=
  s.me.vec.freeze = true ∨ ∀ b, s.me.stop = some b → s.me.vec.al ≤ b

/-- A logical form that has written the bits of a mask register below a bound. -/
def Sys2Proof.Claims.MaskWritten (s t : State) (d : BitVec 7) (f : Nat → Bool) (n : Nat) : Prop :=
  OnlyMe s t ∧ (t.me.vreg d.toNat).tag = 18 ∧
  (∀ e, e < n → e / 8 < s.vlim → (t.me.vreg d.toNat).bit e = f e) ∧
  (∀ e, n ≤ e → (t.me.vreg d.toNat).bit e = (s.me.vreg d.toNat).bit e) ∧
  (∀ r, r ≠ d.toNat → t.me.vreg r = s.me.vreg r) ∧ t.me.regs = s.me.regs

/-- 07 R131, R133, R139 to R144: the forms that read vector state into a scalar register, once what can change it has
finished; the logical forms, which write bits below AL and leave the rest of the mask register, and which a forced
pre-emption trims to the granule boundary below the place where it cuts them; an element below AL inserted (one from
AL up is not), a register given another tag of its width, and a shape record checked and tagged; these three answer a
forced pre-emption too, which trims the strip before their effect (log entry 40). No other register changes. -/
def Obligations.VectorRegisterForms : Prop :=
  (∀ (i : Instr) (s : State) (regs : List (BitVec 7)) (d : BitVec 7) (v : Word),
    toScalar s i = some (regs, true, d, v) → Declared s regs → Answers (exec i s) (scalarFrom s i) d v) ∧
  (∀ (i : Instr) (s : State) (d : BitVec 7) (srcs : List (BitVec 7)) (f : Nat → Bool), maskForm s i = some (d, srcs, f) →
    Writable s d → Declared s srcs → (∀ r ∈ srcs, s.vtag r = 18) → s.me.replay = none →
    (Unstopped s → ∃ t, exec i s = .next t ∧ MaskWritten s t d f s.me.vec.al ∧ t.me.vec = s.me.retire.vec) ∧
    (∀ b, s.me.stop = some b → b < s.me.vec.al → s.me.vec.freeze = false → 0 < granuleStart s.me.vec b →
      ∃ t, exec i s = .next t ∧ MaskWritten s t d f (granuleStart s.me.vec b) ∧
        t.me.vec.al = granuleStart s.me.vec b ∧ t.me.vec.cause = 0x21 ∧ t.me.pc = s.me.retire.pc)) ∧
  ∀ (i : Instr) (s : State) (d : BitVec 7) (srcs : List (BitVec 7)) (v : VReg), regForm s i = some (d, srcs, true, v) →
    Writable s d → Declared s srcs →
    exec i s = .next ((answered s).setMe ((answered s).me.setVreg d.toNat v)).retire ∧
    ∀ a b, 1 ≤ s.vtag d → s.vtag d ≤ 17 → (answered s).me.vec.al ≤ (s.rd b).toNat →
      WentOn (exec (.vins d a b) s) (answered s)

/-- 08 R147, R165, R166; 09 R190 to R195; 19 R326: a reduction folds the active elements into a scalar register; an
integer one extends its result as `vext` does; a float one, `vfredsum`, `vfredseq`, `vfredmin` or `vfredmax`, goes on
with the pattern of its fold, zero-extended, ORs its exceptions into FPFLAGS and never traps. Either reads AL, the
register and the mask once the older instructions that can change them have finished (07 R133). Segment
reductions, permutations, compress, expand and the index forms write the positions that the rules name, and set the
others below VL by policy. The deprecated reduction is the integer sum or the ordered float sum over the whole AL. How
a sum flushes is the model's choice, and no clause over float sums states a rule whole (log entry 24). -/
def Obligations.ReductionsAndPermutations : Prop :=
  (∀ (i : Instr) (s : State) (d a : BitVec 7) (m : Bool) (x : Nat), Declared s [a] → maskOk s m = true →
    (intRed s i = some (d, a, m, x) → isInt (s.vtag a) = true → (∀ v ∈ activeVals s a m, v < 2 ^ (8 * tagWidth (s.vtag a))) →
      Answers (exec i s) (reducedTo s a m 0) d (extendElem (s.vtag a) x))) ∧
  (∀ (s : State) (d a : BitVec 7) (m : Bool), Declared s [a] → maskOk s m = true → isFF8 (s.vtag a) = true →
    let q := s.me.fmode
    let t := s.vtag a
    let l := activeVals s a m
    Answers (exec (.vfredsum d a m) s) (reducedTo s a m (pairwise q t l).2) d (ofN (pairwise q t l).1) ∧
    Answers (exec (.vfredseq d a m) s) (reducedTo s a m (ascending q t l).2) d (ofN (ascending q t l).1) ∧
    Answers (exec (.vfredmin d a m) s) (reducedTo s a m (extreme false q t l).2) d (ofN (extreme false q t l).1) ∧
    Answers (exec (.vfredmax d a m) s) (reducedTo s a m (extreme true q t l).2) d (ofN (extreme true q t l).1)) ∧
  (∀ (i : Instr) (s : State) (o : CrossOp), crossOf s i = some o → o.ok = true → Writable s o.d → Declared s o.srcs →
    exec i s = .next (crossDone s o)) ∧
  ∀ (s : State) (d a : BitVec 7), bitAt (s.env s.cur).features 0 = true → Declared s [a] → s.me.stop = none →
    let u := waitedFor (s.setMe { s.me with vec := { s.me.vec with es := 0 } }) (elemsOf a false)
    let l := activeVals u a false
    (isInt (s.vtag a) = true → (∀ v ∈ l, v < 2 ^ (8 * tagWidth (s.vtag a))) →
      Answers (exec (.dvred d a) s) (countElems l.length u) d
        (extendElem (s.vtag a) (lowOf (tagWidth (s.vtag a)) (l.map Int.ofNat).sum))) ∧
    (isF (s.vtag a) = true →
      let r := ascending s.me.fmode (s.vtag a) l
      Answers (exec (.dvred d a) s) (countElems l.length (raisedIn [.steps] u r.2)) d (ofN r.1))

namespace Sys2Proof.Claims

open Sys2Proof.Machine

/-! ## Vector memory (11 R222 to R231) -/

/-- A load of elements: destination, registers read, tags taken, mask and policy bits, the address of each element,
and the elements that the form can read. -/
structure VLoad where
  d : BitVec 7
  srcs : List (BitVec 7)
  ok : Bool
  m : Bool
  z : Bool
  addr : Nat → Word
  also : Nat → Bool

section Addr

variable (s : State)

/-- The width of the strip's format, and the step of unit stride: half a byte for FP4. -/
def wf : Nat := tagWidth s.me.vec.fmt
def unitStep (e : Nat) : Nat := if s.me.vec.fmt = 15 then e / 2 else e * wf s

def unitAt (a b : BitVec 7) (e : Nat) : Word := s.rd a + s.rd b + ofN (unitStep s e)
def strideAt (base : Word) (a b : BitVec 7) (e : Nat) : Word := base + s.rd a + ofN e * s.rd b
def offsetAt (a b : BitVec 7) (e : Nat) : Word := s.rd a + ofN ((s.vreg b).elem 8 e)
def tileAt (a b : BitVec 7) (outer inner : Nat) : Word := s.rd a + ofN outer * s.rd b + ofN (inner * wf s)

/-- The format is set (07 R120 to R122: 1 to 17); FP4 moves by unit stride alone (11 R223). -/
def fmtOk (fp4 : Bool) : Bool := 1 ≤ s.me.vec.fmt && s.me.vec.fmt ≤ 17 && (fp4 || s.me.vec.fmt != 15)

/-- An offsets register holds I64 or N64. -/
def offsets (b : BitVec 7) : Bool := s.vtag b == 7 || s.vtag b == 8

def plainLoad (d : BitVec 7) (m z fp4 : Bool) (addr : Nat → Word) : VLoad :=
  { d := d, srcs := [], ok := fmtOk s fp4 && maskOk s m, m := m, z := z, addr := addr, also := fun _ => true }

/-- The loads. -/
def vloadOf : Instr → Option VLoad
  | .vld d a b m z => some (plainLoad s d m z true (unitAt s a b))
  | .vldNt d a b m z => some (plainLoad s d m z true (unitAt s a b))
  | .vlds d a b m z => some (plainLoad s d m z false (strideAt s 0 a b))
  | .vldsp d a b m z => some (plainLoad s d m z false (strideAt s 0x7FFFFFC0000000 a b))
  | .mld d a b z => some (plainLoad s d false z false (fun e => tileAt s a b (e / 2 ^ s.me.vec.gran) (e % 2 ^ s.me.vec.gran)))
  | .mldt d a b z => some (plainLoad s d false z false (fun e => tileAt s a b (e % 2 ^ s.me.vec.gran) (e / 2 ^ s.me.vec.gran)))
  | .vgather d a b m z => some { plainLoad s d m z false (offsetAt s a b) with
      srcs := [b], ok := fmtOk s false && offsets s b && maskOk s m }
  | .vgatherNt d a b m z => some { plainLoad s d m z false (offsetAt s a b) with
      srcs := [b], ok := fmtOk s false && offsets s b && maskOk s m }
  | .dvlds2 d a b => some { plainLoad s d false false false (fun e => strideAt s 0 a b (e / 2) + ofN (e % 2 * wf s)) with
      ok := fmtOk s false && bitAt (s.env s.cur).features 0 && s.me.replay.isNone }
  | .tld d a m z => (stripShape s a).map (fun h => { plainLoad s d m z false h.addr with
      srcs := [a], ok := maskOk s m, also := fun e => e < h.count })
  | _ => none

/-- The elements that a load reads. -/
def VLoad.elems (o : VLoad) : List Nat := (activeElems s o.m).filter o.also

/-- Where an element lands when its checks pass. -/
def VLoad.place (o : VLoad) (e : Nat) : Except Stop Place :=
  checkRead s (s.env s.cur) (o.addr e) (wf s) (if s.me.vec.fmt = 15 then 1 else wf s)

/-- The bytes of the elements that a load reads. -/
def VLoad.bytes (o : VLoad) : List Nat :=
  (o.elems s).flatMap (fun e => match o.place s e with
    | .ok p => p.pas
    | .error _ => [])

/-- The pattern that the thread sees at a place: a nibble of its byte for FP4. -/
def seenAt (e : Nat) (p : Place) : Nat :=
  let x := leNat (p.pas.map (fun pa => (s.viewByte s.cur pa).1))
  if s.me.vec.fmt = 15 then x / 16 ^ (e % 2) % 16 else x

/-- A store of elements. -/
structure VStore where
  d : BitVec 7
  srcs : List (BitVec 7)
  ok : Bool
  m : Bool
  addr : Nat → Word
  also : Nat → Bool
  /-- Effectful: it sets FREEZE. -/
  ordered : Bool

def plainStore (d : BitVec 7) (m fp4 : Bool) (addr : Nat → Word) : VStore :=
  { d := d, srcs := [], ok := fmtOk s fp4 && s.vtag d == s.me.vec.fmt && maskOk s m, m := m, addr := addr
    also := fun _ => true, ordered := false }

/-- The stores. -/
def vstoreOf : Instr → Option VStore
  | .vst d a b m => some (plainStore s d m true (unitAt s a b))
  | .vstNt d a b m => some (plainStore s d m true (unitAt s a b))
  | .vsts d a b m => some (plainStore s d m false (strideAt s 0 a b))
  | .vstsp d a b m => some (plainStore s d m false (strideAt s 0x7FFFFFC0000000 a b))
  | .vscatter d a b m => some { plainStore s d m false (offsetAt s a b) with
      srcs := [b], ok := fmtOk s false && s.vtag d == s.me.vec.fmt && offsets s b && maskOk s m }
  | .vscatterO d a b m => some { plainStore s d m false (offsetAt s a b) with
      srcs := [b], ok := fmtOk s false && s.vtag d == s.me.vec.fmt && offsets s b && maskOk s m, ordered := true }
  | .tst d a m => (stripShape s a).map (fun h => { plainStore s d m false h.addr with
      srcs := [a], also := fun e => e < h.count })
  | _ => none

def VStore.elems (o : VStore) : List Nat := (activeElems s o.m).filter o.also

def VStore.place (o : VStore) (e : Nat) : Except Stop Place :=
  checkWrite s (s.env s.cur) (o.addr e) (wf s) (if s.me.vec.fmt = 15 then 1 else wf s)

/-- The addresses that a store's elements land on. -/
def VStore.lands (o : VStore) (pa : Nat) : Prop := ∃ e ∈ o.elems s, ∃ p, o.place s e = .ok p ∧ pa ∈ p.pas

/-- A vector atomic: destination and operand, tags, mask and policy bits, the base and the offsets, whether a PCIe
AtomicOp carries it, and the new value of an element from the old one. -/
structure VAmo where
  d : BitVec 7
  a : BitVec 7
  b : BitVec 7
  m : Bool
  z : Bool
  fmtOk : Bool
  onHost : Bool
  op : Nat → Nat → Nat

/-- An integer result in the strip's width and signedness. -/
def vint (op : Int → Int → Int) (old x : Nat) : Nat :=
  lowOf (wf s) (op (numT s.me.vec.fmt old) (numT s.me.vec.fmt x))

def intFmt : Bool := 5 ≤ s.me.vec.fmt && s.me.vec.fmt ≤ 8

def vamoOf : Instr → Option VAmo
  | .vamoadd d a b m z => some ⟨d, a, b, m, z, intFmt s, true, vint s (· + ·)⟩
  | .vamomin d a b m z => some ⟨d, a, b, m, z, intFmt s, false, vint s min⟩
  | .vamomax d a b m z => some ⟨d, a, b, m, z, intFmt s, false, vint s max⟩
  | .vamoswap d a b m z => some ⟨d, a, b, m, z, intFmt s, true, fun _ x => x⟩
  | .vamoand d a b m z => some ⟨d, a, b, m, z, intFmt s, false, Nat.land⟩
  | .vamoor d a b m z => some ⟨d, a, b, m, z, intFmt s, false, Nat.lor⟩
  | .vamoxor d a b m z => some ⟨d, a, b, m, z, intFmt s, false, Nat.xor⟩
  | .vamofadd d a b m z =>
    some ⟨d, a, b, m, z, s.me.vec.fmt == 11, false,
      fun o x => (fmtFp32.result 0 false (addFV 0 (fmtFp32.decode false o) (fmtFp32.decode false x))).1⟩
  | _ => none

/-- Elements performed one after another, each one read-modify-write at its home. -/
def performAll (op : Nat → Nat → Nat) : State → List (Nat × Place) → List (Nat × Nat) × State
  | u, [] => ([], u)
  | u, (e, p) :: r =>
    let x := atomicAt u u.cur p (op e)
    ((e, x.1) :: (performAll op x.2 r).1, (performAll op x.2 r).2)

end Addr

/-! ## Operand records (12 R247 to R250, R260) -/

/-- A record register as a `qld` or `qmk` leaves it. -/
def freshReg (r : OpRec) (slot : Option Nat) : QReg := { oprec := r, slot := slot, gen := r.gen, k0 := 0, j0 := 0 }

/-! ## Tiles (12 R242 to R256) -/

/-- A user thread whose task has the tile, and the vector registers declared. -/
def TileReady (s : State) (d : BitVec 3) (regs : List (BitVec 7)) : Prop :=
  Declared s regs ∧ ∃ k, s.me.task = some k ∧ d.toNat < k.tiles

/-- An element of a tile: row i, column j. -/
def tileAtIJ (t : Tile) (i j : Nat) : BitVec 32 := Map.getD (128 * i + j) 0 t.elems

/-- A tile's contents as a map: places in rising order. -/
def TileForm (t : Tile) : Prop := (t.elems.map (·.1)).Pairwise (· < ·)

/-- An outer product: whether it is negated, the row operand's step per group, its operands, and what its form asks for
besides (12 R244; for `dmmac` the feature DEP, 19 R326). -/
structure Outer where
  neg : Bool
  slide : Nat
  d : BitVec 3
  a : BitVec 7
  b : BitVec 7
  m : Bool
  ok : Bool

def mopOf (s : State) : Instr → Option Outer
  | .mop d a b m => some ⟨false, 128, d, a, b, m, s.me.vec.gran == 7⟩
  | .mops d a b m => some ⟨false, 1, d, a, b, m, s.me.vec.gran == 7⟩
  | .mopn d a b m => some ⟨true, 128, d, a, b, m, s.me.vec.gran == 7⟩
  | .dmmac d a b => some ⟨false, 128, d, a, b, false, bitAt (s.env s.cur).features 0⟩
  | _ => none

/-- The operand's exact value at a position: 0 at or above AL and where the mask is clear. -/
def operand (s : State) (m : Bool) (r : BitVec 7) (e : Nat) : FV := operandVal s s.me.fmode m (s.vreg r) e

/-- One element of a tile after the groups of an outer product, each adding its product in turn. -/
def mopElem (s : State) (neg : Bool) (slide : Nat) (a b : BitVec 7) (m : Bool) (tag i j : Nat) (old : BitVec 32) :
    List Nat → BitVec 32
  | [] => old
  | g :: gs =>
    let p := (mulFV (operand s m a (slide * g + i)) (operand s m b (128 * g + j))).1
    mopElem s neg slide a b m tag i j (accTile tag s.me.fmode old (if neg then p.negate else p)).1 gs

/-- The instruction retired on a strip cut to its first `n` elements, with the cause that cut it (07 R127). -/
def Trimmed (s t : State) (cause n : Nat) : Prop :=
  t.me.vec.al = n ∧ t.me.vec.vl = s.me.vec.vl ∧ t.me.vec.cause = cause ∧ t.me.pc = s.me.retire.pc ∧
  t.me.status = s.me.status ∧ t.me.regs = s.me.regs

/-- What a fault at element `e` does to an instruction: before any effect of the strip it trims to the granule boundary
below, unless that is 0; otherwise the thread stalls at the element (07 R127). -/
def TrimsOrStalls (o : Out) (s : State) (cause e : Nat) : Prop :=
  (s.me.vec.freeze = false → 0 < granuleStart s.me.vec e → ∃ t, o = .next t ∧ Trimmed s t cause (granuleStart s.me.vec e)) ∧
  ((s.me.vec.freeze = true ∨ granuleStart s.me.vec e = 0) → ∃ t, o = .next t ∧ StallsAt s t cause e)

/-- From `u` on no byte enters a home but those of one record, which the device writes to a fault queue; none where no
context has a queue (19 R312). -/
def RecordOnly (u t : State) : Prop :=
  (∃ l, t.hist = l ++ u.hist ∧ l.length ≤ 64 ∧ (∀ x ∈ l, x.who = .device ∧ x.kind = .posted) ∧
    (∀ pa, (∀ x ∈ l, x.pa ≠ pa) → t.home pa = u.home pa) ∧ (l = [] → t.mem = u.mem)) ∧
  ((∀ c, (u.ctxAt c).fqsize = 0) → t.mem = u.mem)

/-- The first element that fails its check, and how: the ones before it pass. -/
def FirstFault (elems : List Nat) (place : Nat → Except Stop Place) (e : Nat) (f : Flt) : Prop :=
  e ∈ elems ∧ place e = .error (.flt f) ∧ ∀ k ∈ elems, k < e → ∃ p, place k = .ok p

end Sys2Proof.Claims

/-- 11 R222 to R226, R229, R230; 07 R125, R127; 19 R326: a vector load whose elements all pass their checks writes
what the thread sees at each element's address, where a byte that its own atomic has written shows the atomic's result or
a later value (06 R112), sets the other positions by policy, and changes no memory and no other register: z sets the
positions below VL that the form does not write to 0, and without it they stand. `vld.bc` reads once, for the lowest
active element, and writes the value to every active element. At the first element that fails a check the load is trimmed
or traps, with the elements below it loaded; a deprecated load is never trimmed (19 R327). -/
def Obligations.VectorLoadsRead : Prop :=
  (∀ (i : Instr) (s : State) (o : VLoad), vloadOf s i = some o → o.ok = true → Writable s o.d → Declared s o.srcs →
    s.me.stop = none → s.rev1 s.cur = false → s.me.vec.al ≤ s.me.vec.vl → s.me.vec.vl * wf s ≤ s.vlim →
    ((∀ e ∈ o.elems s, ∃ p, o.place s e = .ok p) →
      ∃ t, exec i s = .next t ∧ t.mem = s.mem ∧ t.hist = s.hist ∧ t.me.regs = s.me.regs ∧
        (t.me.vreg o.d.toNat).tag = s.me.vec.fmt ∧ RereadsAtomics s t (o.bytes s) ∧
        (∀ e ∈ o.elems s, ∀ p, o.place s e = .ok p →
          (t.me.vreg o.d.toNat).read s.me.vec.fmt e = seenAt (withSnap s t) e p % 2 ^ (8 * wf s)) ∧
        (o.z = false → ∀ e, e ∉ o.elems s →
          (t.me.vreg o.d.toNat).read s.me.vec.fmt e = (s.me.vreg o.d.toNat).read s.me.vec.fmt e) ∧
        (o.z = true → (o.m = true → o.d ≠ 0) → ∀ e, e < s.me.vec.vl →
          ¬ (e < s.me.vec.al ∧ selected s o.m e = true ∧ o.also e = true) →
          (t.me.vreg o.d.toNat).read s.me.vec.fmt e = 0) ∧
        (∀ r, r ≠ o.d.toNat → t.me.vreg r = s.me.vreg r) ∧ t.me.pc = s.me.retire.pc ∧ t.me.status = s.me.status) ∧
    (∀ e x, FirstFault (o.elems s) (o.place s) e x →
      (deprecated i = false → TrimsOrStalls (exec i s) s x.cause e) ∧
      (deprecated i = true → ∃ t, exec i s = .next t ∧ StallsAt s t x.cause e ∧ t.me.mstep = e) ∧
      ∃ t, exec i s = .next t ∧ SnapTakes s t (o.bytes s) ∧
        ∀ k ∈ o.elems s, ∀ p, k < (if t.me.vec.al < s.me.vec.al then t.me.vec.al else e) →
        o.place s k = .ok p → (t.me.vreg o.d.toNat).read s.me.vec.fmt k = seenAt (withSnap s t) k p % 2 ^ (8 * wf s))) ∧
  (∀ (s : State) (d a b : BitVec 7) (m z : Bool) (e : Nat) (p : Place), fmtOk s false = true → maskOk s m = true →
    Writable s d → s.me.stop = none → s.rev1 s.cur = false → (activeElems s m).head? = some e →
    checkRead s (s.env s.cur) (s.rd a + s.rd b) (wf s) (wf s) = .ok p → s.me.vec.al ≤ s.me.vec.vl →
    s.me.vec.vl * wf s ≤ s.vlim →
    ∃ t, exec (.vldBc d a b m z) s = .next t ∧ t.mem = s.mem ∧ t.me.regs = s.me.regs ∧
      (t.me.vreg d.toNat).tag = s.me.vec.fmt ∧ RereadsAtomics s t p.pas ∧
      ∀ k ∈ activeElems s m, (t.me.vreg d.toNat).read s.me.vec.fmt k =
        leNat (p.pas.map (fun pa => ((withSnap s t).viewByte s.cur pa).1)) % 2 ^ (8 * wf s))

/-- 11 R222 to R226, R229, R230; 07 R127; 17 R288; 19 R326: a vector store whose elements all pass their checks makes
them pending bytes of the thread and writes nothing else: every byte that no element lands on reads as before, and an
element that shares no byte with another reads back. The ordered scatter sets FREEZE when it performs an element. At
the first element that fails a check a store is trimmed or traps, and still no byte changes that no element lands on.
`dcopy` reads each element and then writes it (19 R327): every byte that no element lands on reads as before, and an
element whose bytes no other element's writes meet arrives whole. That no home changes while the bytes are pending is
the model's choice: 17 R287 lets a store reach its home before its publication, which here is a step of its own (log
entry 10). -/
def Obligations.VectorStoresPend : Prop :=
  (∀ (i : Instr) (s : State) (o : VStore), vstoreOf s i = some o → o.ok = true → Declared s (o.d :: o.srcs) →
    s.me.stop = none → s.rev1 s.cur = false →
    ((∀ e ∈ o.elems s, ∃ p, o.place s e = .ok p) →
      ∃ t, exec i s = .next t ∧ OnlyMeL1 s t ∧
        t.me = { s.me.retire with pend := t.me.pend, cnt := t.me.cnt, vec := t.me.vec } ∧
        t.me.vec = { s.me.retire.vec with freeze := s.me.vec.freeze || (o.ordered && !(o.elems s).isEmpty) } ∧
        (∀ pa, ¬ o.lands s pa → (t.viewByte s.cur pa).1 = (s.viewByte s.cur pa).1) ∧
        (∀ e p, e ∈ o.elems s → o.place s e = .ok p → s.me.vec.fmt ≠ 15 → p.pas.Nodup →
          (∀ k ∈ o.elems s, k ≠ e → ∀ q, o.place s k = .ok q → ∀ pa ∈ p.pas, pa ∉ q.pas) →
          ∀ k, k < p.pas.length →
            (t.viewByte s.cur (p.pas.getD k 0)).1 = byteOf (leBytes (wf s) ((s.vreg o.d).read s.me.vec.fmt e)) k)) ∧
    (∀ e x, FirstFault (o.elems s) (o.place s) e x →
      TrimsOrStalls (exec i s) s x.cause e ∧
      ∃ t, exec i s = .next t ∧
        (t.me.vec.freeze = (s.me.vec.freeze || (o.ordered && (o.elems s).any (fun k =>
          decide (k < if t.me.vec.al < s.me.vec.al then t.me.vec.al else e))))) ∧
        ∀ pa, ¬ o.lands s pa → (∀ q ∈ t.me.pend, q.pa = pa → q ∈ s.me.pend))) ∧
  ∀ (s : State) (a b : BitVec 7) (src dst : Nat → Place), Declared s [] → s.me.replay = none → s.me.stop = none →
    fmtOk s false = true → bitAt (s.env s.cur).features 0 = true → s.rev1 s.cur = false →
    (∀ e, e < s.me.vec.al → checkRead s (s.env s.cur) (s.rd b + ofN (e * wf s)) (wf s) (wf s) = .ok (src e) ∧
      checkWrite s (s.env s.cur) (s.rd a + ofN (e * wf s)) (wf s) (wf s) = .ok (dst e)) →
    ∃ t, exec (.dcopy a b) s = .next t ∧ t = { s with threads := t.threads, fresh := t.fresh } ∧
      (∀ k, k ≠ s.cur → t.thread k = s.thread k) ∧ RereadsAtomics s t ((List.range s.me.vec.al).flatMap (fun e => (src e).pas)) ∧
      t.me = { s.me.retire with pend := t.me.pend, cnt := t.me.cnt, seen := t.me.seen, snap := t.me.snap
                                reload := t.me.reload } ∧
      (∀ pa, (∀ e, e < s.me.vec.al → pa ∉ (dst e).pas) →
        (t.viewByte s.cur pa).1 = ((withSnap s t).viewByte s.cur pa).1) ∧
      ∀ e, e < s.me.vec.al → (dst e).pas.Nodup →
        (∀ k, k < s.me.vec.al → k ≠ e → ∀ pa ∈ (dst e).pas, pa ∉ (dst k).pas) →
        (∀ k, k < e → ∀ pa ∈ (src e).pas, pa ∉ (dst k).pas) →
        ∀ j, j < (dst e).pas.length → (t.viewByte s.cur ((dst e).pas.getD j 0)).1 =
          ((withSnap s t).viewByte s.cur ((src e).pas.getD j 0)).1

/-- 11 R227, R228; 07 R127: a vector atomic performs its active elements in ascending order, each as one
read-modify-write at its home, writes the old values to vd and sets FREEZE. At the first element that fails a check it
is trimmed or traps, with the elements below performed at their homes and no other; with the first active element at fault
nothing is performed and the thread stalls there. Beyond the elements below no byte of memory changes but the at most 64
that the device writes for the fault's record (19 R312), and none while no context has a fault queue. An AtomicOp that
host memory answers with an error (cause 0x05) may have been performed there (11 R228). -/
def Obligations.VectorAtomicsInOrder : Prop :=
  ∀ (i : Instr) (s : State) (o : VAmo) (l : List (Nat × Place)), vamoOf s i = some o → o.fmtOk = true →
    s.vtag o.d = s.me.vec.fmt → offsets s o.b = true → maskOk s o.m = true → Writable s o.d → Declared s [o.b] →
    s.me.stop = none →
    (∀ e x, (activeElems s o.m).head? = some e → granuleStart s.me.vec e = 0 →
      checkElemAtomic s (offsetAt s o.a o.b e) (wf s) o.onHost = .error (.flt x) → x.cause ≠ 5 →
      ∃ t, exec i s = .next t ∧ StallsAt s t x.cause e ∧ t.me.vec.freeze = s.me.vec.freeze ∧ RecordOnly s t) ∧
    (∀ e x, FirstFault (activeElems s o.m) (fun k => checkElemAtomic s (offsetAt s o.a o.b k) (wf s) o.onHost) e x →
      TrimsOrStalls (exec i s) s x.cause e ∧
      ∃ t, exec i s = .next t ∧
        let n := if t.me.vec.al < s.me.vec.al then t.me.vec.al else e
        (t.me.vec.freeze = (s.me.vec.freeze || (activeElems s o.m).any (fun k => decide (k < n)))) ∧
        ∀ r : List (Nat × Place), r.map (·.1) = (activeElems s o.m).filter (fun k => decide (k < n)) →
          (∀ y ∈ r, checkElemAtomic s (offsetAt s o.a o.b y.1) (wf s) o.onHost = .ok y.2) →
          let done := performAll (fun k old => o.op old (el s o.d s.me.vec.fmt k)) (s.setTag o.d s.me.vec.fmt) r
          (x.cause ≠ 5 → RecordOnly done.2 t) ∧
          (s.me.vec.al ≤ s.me.vec.vl → s.me.vec.vl * wf s ≤ s.vlim →
            ∀ y ∈ done.1, (t.me.vreg o.d.toNat).read s.me.vec.fmt y.1 = y.2 % 2 ^ (8 * wf s))) ∧
    (l.map (·.1) = activeElems s o.m →
    (∀ x ∈ l, checkElemAtomic s (offsetAt s o.a o.b x.1) (wf s) o.onHost = .ok x.2) →
    ∃ t, exec i s = .next t ∧
      t.mem = (performAll (fun e old => o.op old (el s o.d s.me.vec.fmt e)) (s.setTag o.d s.me.vec.fmt) l).2.mem ∧
      (t.me.vec.freeze = (s.me.vec.freeze || !l.isEmpty)) ∧ t.me.regs = s.me.regs ∧
      (t.me.vreg o.d.toNat).tag = s.me.vec.fmt ∧ (∀ r, r ≠ o.d.toNat → t.me.vreg r = s.me.vreg r) ∧
      t.me.pc = s.me.retire.pc ∧
      (s.me.vec.al ≤ s.me.vec.vl → s.me.vec.vl * wf s ≤ s.vlim →
        ∀ x ∈ (performAll (fun e old => o.op old (el s o.d s.me.vec.fmt e)) (s.setTag o.d s.me.vec.fmt) l).1,
          (t.me.vreg o.d.toNat).read s.me.vec.fmt x.1 = x.2 % 2 ^ (8 * wf s)))

/-- 08 R161; 09 R188: `vcbdec` writes eight positions of vd for each active codeword, below position 65,536; with a
scale of 255 every weight is NaN, and any other weight is 1/2 or 3/2 under the scale with the codeword's sign. -/
def Obligations.CodewordsDecode : Prop :=
  (∀ (s : State) (d a b : BitVec 7) (m z : Bool), s.vtag a = 17 → s.vtag b = 16 → maskOk s m = true → Writable s d →
    Declared s [a, b] → s.me.stop = none →
    (∀ e ∈ activeElems s m, trapsOn s.me.enables
      ((cb2Words s.me.fmode (el s a 17 e) (el s b 16 (e / 8))).foldl (fun f r => orF f r.2) 0) = false) →
    ∃ t, exec (.vcbdec d a b m z) s = .next t ∧ t.mem = s.mem ∧ t.me.regs = s.me.regs ∧ t.me.pc = s.me.retire.pc ∧
      (t.me.vreg d.toNat).tag = 11 ∧ t.me.vec.al = s.me.vec.al ∧
      ∀ e ∈ activeElems s m, ∀ k, k < 8 → 8 * e + k < 65536 → (8 * e + k + 1) * 4 ≤ s.vlim →
        (t.me.vreg d.toNat).read 11 (8 * e + k) =
          ((cb2Words s.me.fmode (el s a 17 e) (el s b 16 (e / 8))).getD k (0, 0)).1 % 2 ^ 32) ∧
  ∀ (x sc k : Nat), k < 8 → (cb2dec x sc).length = 8 ∧
    (sc = 255 → ((cb2dec x sc).getD k (.fin false 0 0)).isNan = true) ∧
    (sc ≠ 255 → ((cb2dec x sc).getD k (.nan false)) =
      .fin ((cb2Signs x).getD k false) (if x.testBit (8 + k) then 3 else 1) ((sc : Int) - 128))

/-- 12 R249, R250, R260: `qld` reads its slot at the home and binds the record, when its owner is on the key ring; `qmk`
makes one of a register's bytes; `qdrop` empties the register; `qwin` moves the cursor within the record. Each answers a
forced pre-emption, which trims the strip before its effect (07 R131; log entry 40). -/
def Obligations.RecordRegistersBound : Prop :=
  ∀ (s u : State) (q : BitVec 4) (a b : BitVec 7) (r : OpRec) (h : QReg), User s →
    ((s.rd a).toNat < s.myCtx.budget.records → readSlot s (s.rd a).toNat = .ok (.plane r, u) → s.onRing r.owner = true →
      exec (.qld q a) s = .next ((answered u).setQreg q (freshReg r (some (s.rd a).toNat))).retire) ∧
    (Declared s [a] → s.vtag a = 7 → parseRecord ((List.range 64).map (s.vreg a).byte) = .plane r → s.onRing r.owner = true →
      exec (.qmk q a) s = .next ((answered s).setQreg q (freshReg r none)).retire) ∧
    (ChangedMe (exec (.qdrop q) s) (answered s) (fun t => { t with qregs := Map.del q.toNat s.me.qregs })) ∧
    (s.qreg q = some h → (s.rd a).toNat ≤ h.oprec.k → (s.rd b).toNat % 128 = 0 → (s.rd b).toNat < h.oprec.n →
      exec (.qwin q a b) s = .next ((answered s).setQreg q { h with k0 := (s.rd a).toNat, j0 := (s.rd b).toNat }).retire) ∧
    (s.myCtx.budget.records ≤ (s.rd a).toNat → Traps (exec (.qld q a) s) s 0x13 none)

/-- 12 R244, R245, R252; 08 R168; 19 R326: an outer product adds, group by group, the product of the row and the column
operand to every element of the tile, rounding once per group, and sets FREEZE; other tiles stand. -/
def Obligations.OuterProductsAccumulate : Prop :=
  ∀ (i : Instr) (s : State) (o : Outer), mopOf s i = some o → o.ok = true → TileReady s o.d [o.a, o.b] →
    mopTags (s.vtag o.a) (s.vtag o.b) (s.tile o.d).tag = true → s.vtag o.a ≠ tagPsn → s.vtag o.b ≠ tagPsn →
    maskOk s o.m = true → s.me.replay = none → s.me.stop = none → activeElems s o.m ≠ [] → TileForm (s.tile o.d) →
    ∃ t, exec i s = .next t ∧ OnlyMe s t ∧ t.me.vec.freeze = true ∧ t.me.regs = s.me.regs ∧ t.me.vregs = s.me.vregs ∧
      (t.tile o.d).tag = (s.tile o.d).tag ∧ TileForm (t.tile o.d) ∧
      (∀ k, k ≠ o.d → t.tile k = s.tile k) ∧
      ∀ r c, r < 128 → c < 128 → tileAtIJ (t.tile o.d) r c =
        mopElem s o.neg o.slide o.a o.b o.m (s.tile o.d).tag r c (tileAtIJ (s.tile o.d) r c)
          (List.range ((s.me.vec.al + 127) / 128))

/-- 12 R256: `mzero` empties a tile and tags it I32 for an integer format, else FP32; `mrd` and `mwr` move rows or
columns between a tile and a vector register; `mscale` multiplies columns by a vector of FP32, rounding once. -/
def Obligations.TilesMove : Prop :=
  ∀ (s : State) (d : BitVec 3) (v a b : BitVec 7) (z : Bool), TileForm (s.tile d) →
    (TileReady s d [] → exec (.mzero d) s =
      .next ((answered s).setTile d { tag := if 1 ≤ s.me.vec.fmt ∧ s.me.vec.fmt ≤ 8 then 5 else 11, elems := [] }).retire) ∧
    (TileReady s d [] → Writable s v → s.me.stop = none → ((s.tile d).tag = 5 ∨ (s.tile d).tag = 11) →
      ∃ t, exec (.mrd v d b z) s = .next t ∧ t.mem = s.mem ∧ t.me.tiles = s.me.tiles ∧ t.me.regs = s.me.regs ∧
        (t.me.vreg v.toNat).tag = (s.tile d).tag ∧ t.me.pc = s.me.retire.pc ∧
        ∀ e ∈ activeElems s false, ∀ k, tilePlace (s.rd b).toNat e = some k → (e + 1) * 4 ≤ s.vlim →
          (t.me.vreg v.toNat).read (s.tile d).tag e = (Map.getD k 0 (s.tile d).elems).toNat) ∧
    (TileReady s d [a] → s.me.stop = none → (s.vtag a = 11 ∨ s.vtag a = 5) →
      ∃ t, exec (.mwr d a b) s = .next t ∧ OnlyMe s t ∧ (t.tile d).tag = s.vtag a ∧ t.me.vregs = s.me.vregs ∧
        t.me.regs = s.me.regs ∧ (∀ k, k ≠ d → t.tile k = s.tile k) ∧ TileForm (t.tile d) ∧
        (∀ e ∈ activeElems s false, ∀ k, tilePlace (s.rd b).toNat e = some k →
          Map.getD k 0 (t.tile d).elems = BitVec.ofNat 32 (el s a (s.vtag a) e)) ∧
        ∀ k, (∀ e ∈ activeElems s false, tilePlace (s.rd b).toNat e ≠ some k) →
          Map.getD k 0 (t.tile d).elems = Map.getD k 0 (s.tile d).elems) ∧
    (TileReady s d [a] → s.me.stop = none → (s.tile d).tag = 11 → s.vtag a = 11 →
      ∃ t, exec (.mscale d a) s = .next t ∧ OnlyMe s t ∧ (t.tile d).tag = 11 ∧ t.me.vregs = s.me.vregs ∧
        t.me.regs = s.me.regs ∧ (∀ k, k ≠ d → t.tile k = s.tile k) ∧ TileForm (t.tile d) ∧
        ∀ r c, r < 128 → c < 128 → tileAtIJ (t.tile d) r c =
          (if c ∈ activeElems s false then BitVec.ofNat 32 (fmtFp32.result 0 s.me.fmode.ftz
            (mulFV (valOf s.me.fmode 11 (tileAtIJ (s.tile d) r c).toNat) (valOf s.me.fmode 11 (el s a 11 c)))).1
           else tileAtIJ (s.tile d) r c))

namespace Sys2Proof.Claims

open Sys2Proof.Machine

/-! ## Weights through records (12 R247 to R250, R254 to R258) -/

/-- A record register used by a new instruction: it holds `h`, and the checks of its use pass; `u` is the state after
the read of its slot. -/
def Uses (s u : State) (q : BitVec 4) (h : QReg) (perm : Nat) : Prop :=
  s.qreg q = some h ∧ s.me.replay = none ∧ useCheck s h perm = .ok (true, u)

/-- A record row whose planes can all be read, and its scale bytes where the form reads them. -/
def RowReads (u : State) (r : OpRec) (c row : Nat) (scales : Bool) : Prop :=
  row < r.k ∧ (∀ x ∈ planeChecks u .read r c row, ∃ p, x = .ok p) ∧
  (scales = true → r.sbase ≠ 0 → ∀ x ∈ scaleChecks u .read r c (row / 64), ∃ p, x = .ok p)

/-- The bytes of a row's planes, where its checks find them in `u` and as the thread sees them in `w`. -/
def planeBytes (u w : State) (r : OpRec) (c row : Nat) : List (List Byte) :=
  (planeChecks u .read r c row).filterMap (fun x => match x with
    | .ok p => some (p.pas.map (fun pa => (w.viewByte w.cur pa).1))
    | .error _ => none)

/-- The block integer of column `n` of a record row, as the thread sees its planes (08 R163). -/
def weightAt (u w : State) (r : OpRec) (c n row : Nat) : Int := planeInt (planeBytes u w r c row) n

/-- The scale byte of column `n` of a K-block, as the thread sees it. -/
def scaleAt (u w : State) (r : OpRec) (c n kb : Nat) : Nat :=
  byteNat (((scaleChecks u .read r c kb).filterMap (fun x => match x with
    | .ok p => some (p.pas.map (fun pa => (w.viewByte w.cur pa).1))
    | .error _ => none)).flatten.getD n 0)
where
  byteNat (b : Byte) : Nat := b.toNat

/-- The rows that the active elements of a strip read, each row of the tile with its record. -/
def usedRows (act : List Nat) (recs : Nat → Option OpRec) (k0 : Nat) : List (OpRec × Nat) :=
  (act.filterMap (fun e => (recs (e % 128)).map (fun r => (r, k0 + e / 128)))).eraseDups

/-- The state in which an accumulation reads rows that its checks have located in `u`: under the strengthening mode after
the acquire that precedes the read (17 R303). -/
def readsIn (u : State) (c : Nat) (rows : List (OpRec × Nat)) : State :=
  u.beforeEngine u.cur ((locateRows u c rows).places ++ (locateScales u c rows).places)

/-- One K-block of a column (08 R162, R169): the exact sum of the products a × q, and for a codebook record half the
sum of the activations besides; an exact zero is +0. A scale s multiplies by 2^(s − 127), and 255 makes it NaN; a
block of which no element is active reads no scale. -/
def blockVal (u w : State) (r : OpRec) (c n kb : Nat) (scaled : Bool) (acts : List (Nat × FV)) : FV :=
  let sum := (sumFV 0 (acts.map (fun a => (mulFV a.2 (ofInt (weightAt u w r c n a.1))).1))).1
  let sum := if r.cb then (addFV 0 sum ((sumFV 0 (acts.map (·.2))).1.scale (-1))).1 else sum
  let sum := if sum.isZero then .fin false 0 0 else sum
  if r.sbase = 0 || !scaled then sum
  else if scaleAt u w r c n kb = 255 then .nan false
  else sum.scale ((scaleAt u w r c n kb : Int) - 127)

/-- The rows of a record that the groups of a strip cover from row k0 on. -/
def coveredRows (groups k0 : Nat) (r : OpRec) : List Nat := ((List.range groups).map (k0 + ·)).filter (· < r.k)

/-- Element (i, n) of a tile after a strip over record `r`: K-block by K-block, one rounding each. `act` are the strip's
active elements and `recs` the record of each tile row. -/
def recElem (s u w : State) (m : Bool) (a : BitVec 7) (tag : Nat) (act : List Nat) (recs : Nat → Option OpRec) (r : OpRec)
    (c k0 i n : Nat) (old : BitVec 32) : BitVec 32 :=
  let rows := coveredRows ((s.me.vec.al + 127) / 128) k0 r
  (rows.map (· / 64)).eraseDups.foldl (fun x kb =>
    (accTile tag s.me.fmode x (blockVal u w r c n kb (act.any (fun e => recs (e % 128) == some r && (k0 + e / 128) / 64 == kb))
      ((rows.filter (fun k => k / 64 == kb)).filterMap (fun k =>
        if (operand s m a (128 * (k - k0) + i)).isZero then none else some (k, operand s m a (128 * (k - k0) + i)))))).1) old

/-- The tile after a strip: every element of a row that has a record, when an element is active. -/
def Summed (s u w t : State) (m : Bool) (d : BitVec 3) (a : BitVec 7) (recs : Nat → Option OpRec) (c k0 : Nat) : Prop :=
  TileForm (t.tile d) ∧ ∀ i n, i < 128 → n < 128 → tileAtIJ (t.tile d) i n =
    (match recs i with
      | none => tileAtIJ (s.tile d) i n
      | some r =>
        if activeElems s m = [] then tileAtIJ (s.tile d) i n
        else recElem s u w m a (s.tile d).tag (activeElems s m) recs r c k0 i n (tileAtIJ (s.tile d) i n))

/-- The integer that `mplane` writes for column `n` of row row0 + x, where its source has one below AL: an integer
element brought into P bits, u of a codeword's weight, or the block integer of a float element (08 R162 to R164; 12
R257). -/
def planeSrc (s : State) (a : BitVec 7) (p x n : Nat) : Option Int :=
  let t := s.vtag a
  let get (e : Nat) : Option Nat := if e < s.me.vec.al then some (el s a t e) else none
  if isInt t then (get (128 * x + n)).map (fun v => between (-(2 ^ (p - 1))) (2 ^ (p - 1) - 1) (sg (tagWidth t) v))
  else if t = 17 then (get (128 * (x / 8) + n)).map (fun v => cb2U v (x % 8))
  else (((blockInts (column t (8192 * (x / 64)) n)).2)[x % 64]?).map (·.1)
where
  column (t lo n : Nat) : List FV :=
    ((List.range 64).filter (fun k => lo + 128 * k + n < s.me.vec.al)).map (fun k => valOf s.me.fmode t (el s a t (lo + 128 * k + n)))

/-- Rows of a granule of a source (12 R257). -/
def granuleRows (t : Nat) : Nat := if t = 17 then 8 else if isInt t then 1 else 64

/-- Groups of 128 elements below AL. -/
def groupCount (s : State) : Nat := (s.me.vec.al + 127) / 128

/-- What an accumulation leaves: other tiles, the registers, memory and AL stand, and FREEZE is set by a group. -/
def Accumulated (s t : State) (d : BitVec 3) (act : List Nat) : Prop :=
  t.mem = s.mem ∧ t.me.regs = s.me.regs ∧ t.me.vregs = s.me.vregs ∧ (∀ k, k ≠ d → t.tile k = s.tile k) ∧
  (t.tile d).tag = (s.tile d).tag ∧ t.me.vec.al = s.me.vec.al ∧ t.me.pc = s.me.retire.pc ∧
  (act ≠ [] → t.me.vec.freeze = true)

/-! ## Iterators (15 R266 to R281) -/

/-- A pull: destination, handle, second destination, policy bit. -/
def pullOf : Instr → Option (BitVec 7 × BitVec 3 × Option (BitVec 7) × Bool)
  | .next d a z => some (d, a, none, z)
  | .next2 d a b z => some (d, a, some b, z)
  | _ => none

/-- The kind of an image's root. -/
def rootKind (it : Iter) : Nat := (it.slots.getD (it.slots.length - 1) Slot.empty).kind

/-- The root that a form pulls: `next2` from ZIP or FLATTEN, `next` from any but ZIP (15 R277, R278). -/
def rootFits (it : Iter) (two : Bool) : Bool :=
  if two then rootKind it == 0x20 || rootKind it == 0x22 else rootKind it != 0x20

/-- The state in which a pull starts: the destinations tagged. -/
def tagged (s : State) (d : BitVec 7) (b : Option (BitVec 7)) : State :=
  match b with
  | none => s.setTag d s.me.vec.fmt
  | some b => (s.setTag d s.me.vec.fmt).setTag b s.me.vec.fmt

/-- A pull before its first value: no examination counted, the bound 8 × VL. -/
def pullStart (s : State) (it : Iter) (d : BitVec 7) (b : Option (BitVec 7)) : Pull :=
  { s := tagged s d b, slots := it.slots, kids := (childrenFrom it.slots 0 []).getD [], e := 0, lim := 8 * s.me.vec.vl,
    two := b.isSome, d := startElem s.me, halt := none, frozen := s.me.vec.freeze }

/-- A user thread that may pull from an open handle with elements left into its destinations. -/
def PullReady (s : State) (it : Iter) (d : BitVec 7) (h : BitVec 3) (b : Option (BitVec 7)) : Prop :=
  Writable s d ∧ (∀ r, b = some r → Writable s r ∧ r ≠ d) ∧ Map.find h.toNat s.me.iters = some it ∧ it.st % 4 = 0 ∧
  rootFits it b.isSome = true ∧ fmtOk s false = true ∧ 0 < s.me.vec.al ∧ s.me.stop = none

/-- An iterator over the integers from x.f0 up to x.f1, not exhausted. -/
def CountUp (it : Iter) (x : Slot) : Prop :=
  it.slots = [x] ∧ x.kind = 1 ∧ x.st % 2 = 0 ∧ x.f2 = 1 ∧ x.f0.toInt ≤ x.f1.toInt

/-! ## The copy engine (11 R232 to R237) -/

/-- A new command over two shape records. -/
def Starts (c : Command) (d : BitVec 7) (pc : Word) (x y : Shape) (barrier ring : Nat) : Prop :=
  c.id = d.toNat ∧ c.pc = pc ∧ c.src = x ∧ c.dst = y ∧ c.barrier.toNat = barrier % 2 ^ 64 ∧ c.ring.toNat = ring % 2 ^ 64 ∧
  c.count = x.count ∧ c.width = tagWidth x.fmt ∧ c.done = [] ∧ c.missing = [] ∧ c.full = []

/-- A command's chunks of 4 KiB. -/
def chunkCount (c : Command) : Nat := (c.count + 4096 / c.width - 1) / (4096 / c.width)

/-- The command of a thread that a number names. -/
def commandOf (s : State) (key id : Nat) : Option Command := (s.thread key).cmds.find? (fun c => c.id == id)

/-! ## Lines and probes (06 R114, R119; 11 R231) -/

/-- An address whose page is cached device memory: the homes of its line's 128 bytes. -/
def CachedLine (s : State) (va : Word) (pas : List Nat) : Prop :=
  inWindow va = false ∧ ∃ t, transOf s (s.env s.cur).ctx (s.env s.cur).features (lineStart va) = .ok t ∧
    s.waitsAt t.pa = false ∧ t.tier ≤ 1 ∧ t.cache = 0 ∧ t.pa % 128 = 0 ∧ pas = (List.range 128).map (t.pa + ·) ∧
    ∀ pa ∈ pas, uncachedPa pa = false

/-- An address of a page that the cache forms leave alone: the window, or uncached, write-combining, host or peer. -/
def OtherLine (s : State) (va : Word) : Prop :=
  inWindow va = true ∨ ∃ t, transOf s (s.env s.cur).ctx (s.env s.cur).features (lineStart va) = .ok t ∧
    s.waitsAt t.pa = false ∧ (1 < t.tier ∨ t.cache ≠ 0)

/-- A thread, running or saved, that stores through the L1 that holds a line of the executing thread (10 R208). -/
def Sharer (s : State) (pas : List Nat) (x : Thread) : Prop :=
  (∃ k, x = s.thread k ∧ s.sharesL1 (pas.headD 0) s.cur k = true) ∨
  (x ∈ s.savedThreads ∧ x.alias_ ≠ 0 ∧ s.sharesL1 (pas.headD 0) s.cur x.alias_ = true)

/-- The stores of a thread to a byte that have not reached its home. -/
def dirtyAt (x : Thread) (pa : Nat) : List Pend := x.pend.filter (fun p => p.pa == pa && !p.home)

/-- No other thread of the L1 holds a byte dirty. -/
def OnlyMine (s : State) (pas : List Nat) (pa : Nat) : Prop := ∀ x, Sharer s pas x → x ≠ s.me → dirtyAt x pa = []

/-- A line written back: each byte that the L1 holds dirty stands at its home, unpublished, with the value of a thread
that stored it, the executing thread's own where no other did; no other home changes, and what the thread sees stands. -/
def WrittenBack (s t : State) (pas : List Nat) : Prop :=
  (∀ pa ∈ pas, s.failedAt pa = false → (∃ x, Sharer s pas x ∧ dirtyAt x pa ≠ []) →
    ∃ x p, Sharer s pas x ∧ p ∈ dirtyAt x pa ∧ t.home pa = p.val) ∧
  (∀ pa ∈ pas, ∀ p, s.me.pend.find? (fun q => q.pa == pa) = some p → p.home = false → s.failedAt pa = false →
    OnlyMine s pas pa → t.home pa = p.val) ∧
  (∀ pa, (pa ∉ pas ∨ ∀ x, Sharer s pas x → dirtyAt x pa = []) → t.home pa = s.home pa) ∧
  (∀ pa, (pa ∉ pas ∨ OnlyMine s pas pa ∨ ((∀ x ∈ s.me.snap, x ≤ s.now) ∧ ∀ x ∈ s.savedThreads, x.alias_ ≠ s.cur)) →
    (t.viewByte s.cur pa).1 = (s.viewByte s.cur pa).1) ∧ t.pubs = s.pubs ∧ t.me.regs = s.me.regs ∧ t.me.snap = s.me.snap

/-- Lines treated one after another; one that fails in its turn is passed over. -/
def linesInOrder (act : State → Nat → Word → Except Stop State) (addr : Nat → Word) (s : State) (l : List Nat) : State :=
  l.foldl (fun u e => match act u u.cur (addr e) with
    | .ok t => t
    | .error _ => u) s

/-- What a probe answers: its word, and a free value where the walk meets a table that cannot be read. -/
def probeSeen (n : Nat) (x : Except Miss Trans) : Word :=
  match x with
  | .error (.unread _ _) => Config.openWord n
  | _ => probeWord x

/-- Poison met, and, where host data brought it, counted (10 R219). -/
def metPoison (s : State) (host : Bool) : State := if host then s.count 0x106 1 else s

/-- The state after which a scalar probe writes its answer: a free value is one drawn. -/
def probeFrom (s : State) (x : Except Miss Trans) : State :=
  match x with
  | .error (.unread _ h) => (metPoison s h).bump
  | _ => s

/-- The elements of a vector probe whose walks meet poison that host data brought, and those that meet any. -/
def hostPoisonMet (l : List Nat) (x : Nat → Except Miss Trans) : List Nat :=
  l.filter (fun k => match x k with
    | .error (.unread _ h) => h
    | _ => false)
def meetsUnread (x : Except Miss Trans) : Prop := ∃ c h, x = .error (.unread c h)

/-- The fields of a probe's word for a translation whose own fields have their widths (06 R119). -/
def ProbeFields (x : Word) (t : Trans) : Prop :=
  field x 0 1 = 1 ∧ field x 1 1 = b2n t.rDeny.isNone ∧ field x 2 1 = b2n t.wDeny.isNone ∧ field x 3 1 = b2n t.xDeny.isNone ∧
  field x 4 2 = t.tier ∧ field x 6 2 = t.cache ∧ field x 8 4 = 0 ∧ field x 12 1 = b2n t.large ∧ field x 13 3 = 0 ∧
  field x 16 16 = t.key ∧ field x 32 32 = 0

end Sys2Proof.Claims

/-- 06 R114, R119; 10 R208; 11 R231: `cache.flush` and `cache.inval` bring the dirty bytes that the L1 holds of a
cached device line to their homes, unpublished, and the second drops the line's poison in the L1; of any other page
they leave everything; an address that no map translates traps with 0x01, and where a table of the walk reads poisoned
with 0x04, where its link answers with an error with 0x05 (23 R344). `vflush` and `vinval` do so for the lines of
their elements in order; `cache.zero` stores 0 to the 128 bytes of its line as pending bytes; that its home stands
meanwhile is the model's choice (log entry 10). A vector prefetch changes nothing, but a forced pre-emption may trim
it (07 R131); `vprobe` writes the probe word of each active element's address as N64. `probe` answers with the word of
the translation in force: V, the permissions, tier, cache policy, size and key in their places, or MISSLVL alone where
there is none; it never traps on the address; `probec` does so in a context of the subtree that lives. What a probe
answers whose walk meets a table that cannot be read is a free value of the model (log entry 73); that poison of host
data is counted where a probe's walk meets it is log entry 74. While memory of a table is not ready a probe waits (23
R347), so that case is not an answer. Model's choices too: that `cache.flush` and `cache.inval` record the address
given as their VA (log entry 81), that `vpref`, `vprobe`, `vflush` and `vinval` complete under FMT = FP4 (84), and the
causes 0x04 and 0x05 at such a table, where R114 names 0x01 (87). -/
def Obligations.LinesFlushedAndProbed : Prop :=
  (∀ (s : State) (a : BitVec 7) (pas : List Nat) (m : Nat),
    (CachedLine s (s.rd a) pas →
      (∃ u, flushLine s s.cur (s.rd a) = .ok u ∧ exec (.cacheFlush a) s = .next u.retire ∧ WrittenBack s u pas) ∧
      ∃ u, invalLine s s.cur (s.rd a) = .ok u ∧ exec (.cacheInval a) s = .next u.retire ∧ WrittenBack s u pas ∧
        ∀ pa ∈ pas, u.l1PoisonedAt s.cur pa = false) ∧
    (OtherLine s (s.rd a) → WentOn (exec (.cacheFlush a) s) s ∧ WentOn (exec (.cacheInval a) s) s) ∧
    (inWindow (s.rd a) = false →
      transOf s (s.env s.cur).ctx (s.env s.cur).features (lineStart (s.rd a)) = .error (.at_ m) →
      let map := if canonical (s.rd a) then some m else none
      exec (.cacheFlush a) s = .next (trapAt s 1 (some (s.rd a)) 0 map) ∧
      exec (.cacheInval a) s = .next (trapAt s 1 (some (s.rd a)) 0 map)) ∧
    (∀ c h, inWindow (s.rd a) = false →
      transOf s (s.env s.cur).ctx (s.env s.cur).features (lineStart (s.rd a)) = .error (.unread c h) →
      exec (.cacheFlush a) s = .next (trapAt (metPoison s h) c (some (s.rd a)) 0 none) ∧
      exec (.cacheInval a) s = .next (trapAt (metPoison s h) c (some (s.rd a)) 0 none)) ∧
    (∀ (up : Nat → Except Miss Trans) (base k : Nat) (t : Trans), up (base + 8 * k) = .ok t → s.waitsAt t.pa = false →
      (s.poisonHome t.pa = true → tableEntry s up base k = .error (.unread 4 (s.hostPoisoned t.pa))) ∧
      (s.poisonHome t.pa = false → s.linkError t.pa = true → tableEntry s up base k = .error (.unread 5 false))) ∧
    (∀ p, checkWrite s (s.env s.cur) (lineStart (s.rd a)) 128 1 = .ok p → s.rev1 s.cur = false →
      ∃ t, exec (.cacheZero a) s = .next t ∧ OnlyMeL1 s t ∧
        t.me = { s.me.retire with pend := pended s p.pas (List.replicate 128 0) ++ s.me.pend, cnt := t.me.cnt } ∧
        (∀ pa ∈ p.pas, (t.viewByte s.cur pa).1 = 0) ∧
        (∀ pa, pa ∉ p.pas → (t.viewByte s.cur pa).1 = (s.viewByte s.cur pa).1) ∧ ∀ pa, t.home pa = s.home pa)) ∧
  (∀ (s : State) (d a b : BitVec 7) (m z : Bool) (e : Env), User s → maskOk s m = true → s.env s.cur = e →
    (Unstopped s → WentOn (exec (.vpref a b m) s) s) ∧
    (∀ x, s.me.stop = some x → x < s.me.vec.al → s.me.vec.freeze = false → 0 < granuleStart s.me.vec x →
      ∃ t, exec (.vpref a b m) s = .next t ∧ Trimmed s t 0x21 (granuleStart s.me.vec x) ∧ t.mem = s.mem) ∧
    (s.me.stop = none →
      (Writable s d → (∀ k ∈ activeElems s m, transOf s e.ctx e.features (strideAt s 0 a b k) ≠ .error .wait) →
        ∃ u, ((∀ k ∈ activeElems s m, ¬ meetsUnread (transOf s e.ctx e.features (strideAt s 0 a b k))) → u = s) ∧
          u = { s with fresh := u.fresh, counters := u.counters } ∧
          (∀ l, l = hostPoisonMet (activeElems s m) (fun k => transOf s e.ctx e.features (strideAt s 0 a b k)) →
            u.counters = if l = [] then s.counters
              else Map.put 0x106 (min (Map.getD 0x106 0 s.counters + l.length) (2 ^ 64 - 1)) s.counters) ∧
          exec (.vprobe d a b m z) s =
            .next (vecDone u { d := d, tag := 8, m := m, z := z, srcs := [], ok := true, f :=
              fun k => ((probeSeen (s.fresh + k) (transOf s e.ctx e.features (strideAt s 0 a b k))).toNat, 0) })) ∧
      ((∀ k ∈ activeElems s m, ∃ u, flushLine s s.cur (strideAt s 0 a b k) = .ok u) →
        exec (.vflush a b m) s = .next (countElems (activeElems s m).length
          (linesInOrder flushLine (strideAt s 0 a b) s (activeElems s m))).retire ∧
        exec (.vinval a b m) s = .next (countElems (activeElems s m).length
          (linesInOrder invalLine (strideAt s 0 a b) s (activeElems s m))).retire))) ∧
  (∀ (t : Trans) (m : Nat), (t.tier < 4 → t.cache < 4 → t.key < 65536 → ProbeFields (probeWord (.ok t)) t) ∧
    probeWord (.error (.at_ m)) = ofN (512 * m)) ∧
  ∀ (s : State) (d a b : BitVec 7),
    (∀ e, s.env s.cur = e → transOf s e.ctx e.features (s.rd a) ≠ .error .wait →
      let x := transOf s e.ctx e.features (s.rd a)
      Answers (exec (.probe d a) s) (probeFrom s x) d (probeSeen s.fresh x)) ∧
    (canonical (s.rd a) = false → Answers (exec (.probe d a) s) s d (ofN (512 * (s.ctxAt (s.env s.cur).ctx).depth))) ∧
    (∀ id, (s.rd b).toNat = id → Sup s → s.inSubtree s.me.ctx id = true → s.live id = true →
      transOf s id s.features (s.rd a) ≠ .error .wait →
      let x := transOf s id s.features (s.rd a)
      Answers (exec (.probec d a b) s) (probeFrom s x) d (probeSeen s.fresh x)) ∧
    (Sup s → s.inSubtree s.me.ctx (s.rd b).toNat = false → Traps (exec (.probec d a b) s) s 0x11 none) ∧
    (Sup s → s.inSubtree s.me.ctx (s.rd b).toNat = true → s.live (s.rd b).toNat = false →
      Traps (exec (.probec d a b) s) s 0x13 none)

/-- 12 R246, R250, R253 to R255; 08 R169: `mrw` uses the record of one register for every row of the tile and moves
its cursor by a row per group; `mrx` uses for each row the record that it resolves, and moves MXCUR. Each element of
the tile receives, K-block by K-block and rounding once for each, the scaled sum of the activations times the block
integers that the record gives; a row without a record receives nothing. Other tiles stand, and a group performed sets
FREEZE. At the first group whose row lies beyond the record `mrw` is trimmed to that group, or traps with cause 0x08; so
is `mrx` at the first row that its record does not reach, below or to the right.
That a K-block without an active element reads no scale, and MXCUR.K0 modulo 2^21, are the model's (log entries 79, 83).
-/
def Obligations.RecordsAccumulate : Prop :=
  ∀ (s u : State) (d : BitVec 3) (a b : BitVec 7) (q : BitVec 4) (m : Bool) (h : QReg) (recs : List (Option OpRec)),
    TileReady s d [a, b] → s.me.vec.gran = 7 → actTags (s.vtag a) (s.tile d).tag = true → s.vtag a ≠ tagPsn →
    maskOk s m = true → s.me.stop = none → TileForm (s.tile d) →
    (Uses s u q h 0 → tileTakes (s.tile d).tag h.oprec = true →
      ((∀ e ∈ activeElems s m, RowReads u h.oprec (h.j0 / 128) (h.k0 + e / 128) true) →
        ∃ t, exec (.mrw d a q m) s = .next t ∧ Accumulated s t d (activeElems s m) ∧
          Summed s u (readsIn u (h.j0 / 128) (usedRows (activeElems s m) (fun _ => some h.oprec) h.k0)) t m d a
            (fun _ => some h.oprec) (h.j0 / 128) h.k0 ∧
          t.qreg q = some { h with k0 := h.k0 + groupCount s }) ∧
      (∀ e ∈ activeElems s m, h.oprec.k ≤ h.k0 + e / 128 →
        (∀ k ∈ activeElems s m, k < e → RowReads u h.oprec (h.j0 / 128) (h.k0 + k / 128) true) →
        (s.me.vec.freeze = false → 0 < e / 128 → ∃ t, exec (.mrw d a q m) s = .next t ∧ Trimmed s t 8 (e / 128 * 128)) ∧
        ((s.me.vec.freeze = true ∨ e / 128 = 0) → ∃ t f, exec (.mrw d a q m) s = .next t ∧ t.held = f :: s.held ∧
          t.me.status = .trapped f.token ∧ f.entry.record.cause = 8 ∧ f.entry.record.elem = e ∧
          t.me.vec.es = e / 128 * 128 ∧ t.me.vec.al = s.me.vec.al ∧ t.me.replay.isSome = true))) ∧
    (s.vtag b = 6 → s.me.replay = none → resolvedRows s (s.tile d).tag (s.vreg b) = .ok (recs, u) →
      ((∀ e ∈ activeElems s m, ∀ r, recs.getD (e % 128) none = some r →
        r.n ≥ s.me.mx.j0 + 128 ∧ RowReads u r (s.me.mx.j0 / 128) (s.me.mx.k0 + e / 128) true) →
      ∃ t, exec (.mrx d a b m) s = .next t ∧ Accumulated u t d (activeElems s m) ∧
        Summed s u (readsIn u (s.me.mx.j0 / 128) (usedRows (activeElems s m) (fun i => recs.getD i none) s.me.mx.k0)) t m d a
          (fun i => recs.getD i none) (s.me.mx.j0 / 128) s.me.mx.k0 ∧
        t.me.mx = { u.me.mx with k0 := (s.me.mx.k0 + groupCount s) % 2 ^ 21 }) ∧
      (∀ e ∈ activeElems s m, ∀ r, recs.getD (e % 128) none = some r →
        (r.k ≤ s.me.mx.k0 + e / 128 ∨ r.n < s.me.mx.j0 + 128) →
        (∀ k ∈ activeElems s m, k < e → ∀ x, recs.getD (k % 128) none = some x →
          x.n ≥ s.me.mx.j0 + 128 ∧ RowReads u x (s.me.mx.j0 / 128) (s.me.mx.k0 + k / 128) true) →
        (s.me.vec.freeze = false → 0 < e / 128 → ∃ t, exec (.mrx d a b m) s = .next t ∧ Trimmed u t 8 (e / 128 * 128)) ∧
        ((s.me.vec.freeze = true ∨ e / 128 = 0) → ∃ t f, exec (.mrx d a b m) s = .next t ∧ t.held = f :: u.held ∧
          t.me.status = .trapped f.token ∧ f.entry.record.cause = 8 ∧ f.entry.record.elem = e ∧
          t.me.vec.es = e / 128 * 128 ∧ t.me.vec.al = s.me.vec.al ∧ t.me.replay.isSome = true)))

/-- 08 R162 to R164; 12 R257, R258: `munplane` writes the block integers of record rows as I32; `mplane` stores, as
pending bytes of the thread, bit p of each source integer at its column of plane p of its row, and for a float source
the scale byte of each column; a column without a source element keeps its bit, a row without one is left alone, and no
byte outside changes. That no
home changes while the bytes are pending is the model's choice: 17 R287 lets a store reach its home before its
publication, which here is a step of its own (log entry 10). -/
def Obligations.PlanesReadAndWritten : Prop :=
  ∀ (s u : State) (v a b : BitVec 7) (q : BitVec 4) (h : QReg), s.me.stop = none →
    (Writable s v → Uses s u q h 2 → s.me.vec.al * 4 ≤ s.vlim →
      (∀ e ∈ activeElems s false, RowReads u h.oprec (h.j0 / 128) ((s.rd b).toNat + e / 128) false) →
      let rows := ((activeElems s false).map (fun e => (h.oprec, (s.rd b).toNat + e / 128))).eraseDups
      let w := u.beforeEngine u.cur (locateRows u (h.j0 / 128) rows).places
      ∃ t, exec (.munplane v q b) s = .next t ∧ t.mem = s.mem ∧ t.me.regs = s.me.regs ∧ t.me.pc = s.me.retire.pc ∧
        (t.me.vreg v.toNat).tag = 5 ∧ (∀ r, r ≠ v.toNat → t.me.vreg r = s.me.vreg r) ∧
        ∀ e ∈ activeElems s false, (t.me.vreg v.toNat).read 5 e =
          lowOf 4 (planeInt (planeBytes u w h.oprec (h.j0 / 128) ((s.rd b).toNat + e / 128)) (e % 128))) ∧
    (Declared s [a] → Uses s u q h 1 → u.rev1 u.cur = false → s.vtag a ≠ tagPsn →
      planeSource (s.vtag a) s.me.vec.gran (s.rd b).toNat h.oprec = true →
      let row0 := (s.rd b).toNat
      let granules := (s.me.vec.al + 2 ^ s.me.vec.gran - 1) / 2 ^ s.me.vec.gran
      let writes := (List.range granules).flatMap (fun j => granuleWrites u h.oprec (h.j0 / 128)
        (granuleOf u u.me.fmode (u.vreg a) h.oprec.p row0 0 s.me.vec.al j))
      (∀ j, j < granules →
        ∀ x ∈ granuleChecks u h.oprec (h.j0 / 128) (j * 2 ^ s.me.vec.gran) u.me.enables
          (granuleOf u u.me.fmode (u.vreg a) h.oprec.p row0 0 s.me.vec.al j), ∃ p, x.2 = .ok p) →
      ∃ t, exec (.mplane q a b) s = .next t ∧ OnlyMeL1 u t ∧
        t.me = { u.me.retire with pend := t.me.pend, cnt := t.me.cnt, fpflags := t.me.fpflags,
                                     flights := t.me.flights } ∧
        (∀ pa, t.home pa = u.home pa) ∧
        (∀ pa, (∀ w ∈ writes, pa ∉ w.1) → (t.viewByte u.cur pa).1 = (u.viewByte u.cur pa).1) ∧
        ((writes.flatMap (·.1)).Nodup →
          (∀ x p n pl, x < granules * granuleRows (s.vtag a) → p < h.oprec.p → n < 128 →
            (∃ c, c < 128 ∧ planeSrc s a h.oprec.p x c ≠ none) →
            checkKeyed u .write h.oprec.owner (h.oprec.planeRow (h.j0 / 128) p (row0 + x)) 16 = .ok pl → pl.pas.length = 16 →
            (t.viewByte u.cur (pl.pas.getD (n / 8) 0)).1.getLsbD (n % 8) =
              (match planeSrc s a h.oprec.p x n with
                | some k => decide (k / 2 ^ p % 2 = 1)
                | none => (u.viewByte u.cur (pl.pas.getD (n / 8) 0)).1.getLsbD (n % 8))) ∧
          (granuleRows (s.vtag a) = 64 → ∀ j n pl, j < granules → n < 128 →
            checkKeyed u .write h.oprec.owner (h.oprec.scaleRow (h.j0 / 128) (row0 / 64 + j) + ofN (n / 64 * 64)) 64 = .ok pl →
            pl.pas.length = 64 → (t.viewByte u.cur (pl.pas.getD (n % 64) 0)).1 =
              BitVec.ofNat 8 (blockInts (planeSrc.column s a (s.vtag a) (8192 * j) n)).1)))

/-- 15 R275, R276, R280, R281: `itopen` binds a closed handle to a well-formed image; `itclose` writes the image back
and closes the handle, `itsave` writes it and keeps the handle open, `enough` marks it and sets FREEZE; a closed
handle is a bad handle, and so is one opened twice, an image that is malformed, and one for which the context has no
ITERS left. Each answers a forced pre-emption, which trims the strip before its effect (07 R131; log entry 40). -/
def Obligations.HandlesOpenAndClose : Prop :=
  ∀ (s u : State) (d : BitVec 3) (a : BitVec 7) (it : Iter) (l : List Byte), User s →
    (Map.find d.toNat s.me.iters = none →
      (readImage s (s.rd a) = .ok (l, u) → Iter.ofBytes (s.rd a) l = some it → 1 ≤ freeToUse s s.me.ctx 8 (s.cur / 8) →
        exec (.itopen d a) s = .next ((answered u).setMe { (answered u).me with
          iters := Map.put d.toNat it u.me.iters }).retire) ∧
      (readImage s (s.rd a) = .ok (l, u) →
        Iter.ofBytes (s.rd a) l = none ∨ freeToUse s s.me.ctx 8 (s.cur / 8) = 0 → Traps (exec (.itopen d a) s) s 0x13 none) ∧
      Traps (exec (.itclose d) s) s 0x13 none ∧ Traps (exec (.itsave d) s) s 0x13 none ∧ Traps (exec (.enough d) s) s 0x13 none) ∧
    (Map.find d.toNat s.me.iters = some it →
      Traps (exec (.itopen d a) s) s 0x13 none ∧
      ChangedMe (exec (.enough d) s) (answered s) (fun t =>
        { t with iters := Map.put d.toNat { it with st := setBit it.st 0 } s.me.iters, vec := { t.vec with freeze := true } }) ∧
      (writeImage s it = .ok u →
        exec (.itclose d) s = .next ((answered u).setMe { (answered u).me with
          iters := Map.del d.toNat u.me.iters }).retire ∧
        exec (.itsave d) s = .next (answered u).retire))

/-- 15 R268, R277, R278; 07 R127: a pull that meets no fault delivers its values from the first open position, in
order, sets AL to where it ended, ITX when the source is exhausted and MORE when it is not, keeps the source's place
in the handle, and sets FREEZE when the place has moved. A pull that meets a fault after it has delivered a value ends
there, trimmed, with FREEZE set; before the first value, or with FREEZE set already, the thread stalls there. `next`
from a RANGE of step 1 delivers as many of the integers that are left as AL has room for, and is exhausted exactly
when fewer are left. -/
def Obligations.PullsDeliver : Prop :=
  (∀ (i : Instr) (s : State) (it : Iter) (d : BitVec 7) (h : BitVec 3) (b : Option (BitVec 7)) (z : Bool) (e : PullEnd)
    (p : Pull) (l : List (Word × Word)), pullOf i = some (d, h, b, z) → PullReady s it d h b →
    pullLoop (it.slots.length - 1) (s.me.vec.al - startElem s.me) (pullStart s it d b) [] = (e, p, l) →
    ((e = .full ∨ e = .exhausted) → p.d * wf s ≤ s.vlim →
      ∃ t, exec i s = .next t ∧ t.me.vec.al = p.d ∧ t.me.vec.itx = (e == .exhausted) ∧ t.me.vec.more = (e != .exhausted) ∧
        t.me.vec.freeze = (s.me.vec.freeze || p.slots != it.slots) ∧ t.me.pc = s.me.retire.pc ∧
        Map.find h.toNat t.me.iters = some { it with
          slots := p.slots, total := it.total + ofN l.length, st := if e = .exhausted then setBit it.st 1 else it.st } ∧
        ∀ k, k < l.length →
          (t.me.vreg d.toNat).read s.me.vec.fmt (startElem s.me + k) =
            (l.reverse.getD k (0, 0)).1.toNat % 2 ^ (8 * wf s) ∧
          ∀ r, b = some r → (t.me.vreg r.toNat).read s.me.vec.fmt (startElem s.me + k) =
            (l.reverse.getD k (0, 0)).2.toNat % 2 ^ (8 * wf s)) ∧
    (∀ f, e = .stopped (.flt f) →
      (s.me.vec.freeze = false → 0 < p.d → ∃ t, exec i s = .next t ∧ Trimmed s t f.cause p.d ∧ t.me.vec.freeze = true ∧
        t.me.vec.itx = false ∧ t.me.vec.more = true) ∧
      ((s.me.vec.freeze = true ∨ p.d = 0) → ∃ t, exec i s = .next t ∧ StallsAt s t f.cause p.d))) ∧
  ∀ (s : State) (it : Iter) (x : Slot) (d : BitVec 7) (h : BitVec 3) (z : Bool), PullReady s it d h none →
    s.me.replay = none → CountUp it x → s.me.vec.al ≤ s.me.vec.vl → s.me.vec.al * wf s ≤ s.vlim →
    ∃ t, exec (.next d h z) s = .next t ∧
      t.me.vec.al = min s.me.vec.al (x.f1.toInt - x.f0.toInt).toNat ∧
      (t.me.vec.itx = true ↔ x.f1.toInt - x.f0.toInt < s.me.vec.al) ∧
      ∀ k, k < t.me.vec.al →
        (t.me.vreg d.toNat).read s.me.vec.fmt k = (ofI (x.f0.toInt + k)).toNat % 2 ^ (8 * wf s)

/-- 11 R232 to R234, R237, R238; 17 R302: an accepted `xcopy`, the thread's older barrier markers fired, brings every
pending byte of the thread to its home, sends included, makes the effect of `phase.p`, starts a command and clears its
chunk mask; with 16 commands outstanding, or one of the same mask, it waits. `xquery` and `xcancel` answer for the
command that a number names, and with 0 where there is none; `vacq` puts the chunks that a mask marks into the
thread's snapshot, and into what its next publications carry; a byte may take a later store of another agent in its
place, which one is free (log entry 75), and nothing else enters the snapshot. `xcopy` and `vacq` answer a forced
pre-emption, which trims the strip before their effect (07 R131; log entry 40). -/
def Obligations.CopyCommands : Prop :=
  (∀ (s : State) (d a b : BitVec 7) (x y : Shape) (barrier ring : Nat), Declared s [d, a, b] →
    (s.vreg b).elem 8 16 = barrier → (s.vreg b).elem 8 17 = ring → badHandle barrier = false → badHandle ring = false →
    copyShapes s a b ring = some (x, y) →
    ((s.me.cmds.length < 16 ∧ ∀ c ∈ s.me.cmds, c.id ≠ d.toNat) → s.me.markers = [] →
      ∃ t c, exec (.xcopy d a b) s = .next t ∧ t.me.cmds = s.me.cmds ++ [c] ∧
        Starts c d s.me.curPc x y barrier ring ∧ t.me.pend = [] ∧ (t.me.vreg d.toNat).tag = 20 ∧
        (∀ k, k < 65536 → (t.me.vreg d.toNat).bit k = false) ∧ t.me.vec.freeze = true ∧
        t.me.vec.al = (answered s).me.vec.al ∧
        t.mem = ((s.settleAll s.cur).phase s.cur 2).mem ∧ t.me.pc = s.me.retire.pc) ∧
    ((s.me.cmds.length < 16 ∧ ∀ c ∈ s.me.cmds, c.id ≠ d.toNat) → s.me.markers ≠ [] → exec (.xcopy d a b) s = .next s) ∧
    ((16 ≤ s.me.cmds.length ∨ ∃ c ∈ s.me.cmds, c.id = d.toNat) →
      exec (.xcopy d a b) s = .next (s.setMe { s.me with status := .engineWait s.me.cmds.length }))) ∧
  ∀ (s : State) (d a : BitVec 7) (c : Command) (n : Nat), User s →
    ((s.rd a).toNat ≤ 127 →
      (commandOf s s.cur (s.rd a).toNat = none → Answers (exec (.xquery d a) s) s d 0 ∧ Answers (exec (.xcancel d a) s) s d 0) ∧
      (commandOf s s.cur (s.rd a).toNat = some c →
        Answers (exec (.xquery d a) s) s d
          (ofN ((if holdsReplay s c.serial then 2 else 1) + 4 * c.full.length + 2 ^ 19 * chunkCount c)) ∧
        Answers (exec (.xcancel d a) s) (endCommand s s.cur c.serial) d (ofN c.full.length))) ∧
    (127 < (s.rd a).toNat → Traps (exec (.xquery d a) s) s 0x13 none ∧ Traps (exec (.xcancel d a) s) s 0x13 none) ∧
    (Declared s [a] → s.vtag a = 20 →
      (Map.find a.toNat s.me.lastCmd = none → WentOn (exec (.vacq a) s) (answered s)) ∧
      (Map.find a.toNat s.me.lastCmd = some n → ∃ t, exec (.vacq a) s = .next t ∧ OnlyMe s.bump t ∧
        t.me = { (answered s).me.retire with snap := t.me.snap, carry := t.me.carry } ∧
        ∀ x,
          (x ∈ s.me.snap → x ∈ t.me.snap) ∧
          (∀ e ∈ s.hist, e.time = x → e.inChunks n (s.vreg a).setBits = true → x ∈ t.me.snap) ∧
          (x ∈ t.me.snap → x ∈ s.me.snap ∨ ∃ e ∈ s.hist, e.time = x ∧ (e.inChunks n (s.vreg a).setBits = true ∨
            (e.who ≠ .thread s.cur ∧
              ∃ c ∈ s.hist, c.pa = e.pa ∧ c.time < e.time ∧ c.inChunks n (s.vreg a).setBits = true))) ∧
          (x ∈ t.me.carry ↔ x ∈ s.me.carry ∨ ∃ e ∈ s.hist, e.time = x ∧ ∃ k ∈ (s.vreg a).setBits, e.chunk = some (n, k))))

/-- 11 R234, R235, R238, R241: COPY_SECTOR performs a sector that is due, and one that is complete or missing changes
nothing; a sector without barrier whose elements pass moves each element's bytes, as the engine reads them at their
homes, to the homes of the destination, and counts it complete. RING_SLOT_ACQUIRE takes one slot for the lowest chunk
that needs one, when it is its turn and a slot is free. -/
def Obligations.EngineStepsSectors : Prop :=
  (∀ (s : State) (core slot cmd k j : Nat) (c : Command), slot < 8 →
    commandOf s (core * 8 + slot) cmd = some c → c.ring = 0 →
    ((chunkCount c ≤ k ∨ (c.doneMask k).testBit j = true ∨ (c.missMask k).testBit j = true) →
      exec (.copySector core slot cmd k j) s = .next s) ∧
    (k < chunkCount c → j < c.sectors k → (c.doneMask k).testBit j = false → (c.missMask k).testBit j = false →
      c.barrier = 0 →
      ∀ l, checkSector s (engineEnv s (core * 8 + slot) c) c k (c.sectRange k j) = (l, none) →
        exec (.copySector core slot cmd k j) s = .next (sectorDone
          (copyElems (core * 8 + slot) (.engine (core / 4)) (c.serial, k) (l.flatMap (·.2)) s l)
          (core * 8 + slot) c.serial k j))) ∧
  (∀ (s : State) (key : Nat) (who : Agent) (chunk : Nat × Nat) (l : List (List Nat × List Nat)),
    SoundPlace s (l.flatMap (·.2)) → (∀ x ∈ l, x.1.length = x.2.length) →
    (∀ x ∈ l, ∀ pa ∈ x.1, pa ∉ l.flatMap (·.2)) →
    let t := copyElems key who chunk (l.flatMap (·.2)) s l
    (∀ x ∈ l, ∀ i, i < x.2.length → t.home (x.2.getD i 0) = s.sourceByte key (x.1.getD i 0)) ∧
    ∀ pa, pa ∉ l.flatMap (·.2) → t.home pa = s.home pa) ∧
  ∀ (s : State) (core slot cmd k : Nat) (c : Command) (p : Place) (r : RingDesc), slot < 8 →
    (s.thread (core * 8 + slot)).cmds.find? (fun c => c.id == cmd && c.ring != 0) = some c → c.nextSlot = some k →
    engineRing s (engineEnv s (core * 8 + slot) c) c = .ok (p, r) →
    ringTurn s (p.pas.headD 0) true (.inr c.serial) = true → 1 ≤ r.free →
    exec (.ringSlotAcquire core slot cmd) s = .next (modCommand
      (writeRing (dropRequests s (.inr c.serial)) (.engine (core / 4)) p (acquired r true 1).2 true false)
      (core * 8 + slot) c.serial (fun c => { c with slots := Map.put k (acquired r true 1).1 c.slots }))

namespace Sys2Proof.Claims

open Sys2Proof.Machine

/-! ## Contexts (04 R47 to R65) -/

/-- A budget request as its 32 bytes are read at their home after the effect of `phase.p`: `u` is the state then. -/
def RequestRead (s u : State) (b : BitVec 7) (r : Request) : Prop :=
  (s.rd b).toNat % 32 = 0 ∧
  ∃ l, loadHome (s.phase s.cur 2) (s.phase s.cur 2).cur ((s.phase s.cur 2).env (s.phase s.cur 2).cur) (s.rd b) 32 32 = .ok (l, u) ∧
    Request.ofBytes l = r

/-- A record of 128 bytes read the same way. -/
def RecordRead (s u : State) (a : BitVec 7) (l : List Byte) : Prop :=
  (s.rd a).toNat % 128 = 0 ∧
  loadHome (s.phase s.cur 2) (s.phase s.cur 2).cur ((s.phase s.cur 2).env (s.phase s.cur 2).cur) (s.rd a) 128 128 = .ok (l, u)

/-- The direct child that a register names (04 R54). -/
def Child (s : State) (id : Word) (c : Context) : Prop :=
  Map.find id.toNat s.ctxs = some c ∧ c.depth ≠ 0 ∧ c.parent = s.me.ctx

/-- One of some refusals is reported: the destination takes a bit pattern `top` with its code. -/
def Refuses (o : Out) (u : State) (d : BitVec 7) (top : Word) (l : List Nat) : Prop :=
  ∃ k ∈ l, Answers o u.bump d (top ||| ofN k)

/-- Crews of a context that are placed. -/
def placedCrews (s : State) (ctx : Nat) : Nat := (s.crews.filter (fun x => x.ctx == ctx)).length

/-! ## Islands (05 R71 to R76) -/

/-- A thread that may name an island: the root's, or that of a hard-isolated context for a quad of its own. -/
def MayName (s : State) (n : Nat) : Prop :=
  n ≤ 89 ∧ (s.rootSup = true ∨
    (s.sup = true ∧ (s.ctxAt s.me.ctx).isol = true ∧ n < 64 ∧ ownsQuad s s.me.ctx n = true))

/-- A frequency as an island takes it: a multiple of 100 MHz from 600 to 2,400. -/
def clockOf (x : Nat) : Nat := if x < 600 then 600 else if 2400 ≤ x then 2400 else x - x % 100

/-- An address of a quad's scratchpads. -/
def spadOf (q pa : Nat) : Prop := isSpad pa = true ∧ (pa - 2 ^ 60) / 2 ^ 25 = q

/-- A quad's cores are at reset: their scratchpads hold zeros without poison, nothing of them is pending, and where the
package has started their supervisor threads are at the start of resident code (05 R75; log entry 33). -/
def QuadReset (t : State) (q : Nat) : Prop :=
  (∀ pa, spadOf q pa → t.home pa = resetByte pa ∧ pa ∉ t.poison) ∧
  ∀ c ∈ quadCores q, t.coreAt c = Core.reset ∧
    (t.mgmt.started = true → t.thread (threadKey c 4) =
      { Thread.reset with pc := 0x20000, regs := [(1, ofN t.mgmt.imglen)], status := .ready })

/-! ## Translation maintenance (19 R324, R325) -/

/-- Exactly the cached translations that meet a condition are gone. -/
def Forgets (s t : State) (gone : TlbEntry → Prop) : Prop := ∀ e, e ∈ t.tlb ↔ e ∈ s.tlb ∧ ¬ gone e

/-- A context below a child. -/
def Below (c : Context) (id : Nat) : Prop := c.id < id ∧ id < c.id + c.count

/-- The 64-KiB page of an address. -/
def pageOf (va : Word) : Word := ofN (va.toNat / 2 ^ 16 * 2 ^ 16)

/-- A page whose walk meets a table that cannot be read: poison that host data brought counts (10 R219; log entry 74). -/
def pageMet (u : State) (va : Word) : State :=
  match freshTrans u u.me.ctx u.features (pageOf va) with
  | .error (.unread _ h) => metPoison u h
  | _ => u

/-- What `pgmig` finds at an address: the page's translation with the home of its 64-KiB leaf of the level-0 map;
nothing where the page does not translate or its leaf is larger. -/
def MigratesFrom (u : State) (va : Word) (p : Option (Trans × Nat)) : Prop :=
  match freshTrans u u.me.ctx u.features (pageOf va) with
  | .error .wait => False
  | .error _ => p = none
  | .ok t =>
    match leafAt0 u u.features (u.mapRoots u.me.ctx) (va55 (pageOf va)) with
    | some (ea, _, size) => p = (if size = 2 ^ 16 then some (t, ea) else none)
    | none => p = none

/-- A page that may be read, and is no peer's. -/
def readablePage (t : Trans) : Bool := t.rDeny.isNone && t.tier != 3

/-- A page of a device tier that may be read and written. -/
def targetPage (t : Trans) : Bool := t.rDeny.isNone && t.wDeny.isNone && t.tier < 2

/-- The status of a migration (19 R325). -/
def migrationStatus (p q : Option (Trans × Nat)) : Nat :=
  match p with
  | none => 1
  | some (t, _) =>
    if !(readablePage t) then 1
    else match q with
      | none => 2
      | some (u, _) => if !(targetPage u) then 2 else if t.pa / 2 ^ 16 = u.pa / 2 ^ 16 then 3 else 0

/-- A leaf entry that took OUT and TIER of another and kept the rest. -/
def TookOut (new old other : Nat) : Prop :=
  new / 2 ^ 25 = other / 2 ^ 25 ∧ new / 2 ^ 7 % 4 = other / 2 ^ 7 % 4 ∧
  new % 2 ^ 7 = old % 2 ^ 7 ∧ new / 2 ^ 9 % 2 ^ 16 = old / 2 ^ 9 % 2 ^ 16

/-- Two leaf entries that lie apart, outside a frame, in memory that has not failed. -/
def Apart (u : State) (ea eb frame : Nat) : Prop :=
  (ea + 8 ≤ eb ∨ eb + 8 ≤ ea) ∧
  ∀ i, i < 8 → (ea + i) / 2 ^ 16 ≠ frame ∧ (eb + i) / 2 ^ 16 ≠ frame ∧ u.failedAt (ea + i) = false ∧ u.failedAt (eb + i) = false

/-- What a migration leaves: `u` is the state in which every store to either frame has performed. -/
def Migrated (u t : State) (fa fb ea eb : Nat) : Prop :=
  (∀ i, i < 2 ^ 16 → t.home (fb * 2 ^ 16 + i) = u.home (fa * 2 ^ 16 + i)) ∧
  TookOut (t.home8 ea) (u.home8 ea) (u.home8 eb) ∧ TookOut (t.home8 eb) (u.home8 eb) (u.home8 ea) ∧
  Forgets u t (fun e => e.tr.pa / 2 ^ 16 = fa ∨ e.tr.pa / 2 ^ 16 = fb)

/-- How many of the 512 lines of a frame have a byte that meets a condition. -/
def linesOfFrame (f : Nat) (c : Nat → Bool) : Nat :=
  ((List.range 512).filter (fun l => (List.range 128).any (fun i => c (f * 2 ^ 16 + 128 * l + i)))).length

/-- What a migration counts of its source frame: in 0x106 the lines that poison of host data reaches, in 0x102 those that
were poisoned neither at their homes nor in an L1 and read poisoned (10 R219; log entry 74). -/
def MigrationCounted (u t : State) (f : Nat) : Prop :=
  Map.getD 0x106 0 t.counters = min (Map.getD 0x106 0 u.counters + linesOfFrame f u.hostPoisoned) (2 ^ 64 - 1) ∧
  Map.getD 0x102 0 t.counters = min (Map.getD 0x102 0 u.counters +
    ((List.range 512).filter (fun l => (List.range 128).any (fun i => u.poisonHome (f * 2 ^ 16 + 128 * l + i)) &&
      !((List.range 128).any (fun i => u.poisonedAt (f * 2 ^ 16 + 128 * l + i))) &&
      !(u.l1PoisonedAnywhere (f * 2 ^ 16 + 128 * l)))).length) (2 ^ 64 - 1)

/-- A half of the feature words by its number: offered, then accepted. -/
def featureHalf (s : State) (n : Nat) : Word :=
  match n with
  | 0 => ofN (offered s.mgmt % 2 ^ 64)
  | 1 => ofN (offered s.mgmt / 2 ^ 64 % 2 ^ 64)
  | 2 => ofN (s.mgmt.accepted % 2 ^ 64)
  | _ => ofN (s.mgmt.accepted / 2 ^ 64 % 2 ^ 64)

/-- A thread counter by its number; stall cycles are free. -/
def threadCounter (c : Counters) : Nat → Option Nat
  | 0 => some c.retired
  | 1 => some c.elems
  | 2 => some c.trims
  | 3 => some c.traps
  | 5 => some c.bytesRead
  | 6 => some c.bytesWritten
  | 7 => some c.examined
  | _ => none

/-- What a read of a thread counter leaves: what may still change it has finished (07 R133; 23 R351). -/
def counterRead (s : State) (n : Nat) : State :=
  if n = 2 then lengthRead s
  else if n = 3 then waitedFor s [.steps]
  else if n = 5 ∨ n = 6 then waitedFor s [.counter n]
  else if n = 7 then s
  else s.setMe { s.me with flights := [] }

/-- Handles closed one after another, in the order of a list, each image written back (15 R276). -/
def ClosesAll : List (Nat × Iter) → State → State → Prop
  | [], s, t => t = s
  | (h, it) :: r, s, t =>
    ∃ u, writeImage s it = .ok u ∧ ClosesAll r (u.setMe { u.me with iters := Map.del h u.me.iters }) t

end Sys2Proof.Claims

/-- 04 R52, R53, R60 to R63: `ctxmk` makes a child that holds its interval and nothing else and answers with its ID;
`ctxdestroy` marks a child DESTROYING with its revocations due; `ctxgrant` adds to a child's holdings, or for the root
a key to its own ring; `ctxrevoke` makes a pending revocation. Each that is refused answers with one of the refusals
that apply, and changes no context. Which of several refusals is reported is left free (log entry 31); which requests
of the root for a key of its own are in their limits, and a revocation that names the present value, are log entry 61;
that `ctxrevoke` waits with all of its effect until its notice can be written is log entry 68, and which grants of cores a
hard-isolated child refuses is 98. -/
def Obligations.ContextsMadeAndEndowed : Prop :=
  ∀ (s u : State) (d a b : BitVec 7) (c : Context) (r : Request) (l : List Byte), Sup s →
    (RecordRead s u a l →
      (makeRefusals u (u.ctxAt u.me.ctx) l = [] →
        Answers (exec (.ctxmk d a) s) (u.setCtx (newContext (u.ctxAt u.me.ctx) l)) d (ofN (bytesField l 0 2)) ∧
        (newContext (u.ctxAt u.me.ctx) l).depth = (u.ctxAt u.me.ctx).depth + 1 ∧
        (newContext (u.ctxAt u.me.ctx) l).state = 1 ∧ (newContext (u.ctxAt u.me.ctx) l).run = false ∧
        (newContext (u.ctxAt u.me.ctx) l).budget = Budget.empty) ∧
      (makeRefusals u (u.ctxAt u.me.ctx) l ≠ [] →
        Refuses (exec (.ctxmk d a) s) u d 0x8000000000000000 (makeRefusals u (u.ctxAt u.me.ctx) l))) ∧
    (Child s (s.rd a) c →
      (c.state ≠ 5 → exec (.ctxdestroy a) s =
        .next (s.setCtx { c with state := 5, revs := c.revs.map (fun r => { r with deadline := s.ns }) }).retire) ∧
      (c.state = 5 → WentOn (exec (.ctxdestroy a) s) s) ∧
      (RequestRead s u b r →
        (s.rd a ≠ 0 → grantRefusals u (u.ctxAt u.me.ctx) c r = [] →
          Answers (exec (.ctxgrant d a b) s) (u.setCtx { c with budget := c.budget.receive r }) d 0) ∧
        (s.rd a ≠ 0 → grantRefusals u (u.ctxAt u.me.ctx) c r ≠ [] →
          Refuses (exec (.ctxgrant d a b) s) u d 0 (grantRefusals u (u.ctxAt u.me.ctx) c r)) ∧
        (revokeRefusals c r = [] →
          (∀ v, startRevocation u c r = some v → Answers (exec (.ctxrevoke d a b) s) v d 0) ∧
          (startRevocation u c r = none → exec (.ctxrevoke d a b) s = .next s)) ∧
        (revokeRefusals c r ≠ [] → Refuses (exec (.ctxrevoke d a b) s) u d 0 (revokeRefusals c r)))) ∧
    (s.me.ctx = 0 → s.rd a = 0 → r.item = 13 → RequestRead s u b r →
      Answers (exec (.ctxgrant d a b) s) (selfKey u r).2 d (ofN (selfKey u r).1))

/-- 04 R64, R65; 03 R40: `ctxrun` sets a MADE child running and launches its first record, and lets a stopped one go
on; `ctxstop` clears the run bit of a running child and lets its crews drain; in another state each changes nothing.
`ctxq` answers with the state word of a context of the subtree, and with 0 for an ID that does not live. An ID that
names no child is a bad handle inside the subtree and a privilege fault outside. That 0 answers for every selector of a
free ID, what the launch of FIRST leaves out of `launch`, and which launches a stop drains are the model's readings (log
entries 63, 62 and 34). -/
def Obligations.ContextsRunAndAnswer : Prop :=
  ∀ (s u : State) (d a b : BitVec 7) (c : Context), Sup s →
    (Child s (s.rd a) c →
      (c.state = 1 → runFirst (s.setCtx { c with run := true, state := 2 }) c = some u →
        exec (.ctxrun a) s = .next u.retire) ∧
      ((c.state = 3 ∨ c.state = 4) →
        exec (.ctxrun a) s = .next (resumeSubtree (s.setCtx { c with run := true, state := 2 }) c.id).retire) ∧
      ((c.state = 2 ∨ c.state = 5) → WentOn (exec (.ctxrun a) s) s) ∧
      (c.state = 2 → exec (.ctxstop a) s =
        .next (stopSubtree (s.setCtx { c with run := false, state := 3 }) c.id).retire) ∧
      (c.state ≠ 2 → WentOn (exec (.ctxstop a) s) s)) ∧
    ((∀ c, ¬ Child s (s.rd a) c) →
      (s.inSubtree s.me.ctx (s.rd a).toNat = true → Traps (exec (.ctxrun a) s) s 0x13 none ∧ Traps (exec (.ctxstop a) s) s 0x13 none) ∧
      (s.inSubtree s.me.ctx (s.rd a).toNat = false → Traps (exec (.ctxrun a) s) s 0x11 none ∧ Traps (exec (.ctxstop a) s) s 0x11 none)) ∧
    (s.inSubtree s.me.ctx (s.rd a).toNat = true →
      (Map.find (s.rd a).toNat s.ctxs = none → Answers (exec (.ctxq d a b) s) s d 0) ∧
      (Map.find (s.rd a).toNat s.ctxs = some c → s.rd b = 0 → Answers (exec (.ctxq d a b) s) s d
        (ofN (c.state + 2 ^ 4 * c.depth + 2 ^ 7 * b2n c.run + 2 ^ 8 * c.id + 2 ^ 20 * c.count + 2 ^ 33 * c.revs.length +
          2 ^ 36 * (placedCrews s c.id % 2 ^ 12))))) ∧
    (s.inSubtree s.me.ctx (s.rd a).toNat = false → Traps (exec (.ctxq d a b) s) s 0x11 none)

/-- 02 R18 to R20; 04 R66 to R69; 22 R333 to R335: `launch` waits for the thread's older barrier markers, reads its
record after the effect of `phase.p` and answers with the first check that fails, or adds the launch to the context's
queue and answers 0; a misaligned record gives 16. `lquery` answers with the state and the counts of a launch, and 0
for a handle that names none. `exit` and `abort` end the executing thread's task: the thread runs no longer. `exit` waits
for the thread's copy commands, and closes its open handles in ascending number; an image that cannot be written stops it
there. STATE while a forced pre-emption saves is log entry 97. -/
def Obligations.LaunchesBeginAndEnd : Prop :=
  ∀ (s u : State) (d a : BitVec 7) (l : List Byte) (x : Launch) (k : Task),
    (s.me.markers ≠ [] → exec (.launch d a) s = .next s) ∧
    (s.me.markers = [] →
      ((s.rd a).toNat % 128 ≠ 0 → Answers (exec (.launch d a) s) (s.phase s.cur 2) d 16) ∧
      (RecordRead s u a l →
        (launchStatus (u.ctxAt u.me.ctx) (s.rd a) l ≠ 0 →
          Answers (exec (.launch d a) s) u d (ofN (launchStatus (u.ctxAt u.me.ctx) (s.rd a) l))) ∧
        (launchStatus (u.ctxAt u.me.ctx) (s.rd a) l = 0 →
          Answers (exec (.launch d a) s)
            ((u.modCtx u.me.ctx (fun c => { c with launches := c.launches ++ [newLaunch u (s.rd a) l] })).bump) d 0))) ∧
    (s.launch s.me.ctx (s.rd a) = none → Answers (exec (.lquery d a) s) s d 0) ∧
    (s.launch s.me.ctx (s.rd a) = some x → Answers (exec (.lquery d a) s) s d
      (ofN (launchState s s.me.ctx x + 2 ^ 14 * x.placed + 2 ^ 39 * x.finished))) ∧
    (User s →
      (s.me.task = some k →
        (s.me.markers = [] → s.me.cmds = [] → s.me.iters = [] → ∃ t, exec (.exit a) s = .next t ∧ t.me = Thread.reset ∧
          t = endTask (s.publish s.cur 2) s.cur k ((s.rd a).toNat % 65536) false) ∧
        (s.me.markers = [] → s.me.cmds = [] → ∀ v, ClosesAll s.me.iters s v → ∃ t, exec (.exit a) s = .next t ∧
          t.me = Thread.reset ∧ t = endTask (v.publish s.cur 2) s.cur k ((s.rd a).toNat % 65536) false) ∧
        ∃ t, exec (.abort a) s = .next t ∧ t.me = Thread.reset ∧ t = abortThread s s.cur ((s.rd a).toNat % 65536)) ∧
      (s.me.markers = [] → s.me.cmds ≠ [] →
        exec (.exit a) s = .next (s.setMe { s.me with status := .engineWait s.me.cmds.length })) ∧
      (s.me.markers = [] → s.me.cmds = [] → ∀ h it r x, s.me.iters = (h, it) :: r → writeImage s it = .error x →
        exec (.exit a) s = stopAt s x) ∧
      (s.me.task = none →
        (s.me.markers = [] → s.me.cmds = [] → ∀ v, ClosesAll s.me.iters s v → ∃ t, exec (.exit a) s = .next t ∧
          t.me = Thread.reset) ∧
        ∃ t, exec (.abort a) s = .next t ∧ t.me = Thread.reset))

/-- 19 R319, R324, R325; 10 R210, R216, R217: `fdele` writes a child's delegation mask. `tlbinv` and `tlbinvc` have
the effect of `phase.p`, let every store made through the child's translations perform, and answer 0 once no
translation of the child's page and its descendants, or of its whole subtree, is cached. `pgmig` answers with its
status: 1 for a source that does not translate by a 64-KiB leaf, may not be read or is a peer's; 2 for such a target,
or one that may not be written or lies outside the device tiers; 3 for one frame; else 0, and then the page's bytes
stand in the target's frame, the two leaves have exchanged OUT and TIER, and no translation to either frame is cached.
That a walk which meets a poisoned table finds nothing is log entry 107, and what is counted of poison 74. How wide
`tlbinv` drops is the model's reading (log entry 16), and so is the place of a bad mask among the checks of `fdele`
(94); that the shoot-down performs more stores than 10 R217 asks is log entry 25. -/
def Obligations.MapsMaintained : Prop :=
  ∀ (s : State) (d a b : BitVec 7) (c : Context) (p q : Option (Trans × Nat)), Sup s →
    (Child s (s.rd a) c →
      (badDeleg (s.rd b).toNat = false → exec (.fdele a b) s = .next (s.setCtx { c with deleg := s.rd b }).retire) ∧
      (∃ u, Forgets s u (fun e => Below c e.ctx ∨ (e.ctx = c.id ∧ e.vpn / 8192 = vpnOf (s.rd b) / 8192)) ∧
        u = { settleShot (s.phase s.cur 2) (childShoot c) with tlb := u.tlb } ∧ Answers (exec (.tlbinv d a b) s) u d 0) ∧
      (∃ u, Forgets s u (fun e => c.id ≤ e.ctx ∧ e.ctx < c.id + c.count) ∧
        u = { settleShot (s.phase s.cur 2) (childShoot c) with tlb := u.tlb } ∧ Answers (exec (.tlbinvc d a) s) u d 0)) ∧
    (badDeleg (s.rd b).toNat = true → Traps (exec (.fdele a b) s) s 0x10 none) ∧
    (MigratesFrom (s.phase s.cur 2) (s.rd a) p → MigratesFrom (s.phase s.cur 2) (s.rd b) q →
      (migrationStatus p q ≠ 0 →
        Answers (exec (.pgmig d a b) s) (pageMet (pageMet (s.phase s.cur 2) (s.rd a)) (s.rd b)) d (ofN (migrationStatus p q))) ∧
      (∀ x y ea eb, migrationStatus p q = 0 → p = some (x, ea) → q = some (y, eb) →
        s.waitsAt (x.pa / 2 ^ 16 * 2 ^ 16) = false → s.waitsAt (y.pa / 2 ^ 16 * 2 ^ 16) = false →
        ∃ u, Answers (exec (.pgmig d a b) s) u d 0 ∧
          MigrationCounted (settleFrames (s.phase s.cur 2) [x.pa / 2 ^ 16, y.pa / 2 ^ 16]) u (x.pa / 2 ^ 16) ∧
          (Apart s ea eb (y.pa / 2 ^ 16) →
            Migrated (settleFrames (s.phase s.cur 2) [x.pa / 2 ^ 16, y.pa / 2 ^ 16]) u (x.pa / 2 ^ 16) (y.pa / 2 ^ 16) ea eb)))

/-- 05 R73 to R76: an island that is off comes on with its cycle count at 0, and a quad's cores are reset with it; one
that is on goes off, a quad once no crew is on it, and its threads stop; a clock takes a multiple of 100 MHz from 600
to 2,400. A number that an instruction has no such island for is a bad handle: for `islon` and `isloff` 80 and above,
and the caller's own quad for `isloff`; for `islfreq` 64 to 79, and 88 and above. What resident code of a quad does
after `islon` is the model's reading (log entry 33), and so is the frequency at which an island comes on (95). -/
def Obligations.IslandsSwitched : Prop :=
  ∀ (s : State) (a b : BitVec 7) (n : Nat), (s.rd a).toNat = n →
    (MayName s n →
      (n < 80 → (s.island n).on = true → WentOn (exec (.islon a) s) s) ∧
      (n < 80 → (s.island n).on = false →
        ∃ t, exec (.islon a) s = .next t ∧ t.island n = { s.island n with on := true, base := 0, since := s.ns } ∧
          (n < 64 → n ≠ s.cur / 8 / 4 → QuadReset t n) ∧ ∀ k, k ≠ n → t.island k = s.island k) ∧
      (80 ≤ n → Traps (exec (.islon a) s) s 0x13 none ∧ Traps (exec (.isloff a) s) s 0x13 none) ∧
      (n = s.cur / 8 / 4 → Traps (exec (.isloff a) s) s 0x13 none) ∧
      (n < 80 → n ≠ s.cur / 8 / 4 → (s.island n).on = false → WentOn (exec (.isloff a) s) s) ∧
      (n < 80 → n ≠ s.cur / 8 / 4 → (s.island n).on = true →
        (64 ≤ n ∨ (quadBusy s n = false ∧ ∀ c ∈ s.crews, c.quad ≠ n)) →
        ∃ t, exec (.isloff a) s = .next t ∧ (t.island n).on = false ∧ (t.island n).draining = false ∧
          (∀ k, k ≠ n → t.island k = s.island k) ∧ (n < 64 → ∀ k ∈ quadKeys n, t.thread k = Thread.reset)) ∧
      (n < 64 ∨ (80 ≤ n ∧ n < 88) → ∃ t, exec (.islfreq a b) s = .next t ∧
        (t.island n).mhz = clockOf (s.rd b).toNat ∧ (t.island n).on = (s.island n).on ∧
        ∀ k, k ≠ n → t.island k = s.island k) ∧
      ((64 ≤ n ∧ n < 80) ∨ 88 ≤ n → Traps (exec (.islfreq a b) s) s 0x13 none)) ∧
    (Root s → 89 < n → Traps (exec (.islon a) s) s 0x13 none ∧ Traps (exec (.isloff a) s) s 0x13 none ∧
      Traps (exec (.islfreq a b) s) s 0x13 none)

/-- 23 R348, R349, R351; 19 R328: `featq` answers with a half of the offered or of the accepted feature word, and
`featset` accepts no feature that is not offered; `cntrd` answers with a counter of the thread, once what may still change
it has finished, and for the traps once every barrier marker has fired (07 R133), or on the root of the package, which
`cntset` writes; `freeze` stops the package. -/
def Obligations.FeaturesAndCounters : Prop :=
  ∀ (s : State) (d a b : BitVec 7) (n x : Nat), (s.rd a).toNat = n →
    (Root s →
      (n ≤ 3 → Answers (exec (.featq d a) s) s d (featureHalf s n)) ∧
      (n ≤ 1 → ∃ t, exec (.featset a b) s = .next t ∧ t.me.pc = s.me.retire.pc ∧ (∀ p ∈ t.me.pend, uncachedPa p.pa = true) ∧
        ∀ k, k < 64 → (t.mgmt.accepted / 2 ^ (64 * n)).testBit k =
          ((s.rd b).toNat.testBit k && (offered s.mgmt / 2 ^ (64 * n)).testBit k)) ∧
      (0x100 ≤ n → n ≤ 0x107 → Answers (exec (.cntrd d a) s) s d (ofN (Map.getD n 0 s.counters)) ∧
        exec (.cntset a b) s = .next { s with counters := Map.put n (s.rd b).toNat s.counters }.retire) ∧
      (exec .freeze s = .next { s.retire with frozen := true })) ∧
    (¬ Root s → 0x100 ≤ n → n ≤ 0x107 → Traps (exec (.cntrd d a) s) s 0x11 none) ∧
    (threadCounter s.me.cnt n = some x → (n = 3 → s.me.markers = []) →
      Answers (exec (.cntrd d a) s) (counterRead s n) d (ofN x)) ∧
    (n = 3 → s.me.markers ≠ [] → exec (.cntrd d a) s = .next s) ∧
    (n = 4 → ∃ v, Answers (exec (.cntrd d a) s) (counterRead (stallTally s) n) d v) ∧
    (8 ≤ n → (n < 0x100 ∨ 0x107 < n) → Traps (exec (.cntrd d a) s) s 0x13 none)

namespace Sys2Proof.Claims

open Sys2Proof.Machine

/-! ## Events: what becomes ready (05 R88; 06 R118; 11 R240; 17 R300, R301; 19 R315) -/

/-- An event of a core, or of a thread of it, that the package does not have. -/
def NoSuch (o : Out) : Prop := o = .fault .noSuchAgent

/-- A thread made ready. -/
def readied (s : State) (key : Nat) : State := s.setThread key { s.thread key with status := .ready }

/-- What an outcome of the machine run as another thread comes to: the same state, with the executing thread put back.
-/
def BackFrom (o p : Out) (cur : Nat) : Prop := ∃ t, p = .next t ∧ o = .next { t with cur := cur }

/-! ## Events: launches, crews and contexts (02 R21 to R23; 04 R56, R62, R64; 05 R77 to R85; 19 R321, R323; 22 R336 to R340) -/

/-- A launch that a slice end or a stop has drained. -/
def Drained (s : State) (ctx : Nat) (h : Word) (l : Launch) : Prop :=
  (l.mode = .draining ∨ l.mode = .stopping) ∧ s.crewsOf ctx h = []

/-- A launch whose slice timer has reached the SLICE that it was started with. -/
def SliceOver (s : State) (ctx : Nat) (h : Word) (l : Launch) : Prop :=
  ∃ t, l.timer = some t ∧ l.mode = .open_ ∧ s.crewsOf ctx h ≠ [] ∧ t.1 + 1000 * t.2 ≤ s.ns

/-- The user threads of a core that no task occupies, ascending. -/
def freeUsers (s : State) (core : Nat) : List Nat := (List.range 4).filter (fun k => (s.thread (core * 8 + k)).task.isNone)

/-- Tasks that a context can start on a core (05 R79). -/
def tasksStartable (s : State) (ctx : Nat) (d : LaunchRec) (core : Nat) : Nat :=
  if coreOpen s ctx core = false then 0
  else
    ([freeToUse s ctx 2 core, (freeUsers s core).length] ++
     (if d.tiles = 0 then [] else [freeToUse s ctx 6 core / d.tiles]) ++
     (if d.spad = 0 then []
      else [freeToUse s ctx 5 core / d.spad, longestRun (regionRuns s ctx core .none_) / d.spad])).foldl min 4

/-- A quad that a launch's next crew fits, with what its cores take (05 R79, R80, R84). -/
def FitsQuad (s : State) (ctx : Nat) (l : Launch) (q : Nat) (n : List Nat) : Prop :=
  n = (quadCores q).map (tasksStartable s ctx l.desc) ∧ l.need ≤ n.sum ∧ imageRoom s ctx l = true ∧
  (s.island q).on = true ∧ (s.island q).draining = false ∧ (∀ c ∈ s.crews, c.quad = q → c.fuse = false) ∧
  (l.desc.fuse = true → ∀ c ∈ quadCores q, freeUsers s c = List.range 4) ∧
  (∀ x ∈ s.ctxs, x.2.isol = true → (∃ c ∈ quadCores q, x.2.budget.hasCore c = true) → s.inSubtree x.2.id ctx = true) ∧
  ∀ r ∈ s.reserved, r.quad = q → r.bars s ctx l = false

/-- A waiting crew may reserve a quad (05 R84): it has waited 1,000 µs and may be placed; its context holds a core of the
quad, which would take it with the crews of its own context gone, and with all gone for a FUSEL1 crew (log entry 89); and
the quad is not reserved, nor, by its context, for this crew or on this die. -/
def MayTake (s : State) (ctx : Nat) (l : Launch) (q : Nat) : Prop :=
  (∃ w, l.waitFrom = some w ∧ w + 1000000 ≤ s.ns) ∧ placeable s ctx l = true ∧
  (∃ c ∈ quadCores q, (s.ctxAt ctx).budget.hasCore c = true) ∧
  (fits s ctx l q .own).isSome = true ∧ (l.desc.fuse = true → (fits s ctx l q .all_).isSome = true) ∧
  ∀ r ∈ s.reserved, r.quad ≠ q ∧ (r.ctx = ctx → ¬ (r.handle = l.handle ∧ r.crew = l.nextIndex) ∧ r.quad / 8 ≠ q / 8)

/-- The core of a quad that takes task `k` of a crew, in the order of the cores and as many as each takes (05 R79),
and the task's place among those of its core. -/
def coreFor (n : List Nat) (k : Nat) : Nat := ((List.range n.length).filter (fun i => (n.take (i + 1)).sum ≤ k)).length
def rankFor (n : List Nat) (k : Nat) : Nat := k - (n.take (coreFor n k)).sum

/-- The thread on which task `k` of a crew starts. -/
def StartsOn (s : State) (q : Nat) (n : List Nat) (k key : Nat) : Prop :=
  ∃ slot, (freeUsers s (4 * q + coreFor n k))[rankFor n k]? = some slot ∧ key = (4 * q + coreFor n k) * 8 + slot

/-- A task as it starts (02 R23): its registers, its vector state, and what it is. -/
def TaskStarts (t : Thread) (ctx : Nat) (l : Launch) (k : Nat) : Prop :=
  t.pc = l.desc.code + ofN l.desc.entry ∧ t.status = .ready ∧ t.ctx = ctx ∧ t.wb = 0 ∧
  (∀ p, Map.getD p 0 t.regs = if p = 1 then l.desc.param else if p = 2 then l.handle else 0) ∧
  t.vec = { Vec.reset with decl := l.desc.vdecl } ∧ t.pend = [] ∧ t.iters = [] ∧ t.cmds = [] ∧
  ∃ x, t.task = some x ∧ x.ctx = ctx ∧ x.handle = l.handle ∧ x.crew = l.nextCrew ∧ x.k = k ∧ x.tasks = l.desc.tasks ∧
    x.tiles = l.desc.tiles ∧ x.spad = l.desc.spad ∧ x.features = l.features

/-- What a commit starts from: the L1s of the quad of a FUSEL1 crew are emptied first (05 R80). -/
def commitBase (s : State) (l : Launch) (q : Nat) : State := if l.desc.fuse = true then emptyL1s s q else s

/-- The crew that a commit adds. -/
def Committed (b t : State) (ctx : Nat) (l : Launch) (q index : Nat) : Prop :=
  ∃ c, t.crews = b.crews ++ [c] ∧ c.ctx = ctx ∧ c.handle = l.handle ∧ c.index = index ∧ c.quad = q ∧
    c.fuse = l.desc.fuse ∧ c.saved = [] ∧ c.live.length = l.need

/-- Every context stands at its own ID. -/
def Named (s : State) : Prop := ∀ id c, Map.find id s.ctxs = some c → c.id = id

/-- What a turn of the head of a placement unit's list gives it to place (05 R83). -/
def quantum (s : State) (die c d : Nat) : Nat :=
  if die ∈ s.turns then d else d + ((s.ctxAt c).budget.slice + 49) / 50

/-- A launch with one save more (02 R21). -/
def savedOnce (l : Launch) : Launch := { l with slices := l.slices + 1 }

/-- Every crew of a launch that a forced pre-emption saves has been saved. -/
def AllSaved (s : State) (ctx : Nat) (h : Word) (p : Preemption) : Prop := ∀ c ∈ s.crewsOf ctx h, p.saves s c = false

/-- A launch that owes no write for a forced pre-emption any longer. -/
def forgets (s : State) (ctx : Nat) (h : Word) (p : Preemption) : State :=
  s.modLaunch ctx h (fun m => { m with saving := m.saving.filter (· != p) })

/-- The saved position (02 R21). -/
def savedPosition (next slices : Nat) : List Byte := leBytes 4 1 ++ leBytes 4 next ++ leBytes 8 slices ++ List.replicate 16 0

/-! ### Revocations and destruction (04 R56, R62) -/

/-- A revocation in its enforcement. -/
def enforcing (s : State) (r : Revocation) : Revocation := if r.phase = 0 then { r with phase := 1, deadline := s.ns } else r

/-- The state in which a revocation of a context is marked as enforced. -/
def marked (s : State) (ctx : Nat) (r : Revocation) : State :=
  if r.phase = 0 then s.modCtx ctx (fun c => { c with revs := c.revs.map (fun x => if x = r then enforcing s r else x) }) else s

/-- No task of a subtree is on a core that is taken back, and no crew of it is partly saved (04 R56). -/
def NoneRuns (s : State) (c : Context) (r : Revocation) : Prop :=
  ∀ x ∈ s.crews, s.inSubtree c.id x.ctx = true → r.cores c.budget = [] ∨
    (x.saved = [] ∧ ∀ p ∈ x.live, p.1 ∉ r.cores c.budget)

/-- The leaves that a revocation clears read 0, their frames' shoot-down has begun, and the revocation waits for it. While
memory of a table that says which they are is not ready, nothing is done (23 R347). -/
def ShootsDown (s t : State) (ctx : Nat) (r : Revocation) : Prop :=
  (∀ ls, revokedLeaves s (s.ctxAt ctx) r = some ls → (∀ l ∈ ls, (framesOf s (s.ctxAt ctx) l).isSome = true) →
    (∀ l ∈ ls, ∀ i, i < 8 → s.failedAt (l.pa + i) = false → t.home (l.pa + i) = 0) ∧
    (∃ fs, t.shoot = s.shoot ++ [{ lo := (s.ctxAt ctx).id, n := (s.ctxAt ctx).count, frames := some fs }] ∧
      ∀ f, f ∈ fs ↔ ∃ l ∈ ls, ∃ gs, framesOf s (s.ctxAt ctx) l = some gs ∧ ∃ x ∈ gs, x.1 = f) ∧
    (r ∈ (s.ctxAt ctx).revs → ∃ x ∈ (t.ctxAt ctx).revs, x.phase = 2 ∧ x.item = r.item ∧ x.v0 = r.v0 ∧ x.v1 = r.v1)) ∧
  ((revokedLeaves s (s.ctxAt ctx) r = none ∨
    ∃ ls, revokedLeaves s (s.ctxAt ctx) r = some ls ∧ ∃ l ∈ ls, framesOf s (s.ctxAt ctx) l = none) → t = s)

/-- One step of the enforcement of a pending revocation: it is marked, which pre-empts its tasks; once they have gone
it is carried out, or for FRAMES and HOSTWIN its shoot-down begins; in its shoot-down it waits. -/
def Enforces (s t : State) (ctx : Nat) (r : Revocation) : Prop :=
  (r.phase = 2 → t = s) ∧
  (r.phase < 2 →
    (¬ NoneRuns (marked s ctx r) ((marked s ctx r).ctxAt ctx) (enforcing s r) → t = marked s ctx r) ∧
    (NoneRuns (marked s ctx r) ((marked s ctx r).ctxAt ctx) (enforcing s r) →
      (r.item ≠ 3 → r.item ≠ 4 → ∀ u, finishRevocation (marked s ctx r) ctx (enforcing s r) = some u → t = u) ∧
      (r.item = 3 ∨ r.item = 4 → (s.ctxAt ctx).id = ctx → ShootsDown (marked s ctx r) t ctx (enforcing s r))))

/-- A destroyed context lives no longer, holds no reservation and no place on a list, and no translation of its interval
is cached. -/
def Destroyed (s t : State) (ctx : Nat) : Prop :=
  t.live ctx = false ∧ (∀ r ∈ t.reserved, r.ctx ≠ ctx) ∧ (∀ p ∈ t.active, ∀ x ∈ p.2, x.1 ≠ ctx) ∧
  ∀ e ∈ t.tlb, ¬ (ctx ≤ e.ctx ∧ e.ctx < ctx + (s.ctxAt ctx).count)

/-- A launch whose crews have all ended, or whose mirror Swap is in flight: its completion takes its steps first (22 R337,
R338). -/
def Completing (s : State) (ctx : Nat) (l : Launch) : Prop := l.mode = .mirror ∨ l.allEnded (s.crewsOf ctx l.handle) = true

/-- Whether a held record already watches a thread's task. -/
def Watched (s : State) (t : Thread) : Prop :=
  ∃ h ∈ s.held, ∃ c w n i, h.by_ = .hang c w n i ∧ t.isTask c w n i = true

/-- The hang record of a task is held, posted with cause 0x22, and the task runs on. -/
def Hangs (s t : State) (core slot : Nat) (k : Task) : Prop :=
  ∃ h, t.held = h :: s.held ∧ h.by_ = .hang k.ctx k.handle k.crew k.k ∧ h.entry.record.cause = 0x22 ∧
    h.entry.record.kind = 1 ∧ h.entry.record.ctx = k.ctx ∧ h.entry.record.core = core ∧ h.entry.record.thread = slot ∧
    h.entry.record.token = h.token ∧ t.threads = s.threads

/-- The completion word over an old one: aborts, status bits and a count of 32 bits (22 R338). -/
def doneWord (l : Launch) (old : Nat) : Nat :=
  min l.aborts 65535 * 2 ^ 48 + l.status % 65536 * 2 ^ 32 + (old % 2 ^ 32 + 1) % 2 ^ 32

/-! ## Events: errors, power, the host and peers (05 R76, R91, R92; 10 R219 to R221; 23 R341 to R345, R351, R352) -/

/-- A package counter after one more. -/
def counted (s t : State) (n : Nat) : Prop :=
  Map.getD n 0 t.counters = min (Map.getD n 0 s.counters + 1) (2 ^ 64 - 1)

/-- Addresses of a run. -/
def runOf (pa n : Nat) : List Nat := (List.range n).map (pa + ·)

/-- The host may reach device memory (23 R342, R346). -/
def HostOpen (s : State) : Prop := s.hostLive = true ∧ s.mgmt.hdmOpen = true

/-- The host's lines that a run of addresses does not touch. -/
def untouched (off n : Nat) (l : List (Nat × Nat)) : List (Nat × Nat) :=
  l.filter (fun x => !(x.1 * 64 < off + n && off < x.1 * 64 + 64))

/-- Nothing changes but the package counters, of which one counts one more. -/
def OnlyCounts (o : Out) (s : State) (n : Nat) : Prop := ∃ t, o = .next t ∧ t = { s with counters := t.counters } ∧ counted s t n

/-- The poison unit of an address is poisoned, and no other unit changes. -/
def Poisons (s t : State) (pa : Nat) : Prop :=
  t.poisonedAt pa = true ∧ (∀ k, poisonUnit k ≠ poisonUnit pa → t.poisonedAt k = s.poisonedAt k) ∧ t.mem = s.mem

/-- A line of an L1 that an error costs nothing: its page may not be written, and the thread has no store pending in
it. -/
def Discarded (s : State) (key pa : Nat) (va : Word) : Prop :=
  (∃ tr, freshTrans s (s.env key).ctx (s.env key).features va = .ok tr ∧ tr.wDeny.isSome = true ∧
    poisonUnit tr.pa = poisonUnit pa) ∧
  ∀ p ∈ (s.thread key).pend, poisonUnit p.pa ≠ poisonUnit pa

/-- The errors that a lane's word has had: corrections since it was rewritten, and uncorrectable ones. -/
def errorsOf (s : State) (w : LaneWord) : Nat × Nat := Map.getD (w.lane + 256 * w.word) (0, 0) (s.coreAt w.core).wordErrs

/-- A lane is retired. -/
def laneRetired (s : State) (core lane : Nat) : Bool := (Map.getD (lane / 16) 0 (s.coreAt core).retired).testBit (lane % 16)

/-- A lane's word has an error more: the lane retires, and counts, at four corrections or two uncorrectable errors. -/
def LaneErred (s t : State) (w : LaneWord) (n : Nat × Nat) : Prop :=
  errorsOf t w = n ∧
  (4 ≤ n.1 ∨ 2 ≤ n.2 → laneRetired t w.core w.lane = true ∧ (laneRetired s w.core w.lane = false → counted s t 0x105)) ∧
  (n.1 < 4 → n.2 < 2 → laneRetired t w.core w.lane = laneRetired s w.core w.lane ∧
    Map.getD 0x105 0 t.counters = Map.getD 0x105 0 s.counters)

/-- A little-endian number of some bytes at their homes. -/
def numAt (s : State) (pa n : Nat) : Nat := leNat ((runOf pa n).map s.home)

/-- A peer's arrival at a barrier of memory that it may reach (17 R298, R299): the old bytes are its answer, a refused one
writes nothing, and the others leave PHASE and ARRIVED as an arrival of this package would. -/
def PeerArrived (s t : State) (port pa n : Nat) : Prop :=
  let phase := numAt s pa 4
  let expected := numAt s (pa + 4) 2
  let arrived := numAt s (pa + 8) 2
  (t.port port).answer = some ((runOf pa 32).map s.home, false) ∧
  (refusesArrival expected arrived n = true → t.mem = s.mem ∧ t.hist = s.hist) ∧
  (refusesArrival expected arrived n = false →
    numAt t pa 4 = (arrivals phase expected arrived n).1 ∧ numAt t (pa + 8) 2 = (arrivals phase expected arrived n).2 ∧
    (∀ a, (a < pa ∨ pa + 4 ≤ a) → (a < pa + 8 ∨ pa + 10 ≤ a) → t.home a = s.home a) ∧
    ∃ e, t.lastStore (pa + 8) = some e ∧ e.who = .peer port ∧ e.kind = .counted)

/-- A flit of 256 bytes whose last eight are the CRC-64 of the others (log entry 64). -/
def flitPasses (flit : List Byte) : Prop :=
  flit.length = 256 ∧ flit.drop 248 = leBytes 8 (crc64 Config.crcInit Config.crcLsbFirst (flit.take 248)).toNat

end Sys2Proof.Claims

/-- 05 R88; 06 R118; 17 R300, R301; 11 R240; 19 R315: a thread becomes ready when what it waits for has come, and not
before: lane groups, the end of a pause, of a yield, a wait's field or a ring's slots; a due marker fires; a core
takes its next entry, and the oldest record that waits is delivered once it can be: one that stands in its queue for
room in the list, the machine check of a ninth handler for its queue's memory, any other for both. That a record waits
while the memory of its queue's slot is not ready is the model's reading of 23 R347 (log entry 68). An event of a core or
thread that does not exist is a fault. That fault is the model's own (log entry 46). -/
def Obligations.ThreadsBecomeReady : Prop :=
  ∀ (s : State) (core slot : Nat), core < 256 → slot < 5 →
    (exec (.laneGrantWake core slot) s = .next
      (if (s.thread (core * 8 + slot)).status = .laneWait ∧ freeGroups s core ≠ [] then readied s (core * 8 + slot) else s)) ∧
    (∀ c, (s.thread (core * 8 + slot)).status = .pause c → exec (.pauseExpiry core slot) s = .next
      (if c ≤ s.cycle core then readied s (core * 8 + slot) else s)) ∧
    (∀ c l, (s.thread (core * 8 + slot)).status = .yield c l →
      ((c ≤ s.cycle core ∨ ∀ k ∈ l, (s.thread (core * 8 + k)).status ≠ .ready) →
        exec (.yieldRelease core slot) s = .next (readied s (core * 8 + slot))) ∧
      ((s.cycle core < c ∧ ∃ k ∈ l, (s.thread (core * 8 + k)).status = .ready) →
        ∃ t m, exec (.yieldRelease core slot) s = .next t ∧ (t.thread (core * 8 + slot)).status = .yield c m)) ∧
    (∀ kind va val scope, (s.thread (core * 8 + slot)).status = .waiting kind va val scope →
      BackFrom (exec (.waitComplete core slot) s) (tryWait { s with cur := core * 8 + slot } kind va val scope) s.cur) ∧
    (∀ write va n d, (s.thread (core * 8 + slot)).status = .ringWait write va n d →
      BackFrom (exec (.ringAcquireComplete core slot) s) (tryRing { s with cur := core * 8 + slot } write va n d) s.cur) ∧
    ((s.thread (core * 8 + slot)).status = .ready → exec (.waitComplete core slot) s = .next s ∧
      exec (.ringAcquireComplete core slot) s = .next s ∧ exec (.pauseExpiry core slot) s = .next s ∧
      exec (.yieldRelease core slot) s = .next s) ∧
    (exec (.barrierMarkerFire core slot) s = .next
      (if (s.thread (core * 8 + slot)).markersDue = true then fireMarker s (core * 8 + slot) else s)) ∧
    (∀ e, (s.thread (core * 8 + 4)).status = .ready → (s.thread (core * 8 + 4)).h.served = none → nextEntry s core = some e →
      exec (.handlerEntry core) s = .next (enterHandler s core e)) ∧
    ((s.thread (core * 8 + 4)).h.served.isSome = true → exec (.handlerEntry core) s = .next s) ∧
    (∀ e r, (s.coreAt core).blocked = e :: r →
      (256 ≤ (s.coreAt core).pending.length → (e.written = true ∨ (e.first = false ∧ e.record.kind ≠ 0)) →
        exec (.recordDelivery core) s = .next s) ∧
      ((s.coreAt core).pending.length < 256 → e.written = true → ∃ t, exec (.recordDelivery core) s = .next t ∧
        (t.coreAt core).blocked = r ∧ (t.coreAt core).pending = (s.coreAt core).pending ++ [{ e with written := false }]) ∧
      (e.written = false → e.first = true →
        (writeRecord s e.record (s.path 0) = none → exec (.recordDelivery core) s = .next s) ∧
        (∀ w, writeRecord s e.record (s.path 0) = some w → ∃ t, exec (.recordDelivery core) s = .next t ∧ t.mem = w.2.mem ∧
          ((s.coreAt core).pending.length < 256 → (t.coreAt core).blocked = r ∧
            (t.coreAt core).pending = { e with record := w.1 } :: (s.coreAt core).pending))) ∧
      (e.written = false → e.first = false → (s.coreAt core).pending.length < 256 →
        (writeRecord s e.record (s.path e.owner) = none → exec (.recordDelivery core) s = .next s) ∧
        (∀ w, writeRecord s e.record (s.path e.owner) = some w → ∃ t, exec (.recordDelivery core) s = .next t ∧
          t.mem = w.2.mem ∧ (t.coreAt core).blocked = r ∧
          ∃ x, (t.coreAt core).pending = (s.coreAt core).pending ++ [x] ∧ x.record = w.1))) ∧
    ((s.coreAt core).blocked = [] → exec (.recordDelivery core) s = .next s) ∧
    ∀ x y, ¬ (x < 256 ∧ y < 5) → NoSuch (exec (.waitComplete x y) s) ∧ NoSuch (exec (.laneGrantWake x y) s)

/-- 02 R21 to R23; 04 R64; 05 R78 to R85; 07 R131; 19 R321: a placement unit commits a reserving crew that fits its
quad, or serves the head of its list, which places crews while it has tasks left of its quantum, goes to the tail, or
leaves. A crew goes to the lowest quad of the die that it fits, by the counts of R79, the first eligible launch in the
order of R78 first; its tasks fill the cores in order and start with the registers of R23, or come back as they were
saved. A waiting crew reserves its quad; a contested slice drains its launch, an uncontested one starts again; a
drained launch's position is written and it waits; a stopped context is STOPPED once its crews have gone. A task that
a forced pre-emption names is asked to stop, or saved where it may be; once the crews that it saves are saved, the
position is written for it, for each pre-emption once. The bytes of a saved position, that SLICES counts a write that
waits at once and a crew that two pre-emptions save for both, and which region a core's crews take are the model's
reading (log entries 37, 38), and a reserving crew is not charged (57); which crew of a launch reserves, on what
conditions, and where a reserving crew goes are entries 88 to 91. That a task starts with closed iterator handles is
log entry 8, where a forced pre-emption stops a thread and which waits it saves are entries 40 and 44, and the fault
of a unit that does not exist is the model's own (46). -/
def Obligations.CrewsPlacedAndDrained : Prop :=
  (∀ (s t : State) (die ctx q c d k key : Nat) (l : Launch) (n : List Nat) (rest : List (Nat × Nat)),
    (die < 8 →
      (∀ c m q n u, reservedCrew s die = some (c, m, q, n) → commit s c m q n = some u → exec (.placeCrew die) s = .next u) ∧
      (reservedCrew s die = none → Map.getD die [] (enterActive s die).active = [] →
        exec (.placeCrew die) s = .next (enterActive s die)) ∧
      (reservedCrew s die = none → Map.getD die [] (enterActive s die).active = (c, d) :: rest →
        (nextCrewOn (enterActive s die) c die = none → ∃ u, exec (.placeCrew die) s = .next u ∧
          Map.getD die [] u.active = rest ∧ u.crews = s.crews ∧ die ∉ u.turns) ∧
        (nextCrewOn (enterActive s die) c die = some (l, q, n) →
          (l.need ≤ quantum s die c d → ∀ u, commit { enterActive s die with
              active := Map.put die ((c, quantum s die c d - l.need) :: rest) (enterActive s die).active
              turns := die :: s.turns.filter (· != die) } c l q n = some u → exec (.placeCrew die) s = .next u) ∧
          (quantum s die c d < l.need → ∃ u, exec (.placeCrew die) s = .next u ∧
            Map.getD die [] u.active = rest ++ [(c, quantum s die c d)] ∧ u.crews = s.crews ∧ die ∉ u.turns)))) ∧
    (8 ≤ die → NoSuch (exec (.placeCrew die) s)) ∧
    (nextCrewOn s ctx die = some (l, q, n) → (s.ctxAt ctx).budget.slice ≠ 0 ∧ l ∈ (s.ctxAt ctx).launches ∧
      eligible s ctx l = true ∧ q / 8 = die ∧ FitsQuad s ctx l q n ∧
      (∀ p m, p / 8 = die → p < q → ¬ FitsQuad s ctx l p m) ∧
      ∀ x ∈ (s.ctxAt ctx).launches, eligible s ctx x = true →
        (l.desc.prio < x.desc.prio ∨ (l.desc.prio = x.desc.prio ∧ x.order < l.order)) →
        ∀ p m, p / 8 = die → ¬ FitsQuad s ctx x p m) ∧
    (commit s ctx l q n = some t → n.length = 4 → l.need ≤ n.sum →
      (∀ i, i < 4 → n.getD i 0 ≤ (freeUsers (commitBase s l q) (4 * q + i)).length) →
      (l.nextSaved = none → imageRoom (commitBase s l q) ctx l = true →
        Committed (commitBase s l q) t ctx l q l.nextCrew ∧
        (k < l.need → StartsOn (commitBase s l q) q n k key → TaskStarts (t.thread key) ctx l k) ∧
        (Named (commitBase s l q) → (commitBase s l q).launch ctx l.handle = some l → ∃ m, t.launch ctx l.handle = some m ∧
          m.nextCrew = l.nextCrew + 1 ∧ m.placed = l.placed + 1 ∧ m.waitFrom = Map.find (l.nextCrew + 1) l.parked ∧ m.mode = .open_ ∧
          m.timer = some (l.timer.getD (s.ns, ((commitBase s l q).ctxAt ctx).budget.slice)))) ∧
      (∀ x y, l.nextSaved = some x → x.threads[k]? = some y → y.task.isSome = true → StartsOn (commitBase s l q) q n k key →
        (∀ z ∈ x.threads, z.iters = [] ∧ z.vec.loop = none) →
        Committed (commitBase s l q) t ctx l q x.index ∧ (t.thread key).regs = y.regs ∧ (t.thread key).pc = y.pc ∧
          (t.thread key).vregs = y.vregs ∧ (t.thread key).vec = y.vec ∧ (t.thread key).tiles = y.tiles))) ∧
  ∀ (s : State) (ctx quad core slot : Nat) (h : Word) (l : Launch),
    (s.launch ctx h = some l →
      (l.reserveAt = some quad → MayTake s ctx l quad → ∃ t, exec (.reservation quad ctx h) s = .next t ∧
        t.reserved = s.reserved ++ [{ quad := quad, ctx := ctx, handle := h, crew := l.nextIndex }] ∧ t.crews = s.crews ∧ t.mem = s.mem) ∧
      ((l.reserveAt ≠ some quad ∨ ¬ MayTake s ctx l quad) →
        exec (.reservation quad ctx h) s = .next s) ∧
      (SliceOver s ctx h l → exec (.sliceEnd ctx h) s = .next
        (if sliceContested s ctx l = true then drainLaunch s ctx h .draining
         else s.modLaunch ctx h (fun l => { l with timer := some (s.ns, (s.ctxAt ctx).budget.slice) }))) ∧
      (¬ SliceOver s ctx h l → exec (.sliceEnd ctx h) s = .next s) ∧
      (l.due = false → l.saving = [] → Drained s ctx h l → ∀ u, writePosition s ctx (savedOnce l) l.nextCrew = some u →
        exec (.savedPositionWrite ctx h) s = .next
          (u.modLaunch ctx h (fun l =>
            { l with mode := .waiting, order := u.fresh, drainFrom := none, timer := none })).bump) ∧
      (l.due = false → l.saving = [] → Drained s ctx h l → writePosition s ctx (savedOnce l) l.nextCrew = none →
        exec (.savedPositionWrite ctx h) s = .next s) ∧
      (l.due = false → l.saving = [] → ¬ Drained s ctx h l → exec (.savedPositionWrite ctx h) s = .next s) ∧
      (l.due = false → (∀ p ∈ l.saving, ¬ AllSaved s ctx h p) → l.saving ≠ [] →
        exec (.savedPositionWrite ctx h) s = .next s) ∧
      (∀ p, l.due = false → l.saving = [p] → AllSaved s ctx h p →
        (∀ u, writePosition (forgets s ctx h p) ctx (savedOnce l) l.nextCrew = some u →
          exec (.savedPositionWrite ctx h) s = .next u) ∧
        (writePosition (forgets s ctx h p) ctx (savedOnce l) l.nextCrew = none → exec (.savedPositionWrite ctx h) s =
          .next ((forgets s ctx h p).modLaunch ctx h (fun m => { m with slices := l.slices + 1, due := true })))) ∧
      (∀ p q u m w, l.due = false → l.saving = [p, q] → AllSaved s ctx h p →
        writePosition (forgets s ctx h p) ctx (savedOnce l) l.nextCrew = some u → u.launch ctx h = some m → AllSaved u ctx h q →
        writePosition (forgets u ctx h q) ctx (savedOnce m) m.nextCrew = some w → exec (.savedPositionWrite ctx h) s = .next w) ∧
      (l.due = true → l.saving = [] →
        (∀ u, writePosition s ctx l l.nextCrew = some u → exec (.savedPositionWrite ctx h) s = .next u) ∧
        (writePosition s ctx l l.nextCrew = none → exec (.savedPositionWrite ctx h) s =
          .next (s.modLaunch ctx h (fun m => { m with slices := l.slices, due := true })))) ∧
      (∀ p next x, checkWrite s (deviceEnv ctx l.features) (l.handle + 0x60) 32 1 = .ok p → ∃ u,
        writePosition s ctx { l with slices := x } next = some u ∧
        u.mem = (s.writeHome .device .posted false p.pas (savedPosition next x)).mem ∧
        (Named s → u.launch ctx h = some { l with slices := x, due := false }))) ∧
    (s.live ctx = true → ∃ t, exec (.stopDrained ctx) s = .next t ∧
      ((s.ctxAt ctx).state = 3 → (∀ c ∈ s.crews, s.inSubtree ctx c.ctx = false) →
        (∀ c ∈ s.subtree ctx, ∀ m ∈ c.launches, m.mode ≠ .stopping) →
        t = s.modCtx ctx (fun c => { c with state := 4 })) ∧
      ((s.ctxAt ctx).state ≠ 3 → t = s)) ∧
    ((4 ≤ slot ∨ targeted s (core * 8 + slot) = false) → exec (.forcedPreemption core slot) s = .next s) ∧
    (∀ b, slot < 4 → targeted s (core * 8 + slot) = true → stopRequest s (core * 8 + slot) = some b →
      ∃ t, exec (.forcedPreemption core slot) s = .next t ∧ t.thread (core * 8 + slot) =
        { s.thread (core * 8 + slot) with stop := some b }) ∧
    (slot < 4 → targeted s (core * 8 + slot) = true → stopRequest s (core * 8 + slot) = none →
      savable s (core * 8 + slot) = false → exec (.forcedPreemption core slot) s = .next s.bump) ∧
    (∀ k u, slot < 4 → (s.thread (core * 8 + slot)).task = some k → targeted s (core * 8 + slot) = true →
      stopRequest s (core * 8 + slot) = none → savable s (core * 8 + slot) = true →
      saveTask s (core * 8 + slot) k = some u → ∃ t, exec (.forcedPreemption core slot) s = .next t ∧
        t.thread (core * 8 + slot) = Thread.reset ∧
        ∀ c, s.crews.find? (fun c => c.id == k.crewId) = some c → (s.thread (core * 8 + slot)).iters = [] →
          (∃ p ∈ c.live, p ≠ (core, slot)) →
          ∃ x ∈ t.crews, ∃ y ∈ x.saved, x.id = c.id ∧ y.task = some k ∧ y.regs = (s.thread (core * 8 + slot)).regs ∧
            y.pc = (s.thread (core * 8 + slot)).pc ∧ y.vregs = (s.thread (core * 8 + slot)).vregs ∧
            y.vec = { (s.thread (core * 8 + slot)).vec with grant := 0 } ∧ y.replay = (s.thread (core * 8 + slot)).replay) ∧
    ∃ t, exec (.forcedPreemption core slot) s = .next t

/-- 04 R56, R62; 10 R216, R217; 19 R323; 22 R337 to R340: a revocation is enforced when its child has given up what it
names, or when its grace has ended: it is marked, its tasks go, and it is carried out, or clears its leaves and waits
for their shoot-down. A shoot-down lets the stores that it concerns perform, drops what it names and ends the
revocations that wait for it. A context that is DESTROYING goes with its subtree, once the launches of it that are
complete have taken the steps of their completion. A task that has not ended 4 × SLICE
µs after its drain began gets a hang record and runs on. A launch whose crews have all ended has STATE 2 and its
completion word written, and its mirror Swap, answered, ends it; while the completion word's memory is not ready STATE
stands at 2. What a child has given up is the model's reading (log entry 59), how the frames of a shoot-down are counted is
93, the shoot-down performs more stores than 10
R217 asks (log entry 25), and the faults of events that name nothing are the model's own (log entry 46). -/
def Obligations.ContextsWoundUp : Prop :=
  ∀ (s : State) (ctx n core slot : Nat) (h : Word) (r : Revocation) (l : Launch) (k : Task) (e : Bool),
    ((s.ctxAt ctx).revs[n]? = some r →
      ((r.phase ≠ 0 ∨ givenUp s (s.ctxAt ctx) r = true) → ∃ t, exec (.revocationEnforce ctx n) s = .next t ∧ Enforces s t ctx r) ∧
      (r.phase = 0 → givenUp s (s.ctxAt ctx) r = false → exec (.revocationEnforce ctx n) s = .next s) ∧
      (r.phase = 0 → r.deadline ≤ s.ns → ∃ t, exec (.revocationGraceExpiry ctx n) s = .next t ∧ Enforces s t ctx r) ∧
      (s.ns < r.deadline → exec (.revocationGraceExpiry ctx n) s = .next s)) ∧
    ((s.ctxAt ctx).revs[n]? = none →
      NoSuch (exec (.revocationEnforce ctx n) s) ∧ NoSuch (exec (.revocationGraceExpiry ctx n) s)) ∧
    (∀ u, Named s → finishRevocation s ctx r = some u → (u.ctxAt ctx).revs = (s.ctxAt ctx).revs.erase r) ∧
    (shootingRevs s = [] →
      exec .shootDownComplete s = .next (s.shoot.foldl (fun u x => dropTlb (settleShot u x) x) { s with shoot := [] })) ∧
    (∀ u, shootingRevs s = [(ctx, r)] →
      finishRevocation (s.shoot.foldl (fun u x => dropTlb (settleShot u x) x) { s with shoot := [] }) ctx r = some u →
      exec .shootDownComplete s = .next u) ∧
    (∀ x ∈ s.shoot, shootingRevs s = [] → ∃ t, exec .shootDownComplete s = .next t ∧ t.shoot = [] ∧
      ∀ y ∈ t.tlb, y ∈ s.tlb ∧ ¬ (x.lo ≤ y.ctx ∧ y.ctx < x.lo + x.n ∧ ∀ fs, x.frames = some fs → y.tr.pa / 2 ^ 16 ∈ fs)) ∧
    (∃ t, exec .shootDownComplete s = .next t) ∧
    (s.live ctx = true → ctx ≠ 0 →
      ((s.ctxAt ctx).state ≠ 5 → exec (.contextDestruction ctx) s = .next s) ∧
      ∃ t, exec (.contextDestruction ctx) s = .next t ∧
        ((s.ctxAt ctx).state = 5 → (∃ c ∈ s.subtree ctx, ∃ l ∈ c.launches, Completing s c.id l) → t = s) ∧
        ∀ u, (s.ctxAt ctx).state = 5 → (∀ c ∈ s.subtree ctx, ∀ l ∈ c.launches, ¬ Completing s c.id l) →
          (deepestFirst s ctx).foldl (fun s id => s.bind (fun s => destroyOne s id)) (some s) = some u → t = u) ∧
    (∀ u, destroyOne s ctx = some u → Destroyed s u ctx) ∧
    ((s.thread (core * 8 + slot)).task = some k →
      (drainStart s (core * 8 + slot) k = none → exec (.hangWatchdog core slot) s = .next s) ∧
      (∀ f, drainStart s (core * 8 + slot) k = some f →
        (s.ns < max f k.hangFrom + 4000 * (s.ctxAt k.ctx).budget.slice → exec (.hangWatchdog core slot) s = .next s) ∧
        (max f k.hangFrom + 4000 * (s.ctxAt k.ctx).budget.slice ≤ s.ns → ¬ Watched s (s.thread (core * 8 + slot)) →
          ∃ t, exec (.hangWatchdog core slot) s = .next t ∧ Hangs s t core slot k)) ∧
      ∃ t, exec (.hangWatchdog core slot) s = .next t ∧ t.threads = s.threads) ∧
    (s.launch ctx h = some l →
      ((l.allEnded (s.crewsOf ctx h) = false ∨ l.due = true ∨ l.saving ≠ [] ∨ l.mode = .draining ∨ l.mode = .stopping) →
        exec (.launchCompletion ctx h) s = .next s) ∧
      (l.allEnded (s.crewsOf ctx h) = true → l.due = false → l.saving = [] → l.mode ≠ .draining → l.mode ≠ .stopping →
        (l.stateDone = false → savePosition (s.completes l 2) (.completion l.order) ctx l 1 [2] = none →
          exec (.launchCompletion ctx h) s = .next s) ∧
        ∀ u, (if l.stateDone = true then some (s.completes l 2)
              else savePosition (s.completes l 2) (.completion l.order) ctx l 1 [2]) = some u →
          (∀ v w, updateDone u ctx l = .ok (w, v) → exec (.launchCompletion ctx h) s = .next
            (if l.desc.mirror = 0 then (dropReservation v ctx h).dropLaunch ctx l.handle
             else sendMirror (dropReservation v ctx h) ctx l w)) ∧
          ∀ x, updateDone u ctx l = .error x → exec (.launchCompletion ctx h) s =
            .next (u.modLaunch ctx h (fun l => { l with stateDone := true })))) ∧
    (∀ p, checkWrite s (deviceEnv ctx l.features) (l.handle + 0x60) 1 1 = .ok p →
      savePosition s (.completion l.order) ctx l 1 [2] = some (s.writeHome (.completion l.order) .posted false p.pas [2])) ∧
    (∀ p x, l.desc.done ≠ 0 → checkAtomic s (deviceEnv ctx l.features) l.desc.done 8 false = .ok p →
      checkLink s l.desc.done p = .ok x → updateDone s ctx l = .ok
        (some (doneWord l (leNat (p.pas.map s.home))), s.writeHome (.completion l.order) .atomic false p.pas
          (leBytes 8 (doneWord l (leNat (p.pas.map s.home)))))) ∧
    (l.desc.done = 0 → updateDone s ctx l = .ok (none, s)) ∧
    ((s.ctxAt ctx).launches.find? (fun l => !l.live && l.handle == h) = some l →
      ∃ t, exec (.mirrorSwapCompletion ctx h e) s = .next t ∧
        (e = false → (∀ pa ∈ runOf (0x8000000000000 + l.desc.mirror.toNat) 8, s.linkError pa = false) →
          t = (s.writeHome (.completion l.order) .atomic false (runOf (0x8000000000000 + l.desc.mirror.toNat) 8)
            (leBytes 8 l.swap.toNat)).dropMirror ctx h))

/-- 05 R76, R91, R92; 10 R213, R214, R219 to R221; 23 R351, R352: a completed walk is cached beside what older entries
left; a controller's publication moves a throttle's level by one, within 0 and 7. Corrected and uncorrectable errors
count, and poison what cannot be had again: a register; an L1 line, in that L1, unless its page may not be written and
the thread has no store pending in it; an L2 line unless it matches memory; a scratchpad word; a tile. A lane whose
word has four corrections without a rewrite, or two uncorrectable errors, retires. Above the power limit frequencies
are lowered first and lane groups gated after; at or below it groups are ungated. That the error of a register counts
in 0x102 is the model's reading (log entry 43), that every older cached translation stands beside the new one is the
model's choice (log entry 16), and so is that a throttle's level rises exactly when a controller of the arriving
publication flags, and falls otherwise (77); the order of the power actions is log entry 65, and the fault of an error
of memory that names a lane's word is the model's own (log entry 46). -/
def Obligations.ErrorsAndLimitsCounted : Prop :=
  (∀ (s : State) (ctx cls issuer : Nat) (va : Word) (occ : List (Nat × Nat × Nat)) (tr : Trans), s.live ctx = true →
    (freshTrans s ctx s.features va = .ok tr → ∃ t, exec (.tableWalkComplete ctx va) s = .next t ∧ t = { s with tlb := t.tlb } ∧
      { ctx := ctx, vpn := vpnOf va, tr := { tr with pa := tr.pa - tr.pa % 2 ^ 16 } } ∈ t.tlb ∧ ∀ x ∈ s.tlb, x ∈ t.tlb) ∧
    (∀ x, freshTrans s ctx s.features va = .error x → exec (.tableWalkComplete ctx va) s = .next s) ∧
    (cls < 64 → (∀ o ∈ occ, o.1 < 30) → ∃ t, exec (.bwPublication issuer ctx cls occ) s = .next t ∧
      t = { s with throttles := t.throttles } ∧
      (Map.getD (issuer * 64 + cls) Throttle.reset t.throttles).level =
        (if ∃ o ∈ occ, flagsClass (Map.getD cls 16 s.bwWeights) o.2.1 o.2.2 = true
         then min ((Map.getD (issuer * 64 + cls) Throttle.reset s.throttles).level + 1) 7
         else (Map.getD (issuer * 64 + cls) Throttle.reset s.throttles).level - 1))) ∧
  (∀ (s : State) (core slot v t8 pa off : Nat) (va : Word) (w : LaneWord) (again : Bool),
    OnlyCounts (exec .hbmEccCorrection s) s 0x103 ∧
    OnlyCounts (exec (.sramSingleBitError ⟨none, again⟩) s) s 0x100 ∧
    (w.core < 256 → w.lane < 256 → ∃ t, exec (.sramSingleBitError ⟨some w, again⟩) s = .next t ∧ counted s t 0x100 ∧
      LaneErred s t w (if again then 1 else (errorsOf s w).1 + 1, (errorsOf s w).2)) ∧
    (core < 256 → OnlyCounts (exec (.sramUncorrectableError (.icode core) none) s) s 0x101) ∧
    (core < 256 → slot < 4 → v < 128 →
      OnlyCounts (exec (.sramUncorrectableError (.vreg core slot v true) none) s) s 0x101 ∧
      (∃ t, exec (.sramUncorrectableError (.vreg core slot v false) none) s = .next t ∧
        ((t.thread (core * 8 + slot)).vreg v).tag = 21 ∧ counted s t 0x102) ∧
      (w.core = core → w.lane < 256 → ∃ t, exec (.sramUncorrectableError (.vreg core slot v false) (some w)) s = .next t ∧
        ((t.thread (core * 8 + slot)).vreg v).tag = 21 ∧ counted s t 0x102 ∧
        LaneErred s t w ((errorsOf s w).1, (errorsOf s w).2 + 1))) ∧
    (core < 256 → slot < 5 → isSpad pa = false → pa < 0x30000000000 →
      (Discarded s (core * 8 + slot) pa va →
        OnlyCounts (exec (.sramUncorrectableError (.l1 core slot pa va) none) s) s 0x101) ∧
      (¬ Discarded s (core * 8 + slot) pa va →
        ∃ t, exec (.sramUncorrectableError (.l1 core slot pa va) none) s = .next t ∧ counted s t 0x102 ∧
          poisonUnit pa ∈ (t.coreAt (s.l1Of core pa)).l1Poison ∧ t.poison = s.poison ∧ t.mem = s.mem)) ∧
    OnlyCounts (exec (.sramUncorrectableError (.l2 pa true) none) s) s 0x101 ∧
    (tierOf pa = some 0 ∨ tierOf pa = some 1 →
      (∃ t, exec (.sramUncorrectableError (.l2 pa false) none) s = .next t ∧ Poisons s t pa ∧ counted s t 0x102) ∧
      ∃ t, exec (.sramUncorrectableError (.mem pa) none) s = .next t ∧ Poisons s t pa ∧ counted s t 0x102) ∧
    (core < 256 → off < 0x800000 → ∃ t, exec (.sramUncorrectableError (.spad core off) none) s = .next t ∧
      Poisons s t (2 ^ 60 + core * 2 ^ 23 + off) ∧ counted s t 0x102) ∧
    (core < 256 → slot < 4 → t8 < 8 → ∃ t, exec (.sramUncorrectableError (.tile core slot t8) none) s = .next t ∧
      Map.getD t8 Tile.reset (t.thread (core * 8 + slot)).tiles = Tile.reset ∧
      (t.thread (core * 8 + slot)).mcheck = (s.thread (core * 8 + slot)).mcheck ++ [t8] ∧ counted s t 0x104) ∧
    NoSuch (exec (.sramUncorrectableError (.mem pa) (some w)) s)) ∧
  ∀ (s : State) (core n mhz g power : Nat),
    (n < 64 ∨ (80 ≤ n ∧ n < 88) →
      (Config.powerLimit < power → ∃ t, exec (.powerLimitAction ⟨.freq n mhz, power⟩) s = .next t ∧
        (t.island n).mhz = min (s.island n).mhz (clockOf mhz) ∧ ∀ k, k ≠ n → t.island k = s.island k) ∧
      (power ≤ Config.powerLimit → ∃ t, exec (.powerLimitAction ⟨.freq n mhz, power⟩) s = .next t ∧ t.islands = s.islands)) ∧
    (core < 256 → g < 16 →
      (∃ t, exec (.powerLimitAction ⟨.gate core g, power⟩) s = .next t ∧
        (t.coreAt core).gated.testBit g = ((s.coreAt core).gated.testBit g || (Config.powerLimit < power &&
          (s.mgmt.lowered || (List.range 88).all (fun n => (64 ≤ n && n < 80) || (s.island n).mhz ≤ 600))))) ∧
      ∃ t, exec (.powerLimitAction ⟨.ungate core g, power⟩) s = .next t ∧
        (t.coreAt core).gated.testBit g = ((s.coreAt core).gated.testBit g && Config.powerLimit < power))

/-- 10 R219, R220; 23 R341 to R346, R351: a host write reaches the addresses of its offset and no others, leaves their
lines poisoned when its data are, and the host's own copies of the lines that it writes are gone; before the range
opens it goes through the staging window. A host read of ready memory answers with as many bytes as it asks for, or
poisoned, and changes no memory; one of the configuration window answers with IDENT, READY, FAILED, IMGLEN or STATUS.
An offset outside the range is a fault. A peer's flit that passes its CRC is delivered in its order, one that fails is
asked for again and holds the others back, a retry resends the last flits of the 64 that a port keeps, and a request,
an arrival at a barrier (17 R298) among them, is performed inside the port's range and answered with an error outside.
What an arrival is answered with is log entry 67. The flit's CRC and which flits a retry brings
again are log entry 64, that both the failed flit and the retry request count in 0x107 is 47, a poisoned write 66, and
that the host's own copies go with its write 86; the fault, and that an access to memory that is not ready waits, are the
model's own (log entry 46). -/
def Obligations.HostAndPeersReach : Prop :=
  (∀ (s : State) (off n : Nat) (data : List Byte) (bad : Bool),
    (HostOpen s → off + data.length ≤ 0x30000000000 → (∀ a ∈ runOf off data.length, s.waitsAt a = false) →
      ∃ t, exec (.hostWrite off ⟨data, bad⟩) s = .next t ∧ (∀ a, a ∉ runOf off data.length → t.home a = s.home a) ∧
        (∀ i, i < data.length → inReserve (off + i) = false → s.failedAt (off + i) = false →
          t.home (off + i) = byteOf data i ∧ (bad = true → t.poisonedAt (off + i) = true)) ∧
        (bad = false → t.poison = s.poison) ∧
        t.snoop = untouched off data.length s.snoop ∧ t.threads = s.threads) ∧
    (HostOpen s → 0x30000000000 < off + data.length → exec (.hostWrite off ⟨data, bad⟩) s = .fault .outsideHdm) ∧
    (s.hostLive = true → s.mgmt.hdmOpen = false → off + data.length ≤ 0x10000000 →
      (∀ a ∈ runOf (0x20000 + off) data.length, s.waitsAt a = false) →
      ∃ t, exec (.hostWrite off ⟨data, bad⟩) s = .next t ∧ (bad = true → counted s t 0x106) ∧
        (∀ a, a ∉ runOf (0x20000 + off) data.length → t.home a = s.home a) ∧
        ∀ i, i < data.length → s.failedAt (0x20000 + off + i) = false → t.home (0x20000 + off + i) = byteOf data i) ∧
    (HostOpen s → off + n ≤ 0x30000000000 → (∀ a ∈ runOf off n, s.waitsAt a = false) →
      ∃ t, exec (.hostRead ⟨false, off⟩ n) s = .next t ∧ t.mem = s.mem ∧ t.hist = s.hist ∧ t.threads = s.threads ∧
        t.outboxPoison = poisonedSpan s off n ∧ (poisonedSpan s off n = false → s.snoop = [] →
          t.outbox = (runOf off n).map s.home)) ∧
    (HostOpen s → 0x30000000000 < off + n → exec (.hostRead ⟨false, off⟩ n) s = .fault .outsideHdm) ∧
    (s.hostLive = true → ∀ o x, (o, x) ∈ [(0, 0x0880 + (if Config.module then 2 ^ 16 else 0) + 2 ^ 32 * Config.powerLimit),
        (8, s.mgmt.ready), (0x10, s.mgmt.failed), (0x40, s.mgmt.imglen), (0x50, s.mgmt.status)] →
      ∃ t, exec (.hostRead ⟨true, o⟩ 8) s = .next t ∧ t.outbox = leBytes 8 x ∧ t.outboxPoison = false ∧ t.mem = s.mem) ∧
    (s.hostLive = true → 4096 < off + n → exec (.hostRead ⟨true, off⟩ n) s = .fault .configHole)) ∧
  ∀ (s : State) (n port pa : Nat) (flit : List Byte) (req : PeerReq), port < 16 → s.portLive port = true →
    (flitPasses flit →
      ((s.port port).queued = [] → ∃ t, exec (.peerFlitReceive port flit false) s = .next t ∧
        (t.port port).delivered = (s.port port).delivered ++ [(flit.drop 8).take 240] ∧ (t.port port).queued = []) ∧
      (∀ r, (s.port port).queued = none :: r → ∃ t, exec (.peerFlitReceive port flit false) s = .next t ∧
        (t.port port).delivered = (s.port port).delivered ∧
        (t.port port).queued = (s.port port).queued ++ [some ((flit.drop 8).take 240)]) ∧
      (∀ r, (s.port port).queued = none :: r.map some → ∃ t, exec (.peerFlitReceive port flit true) s = .next t ∧
        (t.port port).delivered = (s.port port).delivered ++ (flit.drop 8).take 240 :: r ∧ (t.port port).queued = [])) ∧
    (¬ flitPasses flit → ∀ again, ∃ t, exec (.peerFlitReceive port flit again) s = .next t ∧ counted s t 0x107 ∧
      (t.port port).asked = (s.port port).asked + 1 ∧ (t.port port).delivered = (s.port port).delivered ∧
      (t.port port).queued = (s.port port).queued ++ (if again then [] else [none])) ∧
    (∃ t, exec (.peerRetryRequest port n) s = .next t ∧ counted s t 0x107 ∧
      (t.port port).resent = (s.port port).resent ++ (s.port port).replay.drop ((s.port port).replay.length - n) ∧
      (t.port port).unacked = max (s.port port).unacked (min n (s.port port).replay.length)) ∧
    (((sendFlits s).port port).replay.length ≤ 64 ∧
      ((sendFlits s).port port).unacked ≤ (s.port port).unacked + (sentFlits s port).length ∧ ((sendFlits s).port port).replay =
      ((s.port port).replay ++ sentFlits s port).drop (((s.port port).replay ++ sentFlits s port).length - 64)) ∧
    ((s.port port).admits pa (requestSize req) = false → ∃ t, exec (.peerInboundRequest port pa req) s = .next t ∧
      (t.port port).answer = none ∧ t.mem = s.mem ∧ counted s t 0x106) ∧
    ((s.port port).admits pa (requestSize req) = true → (∀ a ∈ runOf pa (requestSize req), s.waitsAt a = false) →
      ∃ t, exec (.peerInboundRequest port pa req) s = .next t ∧
        (∀ m, req = .read m → t.mem = s.mem ∧ (t.port port).answer =
          some (if poisonedBytes s pa m = true then ([], true) else ((runOf pa m).map s.home, false))) ∧
        (∀ d, req = .write d → (t.port port).answer = some ([], false) ∧
          ∀ i, i < d.length → s.failedAt (pa + i) = false → t.home (pa + i) = byteOf d i) ∧
        (∀ m, req = .arrive m → poisonedBytes s pa 32 = false → (∀ a ∈ runOf pa 32, s.failedAt a = false) →
          PeerArrived s t port pa m) ∧
        (∀ y, req = .atomic .add false 0 y → poisonedBytes s pa 8 = false → (∀ a ∈ runOf pa 8, s.failedAt a = false) →
          (t.port port).answer = some ((runOf pa 8).map s.home, false) ∧
          leNat ((runOf pa 8).map t.home) = (leNat ((runOf pa 8).map s.home) + y.toNat) % 2 ^ 64)) ∧
    ∀ p, 16 ≤ p → NoSuch (exec (.peerFlitReceive p flit false) s) ∧ NoSuch (exec (.peerInboundRequest p pa req) s)

/-- 19 R328; 23 R346 to R349: a package reset leaves the state after reset but for what lies outside the package, its
flash and its fuses; functions become ready or fail; a verified image starts every core whose island is on at its
first word, once; a commit only raises the roll-back version, a switch only starts a bank that qualifies, and no
feature is accepted that is not offered; a resume lets a frozen package go on, and its links send their unacknowledged
flits again. Which those are is free, and the count of retries is the model's (log entry 64). The hash and the
signature are those of FIPS 180-4 and 186-5. What a reset keeps, the choice between banks and the holes of the window
are the model's reading (log entries 4, 46, 48). -/
def Obligations.PackageComesUp : Prop :=
  ∀ (s : State) (fn core : Nat) (half : Bool) (v : Word) (off : Nat) (data : List Byte),
    (∃ t, exec .packageReset s = .next t ∧ exec .debugReset s = .next t ∧
      t.threads = State.reset.threads ∧ t.ctxs = State.reset.ctxs ∧ t.cores = State.reset.cores ∧
      t.islands = State.reset.islands ∧ t.held = [] ∧ t.crews = [] ∧ t.mgmt.status = 0 ∧ t.mgmt.ready = 0 ∧
      t.mgmt.accepted = 0 ∧ t.mgmt.rollback = s.mgmt.rollback ∧ t.mgmt.bankA = s.mgmt.bankA ∧ t.mgmt.bankB = s.mgmt.bankB ∧
      (∀ pa, outsidePa pa = true → t.home pa = s.home pa) ∧
      (∀ pa, outsidePa pa = false → t.home pa = State.reset.home pa)) ∧
    (fn ≤ 41 → (∃ t, exec (.functionReady fn) s = .next t ∧ t.mgmt.ready.testBit fn = true ∧ t.mgmt.failed = s.mgmt.failed) ∧
      ∃ t, exec (.functionFailed fn) s = .next t ∧ t.mgmt.failed.testBit fn = true ∧ t.mgmt.ready = s.mgmt.ready) ∧
    (41 < fn → NoSuch (exec (.functionReady fn) s) ∧ NoSuch (exec (.functionFailed fn) s)) ∧
    (∃ t, exec .go s = .next t ∧ (s.hostLive = false → t = s) ∧
      (s.hostLive = true → s.mgmt.status ≠ 2 → bitAt s.mgmt.ready 1 = true → bitAt s.mgmt.failed 1 = false →
        imglenOk s.mgmt.imglen = true → sha384 s.mgmt.key = s.mgmt.bank.keyHash →
        t.mgmt.status = (if ecdsaVerify s.mgmt.key s.mgmt.sig (imageBytes s) then 2 else 3))) ∧
    (∃ t, exec .runtimeStart s = .next t ∧ (s.mgmt.status = 2 → s.mgmt.started = false → t.mgmt.started = true ∧
      t.mgmt.hdmOpen = true ∧ (core < 256 → (s.island (core / 4)).on = true →
        t.thread (core * 8 + 4) = { Thread.reset with pc := 0x20000, regs := [(1, ofN s.mgmt.imglen)], status := .ready })) ∧
      ((s.mgmt.status ≠ 2 ∨ s.mgmt.started = true) → t = s)) ∧
    (∃ t, exec .commit s = .next t ∧ s.mgmt.rollback ≤ t.mgmt.rollback ∧ t.mem = s.mem ∧ t.threads = s.threads) ∧
    (∃ t, exec .switch s = .next t ∧ t = { s with mgmt := t.mgmt } ∧
      (t.mgmt.running ≠ s.mgmt.running → s.mgmt.running ≤ 2 → s.mgmt.qualifies t.mgmt.bank = true)) ∧
    (∃ t, exec (.feataccWrite half v) s = .next t ∧ (s.hostLive = true → ∀ k, k < 64 →
      (t.mgmt.accepted / 2 ^ (64 * b2n half)).testBit k =
        (v.toNat.testBit k && (offered s.mgmt / 2 ^ (64 * b2n half)).testBit k))) ∧
    (s.hostLive = true → off + data.length ≤ 0x160 → 0x100 ≤ off → exec (.configWindowWrite off data) s =
      .next { s with mgmt := { s.mgmt with sig := patch s.mgmt.sig (off - 0x100) data } }) ∧
    (s.hostLive = true → data.length = 8 → exec (.configWindowWrite 0x40 (data ++ leBytes 8 0)) s =
      .next { s with mgmt := { s.mgmt with imglen := leNat data } }) ∧
    (s.hostLive = true → exec (.configWindowWrite 0x48 (leBytes 8 1)) s = exec .go s ∧
      exec (.configWindowWrite 0x48 (leBytes 8 2)) s = exec .commit s ∧
      exec (.configWindowWrite 0x48 (leBytes 8 3)) s = exec .switch s) ∧
    (s.hostLive = true → off + data.length ≤ 0x28 → exec (.configWindowWrite off data) s = .next s) ∧
    (s.hostLive = true → 0x1E0 ≤ off → data ≠ [] → exec (.configWindowWrite off data) s = .fault .configHole) ∧
    (s.frozen = false → exec .debugResume s = .next s) ∧
    ∃ t, exec .debugResume s = .next t ∧ t.frozen = false ∧ t.threads = s.threads ∧ t.mem = s.mem ∧
      (s.frozen = true →
        (∀ n, (t.port n).resent = (s.port n).resent ++ (s.port n).replay.drop ((s.port n).replay.length - (s.port n).unacked)) ∧
        Map.getD 0x107 0 t.counters = min (Map.getD 0x107 0 s.counters +
          (s.ports.filter (fun p => p.2.unacked != 0)).length) (2 ^ 64 - 1))

namespace Sys2Proof.Claims

open Sys2Proof.Machine

/-! ## Steps and encodings (03 R24 to R46; 05 R86; 06 R94; 07 R127, R135) -/

/-- The next turn is that of a core: the first of the agenda, or, with an empty agenda, the present core's with the time
that the configuration leaves free (log entry 5). `u` is the state in which the turn is taken. -/
def CoreTurns (s u : State) (core ns : Nat) : Prop :=
  (∃ r, s.agenda = .core core ns :: r ∧ u = { s with agenda := r }) ∨
  (s.agenda = [] ∧ core = s.core ∧ ns = Config.stepNs s.fresh ∧ u = s)

/-- A thread of a core issues in state `v`: the package runs, the core's island is on, and the core chooses the thread
once everything that may wake its threads has been looked at. -/
def TurnIssues (s v : State) (core slot : Nat) : Prop :=
  ∃ u ns, CoreTurns s u core ns ∧ u.frozen = false ∧ core < 256 ∧ ((tick ns u).island (core / 4)).on = true ∧
    pickSlot (wakeCore (tick ns u) core) core = some slot ∧ v = choose (wakeCore (tick ns u) core) core slot

/-- The word that the executing thread issues: the replayed one, the next of the open loop's body, or the one at its
PC. -/
def NextWord (v : State) (w : BitVec 32) : Prop :=
  (∃ r, v.me.replay = some r ∧ strikes v.me r.word = false ∧ w = r.word) ∨
  (∃ l, v.me.replay = none ∧ v.me.vec.loop = some l ∧ loopEdge v l = none ∧ l.body[l.next]? = some w) ∨
  (v.me.replay = none ∧ v.me.vec.loop = none ∧ fetchWord v v.cur v.me.pc = .ok w)

/-- What a word decodes to. -/
def Reads (w : BitVec 32) (i : Instr) : Prop := decode w = .ok i ∧ encode i = some w

/-- The bounds that the manual gives: the cores' lists, the islands' clocks and the throttles. -/
def Bounded (s : State) : Prop :=
  s.coresBounded ∧ s.islandsLegal ∧ ∀ k, (Map.getD k Throttle.reset s.throttles).legal

end Sys2Proof.Claims

/-- 03 R41; 05 R86; 06 R94; 07 R127, R135: when the word that the chosen thread issues decodes to an instruction, the
step is `exec` of that instruction in the state in which the thread issues; a word that is no instruction is an
encoding fault, and a fetch that fails traps or waits. An event whose turn it is runs by `exec` likewise. The turns
are the model's own (log entry 5). -/
def Obligations.StepRunsDecodedInstruction : Prop :=
  (∀ (s v : State) (core slot : Nat) (w : BitVec 32), TurnIssues s v core slot →
    (∀ i, NextWord v w → decode w = .ok i → step s = exec i { v with word := w }) ∧
    (∀ e, NextWord v w → decode w = .error e → step s = instrFault { v with word := w } 0x10) ∧
    (∀ x, v.me.replay = none → v.me.vec.loop = none → fetchWord v v.cur v.me.pc = .error x → step s = stopAt v x)) ∧
  ∀ (s : State) (i : Instr) (ns : Nat) (r : List Turn), s.agenda = .event i ns :: r → encode i = none → s.frozen = false →
    step s = exec i (tick ns { s with agenda := r })

/-- 03 R24 to R46: words written out from the encoding tables stand for their instructions, and words that the tables
exclude for none. -/
def Obligations.DecodeWords : Prop :=
  Reads 0b0000001_0000011_0000000_00000000101#32 (.addi 3 0 5) ∧
  Reads 0b0000000_0000001_0000010_0000011_0001#32 (.sub 1 2 3) ∧
  Reads 0b0100000_0001001_0001000_010_11111110#32 (.ld 9 8 2 0xFE) ∧
  Reads 0b0010011_0000100_000_111111111111111#32 (.beqz 4 0x7FFF) ∧
  Reads 0b0010001_0000000000000000001000000#32 (.jal 64) ∧
  Reads 0b0011010_0000111_0000000_00001010010#32 (.crd 7 0x052) ∧
  Reads 0b00101100000000_000000000000001001#32 (.svc 9) ∧
  Reads 0b0110000_0000001_0000010_0111_00_01011#32 (.setvl 1 2 7 0 11) ∧
  Reads 0b1000000_0000101_0000110_0000111_1_0_00#32 (.vadd 5 6 7 true false) ∧
  Reads 0b1100000_0001000_0001001_0001010_0_1_00#32 (.vld 8 9 10 false true) ∧
  Reads 0b11100000000_011_0010100_0010101_1_000#32 (.mop 3 20 21 true) ∧
  Reads 0b11101000000_010_0010001_00000000000#32 (.itopen 2 17) ∧
  decode 0b1000000_0000000_0000110_0000111_1_0_00#32 = .error .maskBit ∧
  decode 0b0111100_0000001_0000010_00_00000_0000#32 = .error .tag ∧
  decode 0b0011110_0000001_000000000000000_111#32 = .error .variant ∧
  decode 0b0000101_0000001_0000010_00001_000011#32 = .error .reserved

/-- 03 R24 to R46: every well-formed instruction that a word stands for is what the decoder reads from that word: no
bit of any operand is dropped or moved. -/
def Obligations.DecodeEncodeAgree : Prop :=
  ∀ (i : Instr) (w : BitVec 32), WellFormed i = true → encode i = some w → decode w = .ok i

/-- 03 R41, R42; 19 R307: whatever the state, an instruction word leads to a next state: what it may not do is an
exception that the thread takes, and no word stops the machine. -/
def Obligations.NoWordStopsTheMachine : Prop :=
  ∀ (i : Instr) (s : State), (encode i).isSome = true → ∃ t, exec i s = .next t

/-- 10 R199; 17 R286, R287: no step breaks the memory's canonical form, so that a byte is listed once, and only while it
differs from what an unwritten byte reads as.
The form is the model's own. -/
def Obligations.StepKeepsMemory : Prop :=
  ∀ s t : State, s.memOk → step s = .next t → t.memOk

/-- 05 R76, R92; 19 R315: no step takes a core beyond 256 pending entries or 8 suspended handlers, a clock out of 600 to
2,400 MHz in steps of 100, or a throttle beyond level 7 or below an allowance of 1. -/
def Obligations.StepKeepsBounds : Prop :=
  ∀ s t : State, Bounded s → step s = .next t → Bounded t

/-- 04 R47, R49; 05 R72; 07 R120; 23 R346: the state after reset has its memory in canonical form and keeps every
bound; every island is on at 2,400 MHz, one context lives, which holds everything and has no launch and no revocation;
nothing is pending in a core, a thread, or the package; no thread runs, and every register reads 0; no unit of memory is
poisoned. What memory reads as at reset, that it is clean of poison, and the values the manual does not give, are the
model's (log entries 1, 2, 7, 45). -/
def Obligations.ResetHoldsInvariants : Prop :=
  State.reset.memOk ∧ Bounded State.reset ∧ (∀ n, (State.reset.island n).on = true ∧ (State.reset.island n).mhz = 2400) ∧
  (∀ id, State.reset.live id = true ↔ id = 0) ∧ (∀ k, (State.reset.thread k).status = .off) ∧
  (∀ k, (State.reset.thread k).vec.vl = 0 ∧ (State.reset.thread k).vec.freeze = false) ∧
  (∀ k (n : BitVec 7), (State.reset.thread k).rd n = 0) ∧
  (∀ k, (State.reset.thread k).pend = [] ∧ (State.reset.thread k).cmds = [] ∧ (State.reset.thread k).markers = [] ∧
    (State.reset.thread k).mcheck = [] ∧ (State.reset.thread k).replay = none ∧ (State.reset.thread k).task = none) ∧
  (∀ c, (State.reset.coreAt c).pending = [] ∧ (State.reset.coreAt c).blocked = [] ∧ (State.reset.coreAt c).stack = []) ∧
  State.reset.held = [] ∧ State.reset.shoot = [] ∧ State.reset.rings = [] ∧ State.reset.sends = [] ∧
  State.reset.crews = [] ∧ State.reset.reserved = [] ∧ State.reset.tlb = [] ∧ State.reset.poison = [] ∧
  (State.reset.ctxAt 0).budget = Budget.full ∧ (State.reset.ctxAt 0).launches = [] ∧ (State.reset.ctxAt 0).revs = []
end

