-- ==== Sys2Proof/Laws/Map.lean ====
section
/-! SUPPORT. The laws of the sparse maps and byte stores. -/

namespace Sys2Proof.Machine

variable {α : Type}

@[simp] theorem Map.find_nil (k : Nat) : Map.find k ([] : Map α) = none := rfl

theorem Map.find_cons (k j : Nat) (v : α) (r : Map α) :
    Map.find k ((j, v) :: r) = if j = k then some v else Map.find k r := rfl

/-- Reading a key after putting a value at a key. -/
theorem Map.find_put (k j : Nat) (v : α) (m : Map α) :
    Map.find j (Map.put k v m) = if k = j then some v else Map.find j m := by
  induction m with
  | nil => rfl
  | cons p r ih =>
    obtain ⟨i, u⟩ := p
    simp only [Map.put]
    split
    · simp only [Map.find_cons]
    · split
      · subst_vars; simp only [Map.find_cons]; split <;> rfl
      · simp only [Map.find_cons, ih]; split <;> split <;> first | rfl | omega

@[simp] theorem Map.find_put_self (k : Nat) (v : α) (m : Map α) : Map.find k (Map.put k v m) = some v := by
  rw [Map.find_put, if_pos rfl]

theorem Map.find_put_ne {k j : Nat} (h : j ≠ k) (v : α) (m : Map α) : Map.find j (Map.put k v m) = Map.find j m := by
  rw [Map.find_put, if_neg (Ne.symm h)]

@[simp] theorem Map.getD_nil (k : Nat) (d : α) : Map.getD k d ([] : Map α) = d := rfl

@[simp] theorem Map.getD_put_self (k : Nat) (d v : α) (m : Map α) : Map.getD k d (Map.put k v m) = v := by
  simp [Map.getD]

theorem Map.getD_put_ne {k j : Nat} (h : j ≠ k) (d v : α) (m : Map α) :
    Map.getD j d (Map.put k v m) = Map.getD j d m := by
  simp [Map.getD, Map.find_put_ne h]

/-- Reading a key after deleting a key. -/
theorem Map.find_del (k j : Nat) (m : Map α) : Map.find j (Map.del k m) = if k = j then none else Map.find j m := by
  induction m with
  | nil => simp [Map.del]
  | cons p r ih =>
    obtain ⟨i, u⟩ := p
    simp only [Map.del, List.filter_cons] at ih ⊢
    split
    · simp only [Map.find_cons, ih]; split <;> split <;> simp_all
    · rw [ih]; simp only [Map.find_cons]; split <;> simp_all

/-! ## Byte stores -/

/-- Read after write: the byte written, and every other byte as it was. -/
theorem cellGet_cellSet (d : Nat → Byte) (m : List Host.Cell) (k j : Nat) (b : Byte) :
    cellGet d (cellSet d m k b) j = if k = j then b else cellGet d m j := by
  unfold cellGet cellSet Map.getD
  split
  · rename_i h; rw [Map.find_del]; split
    · subst_vars; simp
    · rfl
  · rw [Map.find_put]; split
    · subst_vars; simp
    · rfl

@[simp] theorem cellGet_cellSet_self (d : Nat → Byte) (m : List Host.Cell) (k : Nat) (b : Byte) :
    cellGet d (cellSet d m k b) k = b := by rw [cellGet_cellSet, if_pos rfl]

theorem cellGet_cellSet_ne (d : Nat → Byte) (m : List Host.Cell) {k j : Nat} (h : j ≠ k) (b : Byte) :
    cellGet d (cellSet d m k b) j = cellGet d m j := by rw [cellGet_cellSet, if_neg (Ne.symm h)]

theorem cellsWf_cons (d : Nat → Byte) (k : Nat) (b : Byte) (r : List Host.Cell) :
    cellsWf d ((k, b) :: r) = true ↔ b ≠ d k ∧ (∀ p ∈ r, k < p.1) ∧ cellsWf d r = true := by
  simp [cellsWf, and_assoc]

/-- Leaving entries out keeps the canonical form. -/
theorem cellsWf_filter (d : Nat → Byte) (f : Host.Cell → Bool) {m : List Host.Cell} (h : cellsWf d m = true) :
    cellsWf d (m.filter f) = true := by
  induction m with
  | nil => exact h
  | cons p r ih =>
    obtain ⟨k, b⟩ := p
    obtain ⟨h1, h2, h3⟩ := (cellsWf_cons d k b r).1 h
    rw [List.filter_cons]
    split
    · exact (cellsWf_cons d k b _).2 ⟨h1, fun p hp => h2 p ((List.mem_filter.1 hp).1), ih h3⟩
    · exact ih h3

theorem Map.mem_put {k : Nat} {v : α} {m : Map α} {p : Nat × α} (h : p ∈ Map.put k v m) : p = (k, v) ∨ p ∈ m := by
  induction m with
  | nil => simpa [Map.put] using h
  | cons q r ih =>
    obtain ⟨j, u⟩ := q
    simp only [Map.put] at h
    split at h
    · simpa using h
    · split at h
      · rcases List.mem_cons.1 h with h | h
        · exact .inl h
        · exact .inr (List.mem_cons_of_mem _ h)
      · rcases List.mem_cons.1 h with h | h
        · exact .inr (h ▸ List.mem_cons_self)
        · exact (ih h).imp_right (List.mem_cons_of_mem _)

theorem cellsWf_put (d : Nat → Byte) {m : List Host.Cell} (h : cellsWf d m = true) {k : Nat} {b : Byte} (hb : b ≠ d k) :
    cellsWf d (Map.put k b m) = true := by
  induction m with
  | nil => exact (cellsWf_cons d k b []).2 ⟨hb, by simp, rfl⟩
  | cons p r ih =>
    obtain ⟨j, u⟩ := p
    obtain ⟨h1, h2, h3⟩ := (cellsWf_cons d j u r).1 h
    simp only [Map.put]
    split
    · rename_i hk
      refine (cellsWf_cons d k b _).2 ⟨hb, fun p hp => ?_, h⟩
      rcases List.mem_cons.1 hp with hp | hp
      · exact hp ▸ hk
      · exact Nat.lt_trans hk (h2 p hp)
    · split
      · rename_i hk; subst hk
        exact (cellsWf_cons d k b r).2 ⟨hb, h2, h3⟩
      · refine (cellsWf_cons d j u _).2 ⟨h1, fun p hp => ?_, ih h3⟩
        rcases Map.mem_put hp with hp | hp
        · subst hp; simp only; omega
        · exact h2 p hp

/-- A write keeps the canonical form. -/
theorem cellsWf_cellSet (d : Nat → Byte) {m : List Host.Cell} (h : cellsWf d m = true) (k : Nat) (b : Byte) :
    cellsWf d (cellSet d m k b) = true := by
  unfold cellSet
  split
  · exact cellsWf_filter d _ h
  · exact cellsWf_put d h ‹_›

/-- A later entry at a key takes the place of an earlier one. -/
@[simp] theorem Map.put_put (k : Nat) (u v : α) (m : Map α) : Map.put k v (Map.put k u m) = Map.put k v m := by
  induction m with
  | nil => simp [Map.put]
  | cons p r ih =>
    by_cases h : k < p.1
    · simp [Map.put, h]
    · by_cases e : k = p.1
      · simp [Map.put, e]
      · simp [Map.put, h, e, ih]

end Sys2Proof.Machine
end

