-- ==== Sys2Proof/Laws/State.lean ====
section
/-! SUPPORT. What each update of the state does to each field, so that no later proof unfolds a record update; and
the reading of a thread, a core or a context after one is set. -/

namespace Sys2Proof.Machine

variable (s : State)

/-! ## setThread -/

@[simp] theorem State.setThread_mem (k : Nat) (t : Thread) : (s.setThread k t).mem = s.mem := rfl
@[simp] theorem State.setThread_hist (k : Nat) (t : Thread) : (s.setThread k t).hist = s.hist := rfl
@[simp] theorem State.setThread_pubs (k : Nat) (t : Thread) : (s.setThread k t).pubs = s.pubs := rfl
@[simp] theorem State.setThread_sends (k : Nat) (t : Thread) : (s.setThread k t).sends = s.sends := rfl
@[simp] theorem State.setThread_poison (k : Nat) (t : Thread) : (s.setThread k t).poison = s.poison := rfl
@[simp] theorem State.setThread_ns (k : Nat) (t : Thread) : (s.setThread k t).ns = s.ns := rfl
@[simp] theorem State.setThread_islands (k : Nat) (t : Thread) : (s.setThread k t).islands = s.islands := rfl
@[simp] theorem State.setThread_threads (k : Nat) (t : Thread) : (s.setThread k t).threads = Map.put k t s.threads := rfl
@[simp] theorem State.setThread_cores (k : Nat) (t : Thread) : (s.setThread k t).cores = s.cores := rfl
@[simp] theorem State.setThread_ctxs (k : Nat) (t : Thread) : (s.setThread k t).ctxs = s.ctxs := rfl
@[simp] theorem State.setThread_crews (k : Nat) (t : Thread) : (s.setThread k t).crews = s.crews := rfl
@[simp] theorem State.setThread_held (k : Nat) (t : Thread) : (s.setThread k t).held = s.held := rfl
@[simp] theorem State.setThread_active (k : Nat) (t : Thread) : (s.setThread k t).active = s.active := rfl
@[simp] theorem State.setThread_turns (k : Nat) (t : Thread) : (s.setThread k t).turns = s.turns := rfl
@[simp] theorem State.setThread_reserved (k : Nat) (t : Thread) : (s.setThread k t).reserved = s.reserved := rfl
@[simp] theorem State.setThread_tlb (k : Nat) (t : Thread) : (s.setThread k t).tlb = s.tlb := rfl
@[simp] theorem State.setThread_shoot (k : Nat) (t : Thread) : (s.setThread k t).shoot = s.shoot := rfl
@[simp] theorem State.setThread_rings (k : Nat) (t : Thread) : (s.setThread k t).rings = s.rings := rfl
@[simp] theorem State.setThread_mgmt (k : Nat) (t : Thread) : (s.setThread k t).mgmt = s.mgmt := rfl
@[simp] theorem State.setThread_peerSel (k : Nat) (t : Thread) : (s.setThread k t).peerSel = s.peerSel := rfl
@[simp] theorem State.setThread_ports (k : Nat) (t : Thread) : (s.setThread k t).ports = s.ports := rfl
@[simp] theorem State.setThread_sentUpTo (k : Nat) (t : Thread) : (s.setThread k t).sentUpTo = s.sentUpTo := rfl
@[simp] theorem State.setThread_bwClass (k : Nat) (t : Thread) : (s.setThread k t).bwClass = s.bwClass := rfl
@[simp] theorem State.setThread_bwWeights (k : Nat) (t : Thread) : (s.setThread k t).bwWeights = s.bwWeights := rfl
@[simp] theorem State.setThread_throttles (k : Nat) (t : Thread) : (s.setThread k t).throttles = s.throttles := rfl
@[simp] theorem State.setThread_counters (k : Nat) (t : Thread) : (s.setThread k t).counters = s.counters := rfl
@[simp] theorem State.setThread_snoop (k : Nat) (t : Thread) : (s.setThread k t).snoop = s.snoop := rfl
@[simp] theorem State.setThread_hostErr (k : Nat) (t : Thread) : (s.setThread k t).hostErr = s.hostErr := rfl
@[simp] theorem State.setThread_hostPoison (k : Nat) (t : Thread) : (s.setThread k t).hostPoison = s.hostPoison := rfl
@[simp] theorem State.setThread_outbox (k : Nat) (t : Thread) : (s.setThread k t).outbox = s.outbox := rfl
@[simp] theorem State.setThread_outboxPoison (k : Nat) (t : Thread) : (s.setThread k t).outboxPoison = s.outboxPoison := rfl
@[simp] theorem State.setThread_frozen (k : Nat) (t : Thread) : (s.setThread k t).frozen = s.frozen := rfl
@[simp] theorem State.setThread_agenda (k : Nat) (t : Thread) : (s.setThread k t).agenda = s.agenda := rfl
@[simp] theorem State.setThread_core (k : Nat) (t : Thread) : (s.setThread k t).core = s.core := rfl
@[simp] theorem State.setThread_cur (k : Nat) (t : Thread) : (s.setThread k t).cur = s.cur := rfl
@[simp] theorem State.setThread_word (k : Nat) (t : Thread) : (s.setThread k t).word = s.word := rfl
@[simp] theorem State.setThread_fresh (k : Nat) (t : Thread) : (s.setThread k t).fresh = s.fresh := rfl

/-! ## modThread -/

@[simp] theorem State.modThread_mem (k : Nat) (f : Thread → Thread) : (s.modThread k f).mem = s.mem := rfl
@[simp] theorem State.modThread_hist (k : Nat) (f : Thread → Thread) : (s.modThread k f).hist = s.hist := rfl
@[simp] theorem State.modThread_pubs (k : Nat) (f : Thread → Thread) : (s.modThread k f).pubs = s.pubs := rfl
@[simp] theorem State.modThread_sends (k : Nat) (f : Thread → Thread) : (s.modThread k f).sends = s.sends := rfl
@[simp] theorem State.modThread_poison (k : Nat) (f : Thread → Thread) : (s.modThread k f).poison = s.poison := rfl
@[simp] theorem State.modThread_ns (k : Nat) (f : Thread → Thread) : (s.modThread k f).ns = s.ns := rfl
@[simp] theorem State.modThread_islands (k : Nat) (f : Thread → Thread) : (s.modThread k f).islands = s.islands := rfl
@[simp] theorem State.modThread_threads (k : Nat) (f : Thread → Thread) : (s.modThread k f).threads = Map.put k (f (s.thread k)) s.threads := rfl
@[simp] theorem State.modThread_cores (k : Nat) (f : Thread → Thread) : (s.modThread k f).cores = s.cores := rfl
@[simp] theorem State.modThread_ctxs (k : Nat) (f : Thread → Thread) : (s.modThread k f).ctxs = s.ctxs := rfl
@[simp] theorem State.modThread_crews (k : Nat) (f : Thread → Thread) : (s.modThread k f).crews = s.crews := rfl
@[simp] theorem State.modThread_held (k : Nat) (f : Thread → Thread) : (s.modThread k f).held = s.held := rfl
@[simp] theorem State.modThread_active (k : Nat) (f : Thread → Thread) : (s.modThread k f).active = s.active := rfl
@[simp] theorem State.modThread_turns (k : Nat) (f : Thread → Thread) : (s.modThread k f).turns = s.turns := rfl
@[simp] theorem State.modThread_reserved (k : Nat) (f : Thread → Thread) : (s.modThread k f).reserved = s.reserved := rfl
@[simp] theorem State.modThread_tlb (k : Nat) (f : Thread → Thread) : (s.modThread k f).tlb = s.tlb := rfl
@[simp] theorem State.modThread_shoot (k : Nat) (f : Thread → Thread) : (s.modThread k f).shoot = s.shoot := rfl
@[simp] theorem State.modThread_rings (k : Nat) (f : Thread → Thread) : (s.modThread k f).rings = s.rings := rfl
@[simp] theorem State.modThread_mgmt (k : Nat) (f : Thread → Thread) : (s.modThread k f).mgmt = s.mgmt := rfl
@[simp] theorem State.modThread_peerSel (k : Nat) (f : Thread → Thread) : (s.modThread k f).peerSel = s.peerSel := rfl
@[simp] theorem State.modThread_ports (k : Nat) (f : Thread → Thread) : (s.modThread k f).ports = s.ports := rfl
@[simp] theorem State.modThread_sentUpTo (k : Nat) (f : Thread → Thread) : (s.modThread k f).sentUpTo = s.sentUpTo := rfl
@[simp] theorem State.modThread_bwClass (k : Nat) (f : Thread → Thread) : (s.modThread k f).bwClass = s.bwClass := rfl
@[simp] theorem State.modThread_bwWeights (k : Nat) (f : Thread → Thread) : (s.modThread k f).bwWeights = s.bwWeights := rfl
@[simp] theorem State.modThread_throttles (k : Nat) (f : Thread → Thread) : (s.modThread k f).throttles = s.throttles := rfl
@[simp] theorem State.modThread_counters (k : Nat) (f : Thread → Thread) : (s.modThread k f).counters = s.counters := rfl
@[simp] theorem State.modThread_snoop (k : Nat) (f : Thread → Thread) : (s.modThread k f).snoop = s.snoop := rfl
@[simp] theorem State.modThread_hostErr (k : Nat) (f : Thread → Thread) : (s.modThread k f).hostErr = s.hostErr := rfl
@[simp] theorem State.modThread_hostPoison (k : Nat) (f : Thread → Thread) : (s.modThread k f).hostPoison = s.hostPoison := rfl
@[simp] theorem State.modThread_outbox (k : Nat) (f : Thread → Thread) : (s.modThread k f).outbox = s.outbox := rfl
@[simp] theorem State.modThread_outboxPoison (k : Nat) (f : Thread → Thread) : (s.modThread k f).outboxPoison = s.outboxPoison := rfl
@[simp] theorem State.modThread_frozen (k : Nat) (f : Thread → Thread) : (s.modThread k f).frozen = s.frozen := rfl
@[simp] theorem State.modThread_agenda (k : Nat) (f : Thread → Thread) : (s.modThread k f).agenda = s.agenda := rfl
@[simp] theorem State.modThread_core (k : Nat) (f : Thread → Thread) : (s.modThread k f).core = s.core := rfl
@[simp] theorem State.modThread_cur (k : Nat) (f : Thread → Thread) : (s.modThread k f).cur = s.cur := rfl
@[simp] theorem State.modThread_word (k : Nat) (f : Thread → Thread) : (s.modThread k f).word = s.word := rfl
@[simp] theorem State.modThread_fresh (k : Nat) (f : Thread → Thread) : (s.modThread k f).fresh = s.fresh := rfl

/-! ## setMe -/

@[simp] theorem State.setMe_mem (t : Thread) : (s.setMe t).mem = s.mem := rfl
@[simp] theorem State.setMe_hist (t : Thread) : (s.setMe t).hist = s.hist := rfl
@[simp] theorem State.setMe_pubs (t : Thread) : (s.setMe t).pubs = s.pubs := rfl
@[simp] theorem State.setMe_sends (t : Thread) : (s.setMe t).sends = s.sends := rfl
@[simp] theorem State.setMe_poison (t : Thread) : (s.setMe t).poison = s.poison := rfl
@[simp] theorem State.setMe_ns (t : Thread) : (s.setMe t).ns = s.ns := rfl
@[simp] theorem State.setMe_islands (t : Thread) : (s.setMe t).islands = s.islands := rfl
@[simp] theorem State.setMe_threads (t : Thread) : (s.setMe t).threads = Map.put s.cur t s.threads := rfl
@[simp] theorem State.setMe_cores (t : Thread) : (s.setMe t).cores = s.cores := rfl
@[simp] theorem State.setMe_ctxs (t : Thread) : (s.setMe t).ctxs = s.ctxs := rfl
@[simp] theorem State.setMe_crews (t : Thread) : (s.setMe t).crews = s.crews := rfl
@[simp] theorem State.setMe_held (t : Thread) : (s.setMe t).held = s.held := rfl
@[simp] theorem State.setMe_active (t : Thread) : (s.setMe t).active = s.active := rfl
@[simp] theorem State.setMe_turns (t : Thread) : (s.setMe t).turns = s.turns := rfl
@[simp] theorem State.setMe_reserved (t : Thread) : (s.setMe t).reserved = s.reserved := rfl
@[simp] theorem State.setMe_tlb (t : Thread) : (s.setMe t).tlb = s.tlb := rfl
@[simp] theorem State.setMe_shoot (t : Thread) : (s.setMe t).shoot = s.shoot := rfl
@[simp] theorem State.setMe_rings (t : Thread) : (s.setMe t).rings = s.rings := rfl
@[simp] theorem State.setMe_mgmt (t : Thread) : (s.setMe t).mgmt = s.mgmt := rfl
@[simp] theorem State.setMe_peerSel (t : Thread) : (s.setMe t).peerSel = s.peerSel := rfl
@[simp] theorem State.setMe_ports (t : Thread) : (s.setMe t).ports = s.ports := rfl
@[simp] theorem State.setMe_sentUpTo (t : Thread) : (s.setMe t).sentUpTo = s.sentUpTo := rfl
@[simp] theorem State.setMe_bwClass (t : Thread) : (s.setMe t).bwClass = s.bwClass := rfl
@[simp] theorem State.setMe_bwWeights (t : Thread) : (s.setMe t).bwWeights = s.bwWeights := rfl
@[simp] theorem State.setMe_throttles (t : Thread) : (s.setMe t).throttles = s.throttles := rfl
@[simp] theorem State.setMe_counters (t : Thread) : (s.setMe t).counters = s.counters := rfl
@[simp] theorem State.setMe_snoop (t : Thread) : (s.setMe t).snoop = s.snoop := rfl
@[simp] theorem State.setMe_hostErr (t : Thread) : (s.setMe t).hostErr = s.hostErr := rfl
@[simp] theorem State.setMe_hostPoison (t : Thread) : (s.setMe t).hostPoison = s.hostPoison := rfl
@[simp] theorem State.setMe_outbox (t : Thread) : (s.setMe t).outbox = s.outbox := rfl
@[simp] theorem State.setMe_outboxPoison (t : Thread) : (s.setMe t).outboxPoison = s.outboxPoison := rfl
@[simp] theorem State.setMe_frozen (t : Thread) : (s.setMe t).frozen = s.frozen := rfl
@[simp] theorem State.setMe_agenda (t : Thread) : (s.setMe t).agenda = s.agenda := rfl
@[simp] theorem State.setMe_core (t : Thread) : (s.setMe t).core = s.core := rfl
@[simp] theorem State.setMe_cur (t : Thread) : (s.setMe t).cur = s.cur := rfl
@[simp] theorem State.setMe_word (t : Thread) : (s.setMe t).word = s.word := rfl
@[simp] theorem State.setMe_fresh (t : Thread) : (s.setMe t).fresh = s.fresh := rfl

/-! ## modMe -/

@[simp] theorem State.modMe_mem (f : Thread → Thread) : (s.modMe f).mem = s.mem := rfl
@[simp] theorem State.modMe_hist (f : Thread → Thread) : (s.modMe f).hist = s.hist := rfl
@[simp] theorem State.modMe_pubs (f : Thread → Thread) : (s.modMe f).pubs = s.pubs := rfl
@[simp] theorem State.modMe_sends (f : Thread → Thread) : (s.modMe f).sends = s.sends := rfl
@[simp] theorem State.modMe_poison (f : Thread → Thread) : (s.modMe f).poison = s.poison := rfl
@[simp] theorem State.modMe_ns (f : Thread → Thread) : (s.modMe f).ns = s.ns := rfl
@[simp] theorem State.modMe_islands (f : Thread → Thread) : (s.modMe f).islands = s.islands := rfl
@[simp] theorem State.modMe_threads (f : Thread → Thread) : (s.modMe f).threads = Map.put s.cur (f s.me) s.threads := rfl
@[simp] theorem State.modMe_cores (f : Thread → Thread) : (s.modMe f).cores = s.cores := rfl
@[simp] theorem State.modMe_ctxs (f : Thread → Thread) : (s.modMe f).ctxs = s.ctxs := rfl
@[simp] theorem State.modMe_crews (f : Thread → Thread) : (s.modMe f).crews = s.crews := rfl
@[simp] theorem State.modMe_held (f : Thread → Thread) : (s.modMe f).held = s.held := rfl
@[simp] theorem State.modMe_active (f : Thread → Thread) : (s.modMe f).active = s.active := rfl
@[simp] theorem State.modMe_turns (f : Thread → Thread) : (s.modMe f).turns = s.turns := rfl
@[simp] theorem State.modMe_reserved (f : Thread → Thread) : (s.modMe f).reserved = s.reserved := rfl
@[simp] theorem State.modMe_tlb (f : Thread → Thread) : (s.modMe f).tlb = s.tlb := rfl
@[simp] theorem State.modMe_shoot (f : Thread → Thread) : (s.modMe f).shoot = s.shoot := rfl
@[simp] theorem State.modMe_rings (f : Thread → Thread) : (s.modMe f).rings = s.rings := rfl
@[simp] theorem State.modMe_mgmt (f : Thread → Thread) : (s.modMe f).mgmt = s.mgmt := rfl
@[simp] theorem State.modMe_peerSel (f : Thread → Thread) : (s.modMe f).peerSel = s.peerSel := rfl
@[simp] theorem State.modMe_ports (f : Thread → Thread) : (s.modMe f).ports = s.ports := rfl
@[simp] theorem State.modMe_sentUpTo (f : Thread → Thread) : (s.modMe f).sentUpTo = s.sentUpTo := rfl
@[simp] theorem State.modMe_bwClass (f : Thread → Thread) : (s.modMe f).bwClass = s.bwClass := rfl
@[simp] theorem State.modMe_bwWeights (f : Thread → Thread) : (s.modMe f).bwWeights = s.bwWeights := rfl
@[simp] theorem State.modMe_throttles (f : Thread → Thread) : (s.modMe f).throttles = s.throttles := rfl
@[simp] theorem State.modMe_counters (f : Thread → Thread) : (s.modMe f).counters = s.counters := rfl
@[simp] theorem State.modMe_snoop (f : Thread → Thread) : (s.modMe f).snoop = s.snoop := rfl
@[simp] theorem State.modMe_hostErr (f : Thread → Thread) : (s.modMe f).hostErr = s.hostErr := rfl
@[simp] theorem State.modMe_hostPoison (f : Thread → Thread) : (s.modMe f).hostPoison = s.hostPoison := rfl
@[simp] theorem State.modMe_outbox (f : Thread → Thread) : (s.modMe f).outbox = s.outbox := rfl
@[simp] theorem State.modMe_outboxPoison (f : Thread → Thread) : (s.modMe f).outboxPoison = s.outboxPoison := rfl
@[simp] theorem State.modMe_frozen (f : Thread → Thread) : (s.modMe f).frozen = s.frozen := rfl
@[simp] theorem State.modMe_agenda (f : Thread → Thread) : (s.modMe f).agenda = s.agenda := rfl
@[simp] theorem State.modMe_core (f : Thread → Thread) : (s.modMe f).core = s.core := rfl
@[simp] theorem State.modMe_cur (f : Thread → Thread) : (s.modMe f).cur = s.cur := rfl
@[simp] theorem State.modMe_word (f : Thread → Thread) : (s.modMe f).word = s.word := rfl
@[simp] theorem State.modMe_fresh (f : Thread → Thread) : (s.modMe f).fresh = s.fresh := rfl

/-! ## modVec -/

@[simp] theorem State.modVec_mem (f : Vec → Vec) : (s.modVec f).mem = s.mem := rfl
@[simp] theorem State.modVec_hist (f : Vec → Vec) : (s.modVec f).hist = s.hist := rfl
@[simp] theorem State.modVec_pubs (f : Vec → Vec) : (s.modVec f).pubs = s.pubs := rfl
@[simp] theorem State.modVec_sends (f : Vec → Vec) : (s.modVec f).sends = s.sends := rfl
@[simp] theorem State.modVec_poison (f : Vec → Vec) : (s.modVec f).poison = s.poison := rfl
@[simp] theorem State.modVec_ns (f : Vec → Vec) : (s.modVec f).ns = s.ns := rfl
@[simp] theorem State.modVec_islands (f : Vec → Vec) : (s.modVec f).islands = s.islands := rfl
@[simp] theorem State.modVec_threads (f : Vec → Vec) : (s.modVec f).threads = Map.put s.cur { s.me with vec := f s.me.vec } s.threads := rfl
@[simp] theorem State.modVec_cores (f : Vec → Vec) : (s.modVec f).cores = s.cores := rfl
@[simp] theorem State.modVec_ctxs (f : Vec → Vec) : (s.modVec f).ctxs = s.ctxs := rfl
@[simp] theorem State.modVec_crews (f : Vec → Vec) : (s.modVec f).crews = s.crews := rfl
@[simp] theorem State.modVec_held (f : Vec → Vec) : (s.modVec f).held = s.held := rfl
@[simp] theorem State.modVec_active (f : Vec → Vec) : (s.modVec f).active = s.active := rfl
@[simp] theorem State.modVec_turns (f : Vec → Vec) : (s.modVec f).turns = s.turns := rfl
@[simp] theorem State.modVec_reserved (f : Vec → Vec) : (s.modVec f).reserved = s.reserved := rfl
@[simp] theorem State.modVec_tlb (f : Vec → Vec) : (s.modVec f).tlb = s.tlb := rfl
@[simp] theorem State.modVec_shoot (f : Vec → Vec) : (s.modVec f).shoot = s.shoot := rfl
@[simp] theorem State.modVec_rings (f : Vec → Vec) : (s.modVec f).rings = s.rings := rfl
@[simp] theorem State.modVec_mgmt (f : Vec → Vec) : (s.modVec f).mgmt = s.mgmt := rfl
@[simp] theorem State.modVec_peerSel (f : Vec → Vec) : (s.modVec f).peerSel = s.peerSel := rfl
@[simp] theorem State.modVec_ports (f : Vec → Vec) : (s.modVec f).ports = s.ports := rfl
@[simp] theorem State.modVec_sentUpTo (f : Vec → Vec) : (s.modVec f).sentUpTo = s.sentUpTo := rfl
@[simp] theorem State.modVec_bwClass (f : Vec → Vec) : (s.modVec f).bwClass = s.bwClass := rfl
@[simp] theorem State.modVec_bwWeights (f : Vec → Vec) : (s.modVec f).bwWeights = s.bwWeights := rfl
@[simp] theorem State.modVec_throttles (f : Vec → Vec) : (s.modVec f).throttles = s.throttles := rfl
@[simp] theorem State.modVec_counters (f : Vec → Vec) : (s.modVec f).counters = s.counters := rfl
@[simp] theorem State.modVec_snoop (f : Vec → Vec) : (s.modVec f).snoop = s.snoop := rfl
@[simp] theorem State.modVec_hostErr (f : Vec → Vec) : (s.modVec f).hostErr = s.hostErr := rfl
@[simp] theorem State.modVec_hostPoison (f : Vec → Vec) : (s.modVec f).hostPoison = s.hostPoison := rfl
@[simp] theorem State.modVec_outbox (f : Vec → Vec) : (s.modVec f).outbox = s.outbox := rfl
@[simp] theorem State.modVec_outboxPoison (f : Vec → Vec) : (s.modVec f).outboxPoison = s.outboxPoison := rfl
@[simp] theorem State.modVec_frozen (f : Vec → Vec) : (s.modVec f).frozen = s.frozen := rfl
@[simp] theorem State.modVec_agenda (f : Vec → Vec) : (s.modVec f).agenda = s.agenda := rfl
@[simp] theorem State.modVec_core (f : Vec → Vec) : (s.modVec f).core = s.core := rfl
@[simp] theorem State.modVec_cur (f : Vec → Vec) : (s.modVec f).cur = s.cur := rfl
@[simp] theorem State.modVec_word (f : Vec → Vec) : (s.modVec f).word = s.word := rfl
@[simp] theorem State.modVec_fresh (f : Vec → Vec) : (s.modVec f).fresh = s.fresh := rfl

/-! ## tally -/

@[simp] theorem State.tally_mem (f : Counters → Counters) : (s.tally f).mem = s.mem := rfl
@[simp] theorem State.tally_hist (f : Counters → Counters) : (s.tally f).hist = s.hist := rfl
@[simp] theorem State.tally_pubs (f : Counters → Counters) : (s.tally f).pubs = s.pubs := rfl
@[simp] theorem State.tally_sends (f : Counters → Counters) : (s.tally f).sends = s.sends := rfl
@[simp] theorem State.tally_poison (f : Counters → Counters) : (s.tally f).poison = s.poison := rfl
@[simp] theorem State.tally_ns (f : Counters → Counters) : (s.tally f).ns = s.ns := rfl
@[simp] theorem State.tally_islands (f : Counters → Counters) : (s.tally f).islands = s.islands := rfl
@[simp] theorem State.tally_threads (f : Counters → Counters) : (s.tally f).threads = Map.put s.cur { s.me with cnt := f s.me.cnt } s.threads := rfl
@[simp] theorem State.tally_cores (f : Counters → Counters) : (s.tally f).cores = s.cores := rfl
@[simp] theorem State.tally_ctxs (f : Counters → Counters) : (s.tally f).ctxs = s.ctxs := rfl
@[simp] theorem State.tally_crews (f : Counters → Counters) : (s.tally f).crews = s.crews := rfl
@[simp] theorem State.tally_held (f : Counters → Counters) : (s.tally f).held = s.held := rfl
@[simp] theorem State.tally_active (f : Counters → Counters) : (s.tally f).active = s.active := rfl
@[simp] theorem State.tally_turns (f : Counters → Counters) : (s.tally f).turns = s.turns := rfl
@[simp] theorem State.tally_reserved (f : Counters → Counters) : (s.tally f).reserved = s.reserved := rfl
@[simp] theorem State.tally_tlb (f : Counters → Counters) : (s.tally f).tlb = s.tlb := rfl
@[simp] theorem State.tally_shoot (f : Counters → Counters) : (s.tally f).shoot = s.shoot := rfl
@[simp] theorem State.tally_rings (f : Counters → Counters) : (s.tally f).rings = s.rings := rfl
@[simp] theorem State.tally_mgmt (f : Counters → Counters) : (s.tally f).mgmt = s.mgmt := rfl
@[simp] theorem State.tally_peerSel (f : Counters → Counters) : (s.tally f).peerSel = s.peerSel := rfl
@[simp] theorem State.tally_ports (f : Counters → Counters) : (s.tally f).ports = s.ports := rfl
@[simp] theorem State.tally_sentUpTo (f : Counters → Counters) : (s.tally f).sentUpTo = s.sentUpTo := rfl
@[simp] theorem State.tally_bwClass (f : Counters → Counters) : (s.tally f).bwClass = s.bwClass := rfl
@[simp] theorem State.tally_bwWeights (f : Counters → Counters) : (s.tally f).bwWeights = s.bwWeights := rfl
@[simp] theorem State.tally_throttles (f : Counters → Counters) : (s.tally f).throttles = s.throttles := rfl
@[simp] theorem State.tally_counters (f : Counters → Counters) : (s.tally f).counters = s.counters := rfl
@[simp] theorem State.tally_snoop (f : Counters → Counters) : (s.tally f).snoop = s.snoop := rfl
@[simp] theorem State.tally_hostErr (f : Counters → Counters) : (s.tally f).hostErr = s.hostErr := rfl
@[simp] theorem State.tally_hostPoison (f : Counters → Counters) : (s.tally f).hostPoison = s.hostPoison := rfl
@[simp] theorem State.tally_outbox (f : Counters → Counters) : (s.tally f).outbox = s.outbox := rfl
@[simp] theorem State.tally_outboxPoison (f : Counters → Counters) : (s.tally f).outboxPoison = s.outboxPoison := rfl
@[simp] theorem State.tally_frozen (f : Counters → Counters) : (s.tally f).frozen = s.frozen := rfl
@[simp] theorem State.tally_agenda (f : Counters → Counters) : (s.tally f).agenda = s.agenda := rfl
@[simp] theorem State.tally_core (f : Counters → Counters) : (s.tally f).core = s.core := rfl
@[simp] theorem State.tally_cur (f : Counters → Counters) : (s.tally f).cur = s.cur := rfl
@[simp] theorem State.tally_word (f : Counters → Counters) : (s.tally f).word = s.word := rfl
@[simp] theorem State.tally_fresh (f : Counters → Counters) : (s.tally f).fresh = s.fresh := rfl

/-! ## setCore -/

@[simp] theorem State.setCore_mem (k : Nat) (c : Core) : (s.setCore k c).mem = s.mem := rfl
@[simp] theorem State.setCore_hist (k : Nat) (c : Core) : (s.setCore k c).hist = s.hist := rfl
@[simp] theorem State.setCore_pubs (k : Nat) (c : Core) : (s.setCore k c).pubs = s.pubs := rfl
@[simp] theorem State.setCore_sends (k : Nat) (c : Core) : (s.setCore k c).sends = s.sends := rfl
@[simp] theorem State.setCore_poison (k : Nat) (c : Core) : (s.setCore k c).poison = s.poison := rfl
@[simp] theorem State.setCore_ns (k : Nat) (c : Core) : (s.setCore k c).ns = s.ns := rfl
@[simp] theorem State.setCore_islands (k : Nat) (c : Core) : (s.setCore k c).islands = s.islands := rfl
@[simp] theorem State.setCore_threads (k : Nat) (c : Core) : (s.setCore k c).threads = s.threads := rfl
@[simp] theorem State.setCore_cores (k : Nat) (c : Core) : (s.setCore k c).cores = Map.put k c s.cores := rfl
@[simp] theorem State.setCore_ctxs (k : Nat) (c : Core) : (s.setCore k c).ctxs = s.ctxs := rfl
@[simp] theorem State.setCore_crews (k : Nat) (c : Core) : (s.setCore k c).crews = s.crews := rfl
@[simp] theorem State.setCore_held (k : Nat) (c : Core) : (s.setCore k c).held = s.held := rfl
@[simp] theorem State.setCore_active (k : Nat) (c : Core) : (s.setCore k c).active = s.active := rfl
@[simp] theorem State.setCore_turns (k : Nat) (c : Core) : (s.setCore k c).turns = s.turns := rfl
@[simp] theorem State.setCore_reserved (k : Nat) (c : Core) : (s.setCore k c).reserved = s.reserved := rfl
@[simp] theorem State.setCore_tlb (k : Nat) (c : Core) : (s.setCore k c).tlb = s.tlb := rfl
@[simp] theorem State.setCore_shoot (k : Nat) (c : Core) : (s.setCore k c).shoot = s.shoot := rfl
@[simp] theorem State.setCore_rings (k : Nat) (c : Core) : (s.setCore k c).rings = s.rings := rfl
@[simp] theorem State.setCore_mgmt (k : Nat) (c : Core) : (s.setCore k c).mgmt = s.mgmt := rfl
@[simp] theorem State.setCore_peerSel (k : Nat) (c : Core) : (s.setCore k c).peerSel = s.peerSel := rfl
@[simp] theorem State.setCore_ports (k : Nat) (c : Core) : (s.setCore k c).ports = s.ports := rfl
@[simp] theorem State.setCore_sentUpTo (k : Nat) (c : Core) : (s.setCore k c).sentUpTo = s.sentUpTo := rfl
@[simp] theorem State.setCore_bwClass (k : Nat) (c : Core) : (s.setCore k c).bwClass = s.bwClass := rfl
@[simp] theorem State.setCore_bwWeights (k : Nat) (c : Core) : (s.setCore k c).bwWeights = s.bwWeights := rfl
@[simp] theorem State.setCore_throttles (k : Nat) (c : Core) : (s.setCore k c).throttles = s.throttles := rfl
@[simp] theorem State.setCore_counters (k : Nat) (c : Core) : (s.setCore k c).counters = s.counters := rfl
@[simp] theorem State.setCore_snoop (k : Nat) (c : Core) : (s.setCore k c).snoop = s.snoop := rfl
@[simp] theorem State.setCore_hostErr (k : Nat) (c : Core) : (s.setCore k c).hostErr = s.hostErr := rfl
@[simp] theorem State.setCore_hostPoison (k : Nat) (c : Core) : (s.setCore k c).hostPoison = s.hostPoison := rfl
@[simp] theorem State.setCore_outbox (k : Nat) (c : Core) : (s.setCore k c).outbox = s.outbox := rfl
@[simp] theorem State.setCore_outboxPoison (k : Nat) (c : Core) : (s.setCore k c).outboxPoison = s.outboxPoison := rfl
@[simp] theorem State.setCore_frozen (k : Nat) (c : Core) : (s.setCore k c).frozen = s.frozen := rfl
@[simp] theorem State.setCore_agenda (k : Nat) (c : Core) : (s.setCore k c).agenda = s.agenda := rfl
@[simp] theorem State.setCore_core (k : Nat) (c : Core) : (s.setCore k c).core = s.core := rfl
@[simp] theorem State.setCore_cur (k : Nat) (c : Core) : (s.setCore k c).cur = s.cur := rfl
@[simp] theorem State.setCore_word (k : Nat) (c : Core) : (s.setCore k c).word = s.word := rfl
@[simp] theorem State.setCore_fresh (k : Nat) (c : Core) : (s.setCore k c).fresh = s.fresh := rfl

/-! ## modCore -/

@[simp] theorem State.modCore_mem (k : Nat) (f : Core → Core) : (s.modCore k f).mem = s.mem := rfl
@[simp] theorem State.modCore_hist (k : Nat) (f : Core → Core) : (s.modCore k f).hist = s.hist := rfl
@[simp] theorem State.modCore_pubs (k : Nat) (f : Core → Core) : (s.modCore k f).pubs = s.pubs := rfl
@[simp] theorem State.modCore_sends (k : Nat) (f : Core → Core) : (s.modCore k f).sends = s.sends := rfl
@[simp] theorem State.modCore_poison (k : Nat) (f : Core → Core) : (s.modCore k f).poison = s.poison := rfl
@[simp] theorem State.modCore_ns (k : Nat) (f : Core → Core) : (s.modCore k f).ns = s.ns := rfl
@[simp] theorem State.modCore_islands (k : Nat) (f : Core → Core) : (s.modCore k f).islands = s.islands := rfl
@[simp] theorem State.modCore_threads (k : Nat) (f : Core → Core) : (s.modCore k f).threads = s.threads := rfl
@[simp] theorem State.modCore_cores (k : Nat) (f : Core → Core) : (s.modCore k f).cores = Map.put k (f (s.coreAt k)) s.cores := rfl
@[simp] theorem State.modCore_ctxs (k : Nat) (f : Core → Core) : (s.modCore k f).ctxs = s.ctxs := rfl
@[simp] theorem State.modCore_crews (k : Nat) (f : Core → Core) : (s.modCore k f).crews = s.crews := rfl
@[simp] theorem State.modCore_held (k : Nat) (f : Core → Core) : (s.modCore k f).held = s.held := rfl
@[simp] theorem State.modCore_active (k : Nat) (f : Core → Core) : (s.modCore k f).active = s.active := rfl
@[simp] theorem State.modCore_turns (k : Nat) (f : Core → Core) : (s.modCore k f).turns = s.turns := rfl
@[simp] theorem State.modCore_reserved (k : Nat) (f : Core → Core) : (s.modCore k f).reserved = s.reserved := rfl
@[simp] theorem State.modCore_tlb (k : Nat) (f : Core → Core) : (s.modCore k f).tlb = s.tlb := rfl
@[simp] theorem State.modCore_shoot (k : Nat) (f : Core → Core) : (s.modCore k f).shoot = s.shoot := rfl
@[simp] theorem State.modCore_rings (k : Nat) (f : Core → Core) : (s.modCore k f).rings = s.rings := rfl
@[simp] theorem State.modCore_mgmt (k : Nat) (f : Core → Core) : (s.modCore k f).mgmt = s.mgmt := rfl
@[simp] theorem State.modCore_peerSel (k : Nat) (f : Core → Core) : (s.modCore k f).peerSel = s.peerSel := rfl
@[simp] theorem State.modCore_ports (k : Nat) (f : Core → Core) : (s.modCore k f).ports = s.ports := rfl
@[simp] theorem State.modCore_sentUpTo (k : Nat) (f : Core → Core) : (s.modCore k f).sentUpTo = s.sentUpTo := rfl
@[simp] theorem State.modCore_bwClass (k : Nat) (f : Core → Core) : (s.modCore k f).bwClass = s.bwClass := rfl
@[simp] theorem State.modCore_bwWeights (k : Nat) (f : Core → Core) : (s.modCore k f).bwWeights = s.bwWeights := rfl
@[simp] theorem State.modCore_throttles (k : Nat) (f : Core → Core) : (s.modCore k f).throttles = s.throttles := rfl
@[simp] theorem State.modCore_counters (k : Nat) (f : Core → Core) : (s.modCore k f).counters = s.counters := rfl
@[simp] theorem State.modCore_snoop (k : Nat) (f : Core → Core) : (s.modCore k f).snoop = s.snoop := rfl
@[simp] theorem State.modCore_hostErr (k : Nat) (f : Core → Core) : (s.modCore k f).hostErr = s.hostErr := rfl
@[simp] theorem State.modCore_hostPoison (k : Nat) (f : Core → Core) : (s.modCore k f).hostPoison = s.hostPoison := rfl
@[simp] theorem State.modCore_outbox (k : Nat) (f : Core → Core) : (s.modCore k f).outbox = s.outbox := rfl
@[simp] theorem State.modCore_outboxPoison (k : Nat) (f : Core → Core) : (s.modCore k f).outboxPoison = s.outboxPoison := rfl
@[simp] theorem State.modCore_frozen (k : Nat) (f : Core → Core) : (s.modCore k f).frozen = s.frozen := rfl
@[simp] theorem State.modCore_agenda (k : Nat) (f : Core → Core) : (s.modCore k f).agenda = s.agenda := rfl
@[simp] theorem State.modCore_core (k : Nat) (f : Core → Core) : (s.modCore k f).core = s.core := rfl
@[simp] theorem State.modCore_cur (k : Nat) (f : Core → Core) : (s.modCore k f).cur = s.cur := rfl
@[simp] theorem State.modCore_word (k : Nat) (f : Core → Core) : (s.modCore k f).word = s.word := rfl
@[simp] theorem State.modCore_fresh (k : Nat) (f : Core → Core) : (s.modCore k f).fresh = s.fresh := rfl

/-! ## setCtx -/

@[simp] theorem State.setCtx_mem (c : Context) : (s.setCtx c).mem = s.mem := rfl
@[simp] theorem State.setCtx_hist (c : Context) : (s.setCtx c).hist = s.hist := rfl
@[simp] theorem State.setCtx_pubs (c : Context) : (s.setCtx c).pubs = s.pubs := rfl
@[simp] theorem State.setCtx_sends (c : Context) : (s.setCtx c).sends = s.sends := rfl
@[simp] theorem State.setCtx_poison (c : Context) : (s.setCtx c).poison = s.poison := rfl
@[simp] theorem State.setCtx_ns (c : Context) : (s.setCtx c).ns = s.ns := rfl
@[simp] theorem State.setCtx_islands (c : Context) : (s.setCtx c).islands = s.islands := rfl
@[simp] theorem State.setCtx_threads (c : Context) : (s.setCtx c).threads = s.threads := rfl
@[simp] theorem State.setCtx_cores (c : Context) : (s.setCtx c).cores = s.cores := rfl
@[simp] theorem State.setCtx_ctxs (c : Context) : (s.setCtx c).ctxs = Map.put c.id c s.ctxs := rfl
@[simp] theorem State.setCtx_crews (c : Context) : (s.setCtx c).crews = s.crews := rfl
@[simp] theorem State.setCtx_held (c : Context) : (s.setCtx c).held = s.held := rfl
@[simp] theorem State.setCtx_active (c : Context) : (s.setCtx c).active = s.active := rfl
@[simp] theorem State.setCtx_turns (c : Context) : (s.setCtx c).turns = s.turns := rfl
@[simp] theorem State.setCtx_reserved (c : Context) : (s.setCtx c).reserved = s.reserved := rfl
@[simp] theorem State.setCtx_tlb (c : Context) : (s.setCtx c).tlb = s.tlb := rfl
@[simp] theorem State.setCtx_shoot (c : Context) : (s.setCtx c).shoot = s.shoot := rfl
@[simp] theorem State.setCtx_rings (c : Context) : (s.setCtx c).rings = s.rings := rfl
@[simp] theorem State.setCtx_mgmt (c : Context) : (s.setCtx c).mgmt = s.mgmt := rfl
@[simp] theorem State.setCtx_peerSel (c : Context) : (s.setCtx c).peerSel = s.peerSel := rfl
@[simp] theorem State.setCtx_ports (c : Context) : (s.setCtx c).ports = s.ports := rfl
@[simp] theorem State.setCtx_sentUpTo (c : Context) : (s.setCtx c).sentUpTo = s.sentUpTo := rfl
@[simp] theorem State.setCtx_bwClass (c : Context) : (s.setCtx c).bwClass = s.bwClass := rfl
@[simp] theorem State.setCtx_bwWeights (c : Context) : (s.setCtx c).bwWeights = s.bwWeights := rfl
@[simp] theorem State.setCtx_throttles (c : Context) : (s.setCtx c).throttles = s.throttles := rfl
@[simp] theorem State.setCtx_counters (c : Context) : (s.setCtx c).counters = s.counters := rfl
@[simp] theorem State.setCtx_snoop (c : Context) : (s.setCtx c).snoop = s.snoop := rfl
@[simp] theorem State.setCtx_hostErr (c : Context) : (s.setCtx c).hostErr = s.hostErr := rfl
@[simp] theorem State.setCtx_hostPoison (c : Context) : (s.setCtx c).hostPoison = s.hostPoison := rfl
@[simp] theorem State.setCtx_outbox (c : Context) : (s.setCtx c).outbox = s.outbox := rfl
@[simp] theorem State.setCtx_outboxPoison (c : Context) : (s.setCtx c).outboxPoison = s.outboxPoison := rfl
@[simp] theorem State.setCtx_frozen (c : Context) : (s.setCtx c).frozen = s.frozen := rfl
@[simp] theorem State.setCtx_agenda (c : Context) : (s.setCtx c).agenda = s.agenda := rfl
@[simp] theorem State.setCtx_core (c : Context) : (s.setCtx c).core = s.core := rfl
@[simp] theorem State.setCtx_cur (c : Context) : (s.setCtx c).cur = s.cur := rfl
@[simp] theorem State.setCtx_word (c : Context) : (s.setCtx c).word = s.word := rfl
@[simp] theorem State.setCtx_fresh (c : Context) : (s.setCtx c).fresh = s.fresh := rfl

/-! ## setIsland -/

@[simp] theorem State.setIsland_mem (k : Nat) (i : Island) : (s.setIsland k i).mem = s.mem := rfl
@[simp] theorem State.setIsland_hist (k : Nat) (i : Island) : (s.setIsland k i).hist = s.hist := rfl
@[simp] theorem State.setIsland_pubs (k : Nat) (i : Island) : (s.setIsland k i).pubs = s.pubs := rfl
@[simp] theorem State.setIsland_sends (k : Nat) (i : Island) : (s.setIsland k i).sends = s.sends := rfl
@[simp] theorem State.setIsland_poison (k : Nat) (i : Island) : (s.setIsland k i).poison = s.poison := rfl
@[simp] theorem State.setIsland_ns (k : Nat) (i : Island) : (s.setIsland k i).ns = s.ns := rfl
@[simp] theorem State.setIsland_islands (k : Nat) (i : Island) : (s.setIsland k i).islands = Map.put k i s.islands := rfl
@[simp] theorem State.setIsland_threads (k : Nat) (i : Island) : (s.setIsland k i).threads = s.threads := rfl
@[simp] theorem State.setIsland_cores (k : Nat) (i : Island) : (s.setIsland k i).cores = s.cores := rfl
@[simp] theorem State.setIsland_ctxs (k : Nat) (i : Island) : (s.setIsland k i).ctxs = s.ctxs := rfl
@[simp] theorem State.setIsland_crews (k : Nat) (i : Island) : (s.setIsland k i).crews = s.crews := rfl
@[simp] theorem State.setIsland_held (k : Nat) (i : Island) : (s.setIsland k i).held = s.held := rfl
@[simp] theorem State.setIsland_active (k : Nat) (i : Island) : (s.setIsland k i).active = s.active := rfl
@[simp] theorem State.setIsland_turns (k : Nat) (i : Island) : (s.setIsland k i).turns = s.turns := rfl
@[simp] theorem State.setIsland_reserved (k : Nat) (i : Island) : (s.setIsland k i).reserved = s.reserved := rfl
@[simp] theorem State.setIsland_tlb (k : Nat) (i : Island) : (s.setIsland k i).tlb = s.tlb := rfl
@[simp] theorem State.setIsland_shoot (k : Nat) (i : Island) : (s.setIsland k i).shoot = s.shoot := rfl
@[simp] theorem State.setIsland_rings (k : Nat) (i : Island) : (s.setIsland k i).rings = s.rings := rfl
@[simp] theorem State.setIsland_mgmt (k : Nat) (i : Island) : (s.setIsland k i).mgmt = s.mgmt := rfl
@[simp] theorem State.setIsland_peerSel (k : Nat) (i : Island) : (s.setIsland k i).peerSel = s.peerSel := rfl
@[simp] theorem State.setIsland_ports (k : Nat) (i : Island) : (s.setIsland k i).ports = s.ports := rfl
@[simp] theorem State.setIsland_sentUpTo (k : Nat) (i : Island) : (s.setIsland k i).sentUpTo = s.sentUpTo := rfl
@[simp] theorem State.setIsland_bwClass (k : Nat) (i : Island) : (s.setIsland k i).bwClass = s.bwClass := rfl
@[simp] theorem State.setIsland_bwWeights (k : Nat) (i : Island) : (s.setIsland k i).bwWeights = s.bwWeights := rfl
@[simp] theorem State.setIsland_throttles (k : Nat) (i : Island) : (s.setIsland k i).throttles = s.throttles := rfl
@[simp] theorem State.setIsland_counters (k : Nat) (i : Island) : (s.setIsland k i).counters = s.counters := rfl
@[simp] theorem State.setIsland_snoop (k : Nat) (i : Island) : (s.setIsland k i).snoop = s.snoop := rfl
@[simp] theorem State.setIsland_hostErr (k : Nat) (i : Island) : (s.setIsland k i).hostErr = s.hostErr := rfl
@[simp] theorem State.setIsland_hostPoison (k : Nat) (i : Island) : (s.setIsland k i).hostPoison = s.hostPoison := rfl
@[simp] theorem State.setIsland_outbox (k : Nat) (i : Island) : (s.setIsland k i).outbox = s.outbox := rfl
@[simp] theorem State.setIsland_outboxPoison (k : Nat) (i : Island) : (s.setIsland k i).outboxPoison = s.outboxPoison := rfl
@[simp] theorem State.setIsland_frozen (k : Nat) (i : Island) : (s.setIsland k i).frozen = s.frozen := rfl
@[simp] theorem State.setIsland_agenda (k : Nat) (i : Island) : (s.setIsland k i).agenda = s.agenda := rfl
@[simp] theorem State.setIsland_core (k : Nat) (i : Island) : (s.setIsland k i).core = s.core := rfl
@[simp] theorem State.setIsland_cur (k : Nat) (i : Island) : (s.setIsland k i).cur = s.cur := rfl
@[simp] theorem State.setIsland_word (k : Nat) (i : Island) : (s.setIsland k i).word = s.word := rfl
@[simp] theorem State.setIsland_fresh (k : Nat) (i : Island) : (s.setIsland k i).fresh = s.fresh := rfl

/-! ## setPort -/

@[simp] theorem State.setPort_mem (k : Nat) (p : Port) : (s.setPort k p).mem = s.mem := rfl
@[simp] theorem State.setPort_hist (k : Nat) (p : Port) : (s.setPort k p).hist = s.hist := rfl
@[simp] theorem State.setPort_pubs (k : Nat) (p : Port) : (s.setPort k p).pubs = s.pubs := rfl
@[simp] theorem State.setPort_sends (k : Nat) (p : Port) : (s.setPort k p).sends = s.sends := rfl
@[simp] theorem State.setPort_poison (k : Nat) (p : Port) : (s.setPort k p).poison = s.poison := rfl
@[simp] theorem State.setPort_ns (k : Nat) (p : Port) : (s.setPort k p).ns = s.ns := rfl
@[simp] theorem State.setPort_islands (k : Nat) (p : Port) : (s.setPort k p).islands = s.islands := rfl
@[simp] theorem State.setPort_threads (k : Nat) (p : Port) : (s.setPort k p).threads = s.threads := rfl
@[simp] theorem State.setPort_cores (k : Nat) (p : Port) : (s.setPort k p).cores = s.cores := rfl
@[simp] theorem State.setPort_ctxs (k : Nat) (p : Port) : (s.setPort k p).ctxs = s.ctxs := rfl
@[simp] theorem State.setPort_crews (k : Nat) (p : Port) : (s.setPort k p).crews = s.crews := rfl
@[simp] theorem State.setPort_held (k : Nat) (p : Port) : (s.setPort k p).held = s.held := rfl
@[simp] theorem State.setPort_active (k : Nat) (p : Port) : (s.setPort k p).active = s.active := rfl
@[simp] theorem State.setPort_turns (k : Nat) (p : Port) : (s.setPort k p).turns = s.turns := rfl
@[simp] theorem State.setPort_reserved (k : Nat) (p : Port) : (s.setPort k p).reserved = s.reserved := rfl
@[simp] theorem State.setPort_tlb (k : Nat) (p : Port) : (s.setPort k p).tlb = s.tlb := rfl
@[simp] theorem State.setPort_shoot (k : Nat) (p : Port) : (s.setPort k p).shoot = s.shoot := rfl
@[simp] theorem State.setPort_rings (k : Nat) (p : Port) : (s.setPort k p).rings = s.rings := rfl
@[simp] theorem State.setPort_mgmt (k : Nat) (p : Port) : (s.setPort k p).mgmt = s.mgmt := rfl
@[simp] theorem State.setPort_peerSel (k : Nat) (p : Port) : (s.setPort k p).peerSel = s.peerSel := rfl
@[simp] theorem State.setPort_ports (k : Nat) (p : Port) : (s.setPort k p).ports = Map.put k p s.ports := rfl
@[simp] theorem State.setPort_sentUpTo (k : Nat) (p : Port) : (s.setPort k p).sentUpTo = s.sentUpTo := rfl
@[simp] theorem State.setPort_bwClass (k : Nat) (p : Port) : (s.setPort k p).bwClass = s.bwClass := rfl
@[simp] theorem State.setPort_bwWeights (k : Nat) (p : Port) : (s.setPort k p).bwWeights = s.bwWeights := rfl
@[simp] theorem State.setPort_throttles (k : Nat) (p : Port) : (s.setPort k p).throttles = s.throttles := rfl
@[simp] theorem State.setPort_counters (k : Nat) (p : Port) : (s.setPort k p).counters = s.counters := rfl
@[simp] theorem State.setPort_snoop (k : Nat) (p : Port) : (s.setPort k p).snoop = s.snoop := rfl
@[simp] theorem State.setPort_hostErr (k : Nat) (p : Port) : (s.setPort k p).hostErr = s.hostErr := rfl
@[simp] theorem State.setPort_hostPoison (k : Nat) (p : Port) : (s.setPort k p).hostPoison = s.hostPoison := rfl
@[simp] theorem State.setPort_outbox (k : Nat) (p : Port) : (s.setPort k p).outbox = s.outbox := rfl
@[simp] theorem State.setPort_outboxPoison (k : Nat) (p : Port) : (s.setPort k p).outboxPoison = s.outboxPoison := rfl
@[simp] theorem State.setPort_frozen (k : Nat) (p : Port) : (s.setPort k p).frozen = s.frozen := rfl
@[simp] theorem State.setPort_agenda (k : Nat) (p : Port) : (s.setPort k p).agenda = s.agenda := rfl
@[simp] theorem State.setPort_core (k : Nat) (p : Port) : (s.setPort k p).core = s.core := rfl
@[simp] theorem State.setPort_cur (k : Nat) (p : Port) : (s.setPort k p).cur = s.cur := rfl
@[simp] theorem State.setPort_word (k : Nat) (p : Port) : (s.setPort k p).word = s.word := rfl
@[simp] theorem State.setPort_fresh (k : Nat) (p : Port) : (s.setPort k p).fresh = s.fresh := rfl

/-! ## bump -/

@[simp] theorem State.bump_mem : s.bump.mem = s.mem := rfl
@[simp] theorem State.bump_hist : s.bump.hist = s.hist := rfl
@[simp] theorem State.bump_pubs : s.bump.pubs = s.pubs := rfl
@[simp] theorem State.bump_sends : s.bump.sends = s.sends := rfl
@[simp] theorem State.bump_poison : s.bump.poison = s.poison := rfl
@[simp] theorem State.bump_ns : s.bump.ns = s.ns := rfl
@[simp] theorem State.bump_islands : s.bump.islands = s.islands := rfl
@[simp] theorem State.bump_threads : s.bump.threads = s.threads := rfl
@[simp] theorem State.bump_cores : s.bump.cores = s.cores := rfl
@[simp] theorem State.bump_ctxs : s.bump.ctxs = s.ctxs := rfl
@[simp] theorem State.bump_crews : s.bump.crews = s.crews := rfl
@[simp] theorem State.bump_held : s.bump.held = s.held := rfl
@[simp] theorem State.bump_active : s.bump.active = s.active := rfl
@[simp] theorem State.bump_turns : s.bump.turns = s.turns := rfl
@[simp] theorem State.bump_reserved : s.bump.reserved = s.reserved := rfl
@[simp] theorem State.bump_tlb : s.bump.tlb = s.tlb := rfl
@[simp] theorem State.bump_shoot : s.bump.shoot = s.shoot := rfl
@[simp] theorem State.bump_rings : s.bump.rings = s.rings := rfl
@[simp] theorem State.bump_mgmt : s.bump.mgmt = s.mgmt := rfl
@[simp] theorem State.bump_peerSel : s.bump.peerSel = s.peerSel := rfl
@[simp] theorem State.bump_ports : s.bump.ports = s.ports := rfl
@[simp] theorem State.bump_sentUpTo : s.bump.sentUpTo = s.sentUpTo := rfl
@[simp] theorem State.bump_bwClass : s.bump.bwClass = s.bwClass := rfl
@[simp] theorem State.bump_bwWeights : s.bump.bwWeights = s.bwWeights := rfl
@[simp] theorem State.bump_throttles : s.bump.throttles = s.throttles := rfl
@[simp] theorem State.bump_counters : s.bump.counters = s.counters := rfl
@[simp] theorem State.bump_snoop : s.bump.snoop = s.snoop := rfl
@[simp] theorem State.bump_hostErr : s.bump.hostErr = s.hostErr := rfl
@[simp] theorem State.bump_hostPoison : s.bump.hostPoison = s.hostPoison := rfl
@[simp] theorem State.bump_outbox : s.bump.outbox = s.outbox := rfl
@[simp] theorem State.bump_outboxPoison : s.bump.outboxPoison = s.outboxPoison := rfl
@[simp] theorem State.bump_frozen : s.bump.frozen = s.frozen := rfl
@[simp] theorem State.bump_agenda : s.bump.agenda = s.agenda := rfl
@[simp] theorem State.bump_core : s.bump.core = s.core := rfl
@[simp] theorem State.bump_cur : s.bump.cur = s.cur := rfl
@[simp] theorem State.bump_word : s.bump.word = s.word := rfl
@[simp] theorem State.bump_fresh : s.bump.fresh = s.fresh + 1 := rfl

/-! ## count -/

@[simp] theorem State.count_mem (n k : Nat) : (s.count n k).mem = s.mem := rfl
@[simp] theorem State.count_hist (n k : Nat) : (s.count n k).hist = s.hist := rfl
@[simp] theorem State.count_pubs (n k : Nat) : (s.count n k).pubs = s.pubs := rfl
@[simp] theorem State.count_sends (n k : Nat) : (s.count n k).sends = s.sends := rfl
@[simp] theorem State.count_poison (n k : Nat) : (s.count n k).poison = s.poison := rfl
@[simp] theorem State.count_ns (n k : Nat) : (s.count n k).ns = s.ns := rfl
@[simp] theorem State.count_islands (n k : Nat) : (s.count n k).islands = s.islands := rfl
@[simp] theorem State.count_threads (n k : Nat) : (s.count n k).threads = s.threads := rfl
@[simp] theorem State.count_cores (n k : Nat) : (s.count n k).cores = s.cores := rfl
@[simp] theorem State.count_ctxs (n k : Nat) : (s.count n k).ctxs = s.ctxs := rfl
@[simp] theorem State.count_crews (n k : Nat) : (s.count n k).crews = s.crews := rfl
@[simp] theorem State.count_held (n k : Nat) : (s.count n k).held = s.held := rfl
@[simp] theorem State.count_active (n k : Nat) : (s.count n k).active = s.active := rfl
@[simp] theorem State.count_turns (n k : Nat) : (s.count n k).turns = s.turns := rfl
@[simp] theorem State.count_reserved (n k : Nat) : (s.count n k).reserved = s.reserved := rfl
@[simp] theorem State.count_tlb (n k : Nat) : (s.count n k).tlb = s.tlb := rfl
@[simp] theorem State.count_shoot (n k : Nat) : (s.count n k).shoot = s.shoot := rfl
@[simp] theorem State.count_rings (n k : Nat) : (s.count n k).rings = s.rings := rfl
@[simp] theorem State.count_mgmt (n k : Nat) : (s.count n k).mgmt = s.mgmt := rfl
@[simp] theorem State.count_peerSel (n k : Nat) : (s.count n k).peerSel = s.peerSel := rfl
@[simp] theorem State.count_ports (n k : Nat) : (s.count n k).ports = s.ports := rfl
@[simp] theorem State.count_sentUpTo (n k : Nat) : (s.count n k).sentUpTo = s.sentUpTo := rfl
@[simp] theorem State.count_bwClass (n k : Nat) : (s.count n k).bwClass = s.bwClass := rfl
@[simp] theorem State.count_bwWeights (n k : Nat) : (s.count n k).bwWeights = s.bwWeights := rfl
@[simp] theorem State.count_throttles (n k : Nat) : (s.count n k).throttles = s.throttles := rfl
@[simp] theorem State.count_counters (n k : Nat) : (s.count n k).counters = Map.put n (min (Map.getD n 0 s.counters + k) (2 ^ 64 - 1)) s.counters := rfl
@[simp] theorem State.count_snoop (n k : Nat) : (s.count n k).snoop = s.snoop := rfl
@[simp] theorem State.count_hostErr (n k : Nat) : (s.count n k).hostErr = s.hostErr := rfl
@[simp] theorem State.count_hostPoison (n k : Nat) : (s.count n k).hostPoison = s.hostPoison := rfl
@[simp] theorem State.count_outbox (n k : Nat) : (s.count n k).outbox = s.outbox := rfl
@[simp] theorem State.count_outboxPoison (n k : Nat) : (s.count n k).outboxPoison = s.outboxPoison := rfl
@[simp] theorem State.count_frozen (n k : Nat) : (s.count n k).frozen = s.frozen := rfl
@[simp] theorem State.count_agenda (n k : Nat) : (s.count n k).agenda = s.agenda := rfl
@[simp] theorem State.count_core (n k : Nat) : (s.count n k).core = s.core := rfl
@[simp] theorem State.count_cur (n k : Nat) : (s.count n k).cur = s.cur := rfl
@[simp] theorem State.count_word (n k : Nat) : (s.count n k).word = s.word := rfl
@[simp] theorem State.count_fresh (n k : Nat) : (s.count n k).fresh = s.fresh := rfl

/-! ## wr -/

@[simp] theorem State.wr_mem (d : BitVec 7) (v : Word) : (s.wr d v).mem = s.mem := rfl
@[simp] theorem State.wr_hist (d : BitVec 7) (v : Word) : (s.wr d v).hist = s.hist := rfl
@[simp] theorem State.wr_pubs (d : BitVec 7) (v : Word) : (s.wr d v).pubs = s.pubs := rfl
@[simp] theorem State.wr_sends (d : BitVec 7) (v : Word) : (s.wr d v).sends = s.sends := rfl
@[simp] theorem State.wr_poison (d : BitVec 7) (v : Word) : (s.wr d v).poison = s.poison := rfl
@[simp] theorem State.wr_ns (d : BitVec 7) (v : Word) : (s.wr d v).ns = s.ns := rfl
@[simp] theorem State.wr_islands (d : BitVec 7) (v : Word) : (s.wr d v).islands = s.islands := rfl
@[simp] theorem State.wr_threads (d : BitVec 7) (v : Word) : (s.wr d v).threads = Map.put s.cur (s.me.wr d v) s.threads := rfl
@[simp] theorem State.wr_cores (d : BitVec 7) (v : Word) : (s.wr d v).cores = s.cores := rfl
@[simp] theorem State.wr_ctxs (d : BitVec 7) (v : Word) : (s.wr d v).ctxs = s.ctxs := rfl
@[simp] theorem State.wr_crews (d : BitVec 7) (v : Word) : (s.wr d v).crews = s.crews := rfl
@[simp] theorem State.wr_held (d : BitVec 7) (v : Word) : (s.wr d v).held = s.held := rfl
@[simp] theorem State.wr_active (d : BitVec 7) (v : Word) : (s.wr d v).active = s.active := rfl
@[simp] theorem State.wr_turns (d : BitVec 7) (v : Word) : (s.wr d v).turns = s.turns := rfl
@[simp] theorem State.wr_reserved (d : BitVec 7) (v : Word) : (s.wr d v).reserved = s.reserved := rfl
@[simp] theorem State.wr_tlb (d : BitVec 7) (v : Word) : (s.wr d v).tlb = s.tlb := rfl
@[simp] theorem State.wr_shoot (d : BitVec 7) (v : Word) : (s.wr d v).shoot = s.shoot := rfl
@[simp] theorem State.wr_rings (d : BitVec 7) (v : Word) : (s.wr d v).rings = s.rings := rfl
@[simp] theorem State.wr_mgmt (d : BitVec 7) (v : Word) : (s.wr d v).mgmt = s.mgmt := rfl
@[simp] theorem State.wr_peerSel (d : BitVec 7) (v : Word) : (s.wr d v).peerSel = s.peerSel := rfl
@[simp] theorem State.wr_ports (d : BitVec 7) (v : Word) : (s.wr d v).ports = s.ports := rfl
@[simp] theorem State.wr_sentUpTo (d : BitVec 7) (v : Word) : (s.wr d v).sentUpTo = s.sentUpTo := rfl
@[simp] theorem State.wr_bwClass (d : BitVec 7) (v : Word) : (s.wr d v).bwClass = s.bwClass := rfl
@[simp] theorem State.wr_bwWeights (d : BitVec 7) (v : Word) : (s.wr d v).bwWeights = s.bwWeights := rfl
@[simp] theorem State.wr_throttles (d : BitVec 7) (v : Word) : (s.wr d v).throttles = s.throttles := rfl
@[simp] theorem State.wr_counters (d : BitVec 7) (v : Word) : (s.wr d v).counters = s.counters := rfl
@[simp] theorem State.wr_snoop (d : BitVec 7) (v : Word) : (s.wr d v).snoop = s.snoop := rfl
@[simp] theorem State.wr_hostErr (d : BitVec 7) (v : Word) : (s.wr d v).hostErr = s.hostErr := rfl
@[simp] theorem State.wr_hostPoison (d : BitVec 7) (v : Word) : (s.wr d v).hostPoison = s.hostPoison := rfl
@[simp] theorem State.wr_outbox (d : BitVec 7) (v : Word) : (s.wr d v).outbox = s.outbox := rfl
@[simp] theorem State.wr_outboxPoison (d : BitVec 7) (v : Word) : (s.wr d v).outboxPoison = s.outboxPoison := rfl
@[simp] theorem State.wr_frozen (d : BitVec 7) (v : Word) : (s.wr d v).frozen = s.frozen := rfl
@[simp] theorem State.wr_agenda (d : BitVec 7) (v : Word) : (s.wr d v).agenda = s.agenda := rfl
@[simp] theorem State.wr_core (d : BitVec 7) (v : Word) : (s.wr d v).core = s.core := rfl
@[simp] theorem State.wr_cur (d : BitVec 7) (v : Word) : (s.wr d v).cur = s.cur := rfl
@[simp] theorem State.wr_word (d : BitVec 7) (v : Word) : (s.wr d v).word = s.word := rfl
@[simp] theorem State.wr_fresh (d : BitVec 7) (v : Word) : (s.wr d v).fresh = s.fresh := rfl

/-! ## retire -/

@[simp] theorem State.retire_mem : s.retire.mem = s.mem := rfl
@[simp] theorem State.retire_hist : s.retire.hist = s.hist := rfl
@[simp] theorem State.retire_pubs : s.retire.pubs = s.pubs := rfl
@[simp] theorem State.retire_sends : s.retire.sends = s.sends := rfl
@[simp] theorem State.retire_poison : s.retire.poison = s.poison := rfl
@[simp] theorem State.retire_ns : s.retire.ns = s.ns := rfl
@[simp] theorem State.retire_islands : s.retire.islands = s.islands := rfl
@[simp] theorem State.retire_threads : s.retire.threads = Map.put s.cur s.me.retire s.threads := rfl
@[simp] theorem State.retire_cores : s.retire.cores = s.cores := rfl
@[simp] theorem State.retire_ctxs : s.retire.ctxs = s.ctxs := rfl
@[simp] theorem State.retire_crews : s.retire.crews = s.crews := rfl
@[simp] theorem State.retire_held : s.retire.held = s.held := rfl
@[simp] theorem State.retire_active : s.retire.active = s.active := rfl
@[simp] theorem State.retire_turns : s.retire.turns = s.turns := rfl
@[simp] theorem State.retire_reserved : s.retire.reserved = s.reserved := rfl
@[simp] theorem State.retire_tlb : s.retire.tlb = s.tlb := rfl
@[simp] theorem State.retire_shoot : s.retire.shoot = s.shoot := rfl
@[simp] theorem State.retire_rings : s.retire.rings = s.rings := rfl
@[simp] theorem State.retire_mgmt : s.retire.mgmt = s.mgmt := rfl
@[simp] theorem State.retire_peerSel : s.retire.peerSel = s.peerSel := rfl
@[simp] theorem State.retire_ports : s.retire.ports = s.ports := rfl
@[simp] theorem State.retire_sentUpTo : s.retire.sentUpTo = s.sentUpTo := rfl
@[simp] theorem State.retire_bwClass : s.retire.bwClass = s.bwClass := rfl
@[simp] theorem State.retire_bwWeights : s.retire.bwWeights = s.bwWeights := rfl
@[simp] theorem State.retire_throttles : s.retire.throttles = s.throttles := rfl
@[simp] theorem State.retire_counters : s.retire.counters = s.counters := rfl
@[simp] theorem State.retire_snoop : s.retire.snoop = s.snoop := rfl
@[simp] theorem State.retire_hostErr : s.retire.hostErr = s.hostErr := rfl
@[simp] theorem State.retire_hostPoison : s.retire.hostPoison = s.hostPoison := rfl
@[simp] theorem State.retire_outbox : s.retire.outbox = s.outbox := rfl
@[simp] theorem State.retire_outboxPoison : s.retire.outboxPoison = s.outboxPoison := rfl
@[simp] theorem State.retire_frozen : s.retire.frozen = s.frozen := rfl
@[simp] theorem State.retire_agenda : s.retire.agenda = s.agenda := rfl
@[simp] theorem State.retire_core : s.retire.core = s.core := rfl
@[simp] theorem State.retire_cur : s.retire.cur = s.cur := rfl
@[simp] theorem State.retire_word : s.retire.word = s.word := rfl
@[simp] theorem State.retire_fresh : s.retire.fresh = s.fresh := rfl

/-! ## jump -/

@[simp] theorem State.jump_mem (pc : Word) : (s.jump pc).mem = s.mem := rfl
@[simp] theorem State.jump_hist (pc : Word) : (s.jump pc).hist = s.hist := rfl
@[simp] theorem State.jump_pubs (pc : Word) : (s.jump pc).pubs = s.pubs := rfl
@[simp] theorem State.jump_sends (pc : Word) : (s.jump pc).sends = s.sends := rfl
@[simp] theorem State.jump_poison (pc : Word) : (s.jump pc).poison = s.poison := rfl
@[simp] theorem State.jump_ns (pc : Word) : (s.jump pc).ns = s.ns := rfl
@[simp] theorem State.jump_islands (pc : Word) : (s.jump pc).islands = s.islands := rfl
@[simp] theorem State.jump_threads (pc : Word) : (s.jump pc).threads = Map.put s.cur { s.me with pc := pc, cnt := { s.me.cnt with retired := (s.me.cnt.retired + 1) % 2 ^ 64 } } s.threads := rfl
@[simp] theorem State.jump_cores (pc : Word) : (s.jump pc).cores = s.cores := rfl
@[simp] theorem State.jump_ctxs (pc : Word) : (s.jump pc).ctxs = s.ctxs := rfl
@[simp] theorem State.jump_crews (pc : Word) : (s.jump pc).crews = s.crews := rfl
@[simp] theorem State.jump_held (pc : Word) : (s.jump pc).held = s.held := rfl
@[simp] theorem State.jump_active (pc : Word) : (s.jump pc).active = s.active := rfl
@[simp] theorem State.jump_turns (pc : Word) : (s.jump pc).turns = s.turns := rfl
@[simp] theorem State.jump_reserved (pc : Word) : (s.jump pc).reserved = s.reserved := rfl
@[simp] theorem State.jump_tlb (pc : Word) : (s.jump pc).tlb = s.tlb := rfl
@[simp] theorem State.jump_shoot (pc : Word) : (s.jump pc).shoot = s.shoot := rfl
@[simp] theorem State.jump_rings (pc : Word) : (s.jump pc).rings = s.rings := rfl
@[simp] theorem State.jump_mgmt (pc : Word) : (s.jump pc).mgmt = s.mgmt := rfl
@[simp] theorem State.jump_peerSel (pc : Word) : (s.jump pc).peerSel = s.peerSel := rfl
@[simp] theorem State.jump_ports (pc : Word) : (s.jump pc).ports = s.ports := rfl
@[simp] theorem State.jump_sentUpTo (pc : Word) : (s.jump pc).sentUpTo = s.sentUpTo := rfl
@[simp] theorem State.jump_bwClass (pc : Word) : (s.jump pc).bwClass = s.bwClass := rfl
@[simp] theorem State.jump_bwWeights (pc : Word) : (s.jump pc).bwWeights = s.bwWeights := rfl
@[simp] theorem State.jump_throttles (pc : Word) : (s.jump pc).throttles = s.throttles := rfl
@[simp] theorem State.jump_counters (pc : Word) : (s.jump pc).counters = s.counters := rfl
@[simp] theorem State.jump_snoop (pc : Word) : (s.jump pc).snoop = s.snoop := rfl
@[simp] theorem State.jump_hostErr (pc : Word) : (s.jump pc).hostErr = s.hostErr := rfl
@[simp] theorem State.jump_hostPoison (pc : Word) : (s.jump pc).hostPoison = s.hostPoison := rfl
@[simp] theorem State.jump_outbox (pc : Word) : (s.jump pc).outbox = s.outbox := rfl
@[simp] theorem State.jump_outboxPoison (pc : Word) : (s.jump pc).outboxPoison = s.outboxPoison := rfl
@[simp] theorem State.jump_frozen (pc : Word) : (s.jump pc).frozen = s.frozen := rfl
@[simp] theorem State.jump_agenda (pc : Word) : (s.jump pc).agenda = s.agenda := rfl
@[simp] theorem State.jump_core (pc : Word) : (s.jump pc).core = s.core := rfl
@[simp] theorem State.jump_cur (pc : Word) : (s.jump pc).cur = s.cur := rfl
@[simp] theorem State.jump_word (pc : Word) : (s.jump pc).word = s.word := rfl
@[simp] theorem State.jump_fresh (pc : Word) : (s.jump pc).fresh = s.fresh := rfl

/-! ## pendByte -/

@[simp] theorem State.pendByte_mem (k pa : Nat) (b : Byte) (w : Bool) : (s.pendByte k pa b w).mem = s.mem := by
  unfold State.pendByte State.clearL1; split <;> (try split) <;> rfl
@[simp] theorem State.pendByte_hist (k pa : Nat) (b : Byte) (w : Bool) : (s.pendByte k pa b w).hist = s.hist := by
  unfold State.pendByte State.clearL1; split <;> (try split) <;> rfl
@[simp] theorem State.pendByte_pubs (k pa : Nat) (b : Byte) (w : Bool) : (s.pendByte k pa b w).pubs = s.pubs := by
  unfold State.pendByte State.clearL1; split <;> (try split) <;> rfl
@[simp] theorem State.pendByte_sends (k pa : Nat) (b : Byte) (w : Bool) : (s.pendByte k pa b w).sends = s.sends := by
  unfold State.pendByte State.clearL1; split <;> (try split) <;> rfl
@[simp] theorem State.pendByte_poison (k pa : Nat) (b : Byte) (w : Bool) : (s.pendByte k pa b w).poison = s.poison := by
  unfold State.pendByte State.clearL1; split <;> (try split) <;> rfl
@[simp] theorem State.pendByte_ns (k pa : Nat) (b : Byte) (w : Bool) : (s.pendByte k pa b w).ns = s.ns := by
  unfold State.pendByte State.clearL1; split <;> (try split) <;> rfl
@[simp] theorem State.pendByte_islands (k pa : Nat) (b : Byte) (w : Bool) : (s.pendByte k pa b w).islands = s.islands := by
  unfold State.pendByte State.clearL1; split <;> (try split) <;> rfl
@[simp] theorem State.pendByte_threads (k pa : Nat) (b : Byte) (w : Bool) : (s.pendByte k pa b w).threads = Map.put k { s.thread k with pend := s.pendOf k pa b w :: (s.thread k).pend } s.threads := by
  unfold State.pendByte State.clearL1; split <;> (try split) <;> rfl
@[simp] theorem State.pendByte_ctxs (k pa : Nat) (b : Byte) (w : Bool) : (s.pendByte k pa b w).ctxs = s.ctxs := by
  unfold State.pendByte State.clearL1; split <;> (try split) <;> rfl
@[simp] theorem State.pendByte_crews (k pa : Nat) (b : Byte) (w : Bool) : (s.pendByte k pa b w).crews = s.crews := by
  unfold State.pendByte State.clearL1; split <;> (try split) <;> rfl
@[simp] theorem State.pendByte_held (k pa : Nat) (b : Byte) (w : Bool) : (s.pendByte k pa b w).held = s.held := by
  unfold State.pendByte State.clearL1; split <;> (try split) <;> rfl
@[simp] theorem State.pendByte_active (k pa : Nat) (b : Byte) (w : Bool) : (s.pendByte k pa b w).active = s.active := by
  unfold State.pendByte State.clearL1; split <;> (try split) <;> rfl
@[simp] theorem State.pendByte_turns (k pa : Nat) (b : Byte) (w : Bool) : (s.pendByte k pa b w).turns = s.turns := by
  unfold State.pendByte State.clearL1; split <;> (try split) <;> rfl
@[simp] theorem State.pendByte_reserved (k pa : Nat) (b : Byte) (w : Bool) : (s.pendByte k pa b w).reserved = s.reserved := by
  unfold State.pendByte State.clearL1; split <;> (try split) <;> rfl
@[simp] theorem State.pendByte_tlb (k pa : Nat) (b : Byte) (w : Bool) : (s.pendByte k pa b w).tlb = s.tlb := by
  unfold State.pendByte State.clearL1; split <;> (try split) <;> rfl
@[simp] theorem State.pendByte_shoot (k pa : Nat) (b : Byte) (w : Bool) : (s.pendByte k pa b w).shoot = s.shoot := by
  unfold State.pendByte State.clearL1; split <;> (try split) <;> rfl
@[simp] theorem State.pendByte_rings (k pa : Nat) (b : Byte) (w : Bool) : (s.pendByte k pa b w).rings = s.rings := by
  unfold State.pendByte State.clearL1; split <;> (try split) <;> rfl
@[simp] theorem State.pendByte_mgmt (k pa : Nat) (b : Byte) (w : Bool) : (s.pendByte k pa b w).mgmt = s.mgmt := by
  unfold State.pendByte State.clearL1; split <;> (try split) <;> rfl
@[simp] theorem State.pendByte_peerSel (k pa : Nat) (b : Byte) (w : Bool) : (s.pendByte k pa b w).peerSel = s.peerSel := by
  unfold State.pendByte State.clearL1; split <;> (try split) <;> rfl
@[simp] theorem State.pendByte_ports (k pa : Nat) (b : Byte) (w : Bool) : (s.pendByte k pa b w).ports = s.ports := by
  unfold State.pendByte State.clearL1; split <;> (try split) <;> rfl
@[simp] theorem State.pendByte_sentUpTo (k pa : Nat) (b : Byte) (w : Bool) : (s.pendByte k pa b w).sentUpTo = s.sentUpTo := by
  unfold State.pendByte State.clearL1; split <;> (try split) <;> rfl
@[simp] theorem State.pendByte_bwClass (k pa : Nat) (b : Byte) (w : Bool) : (s.pendByte k pa b w).bwClass = s.bwClass := by
  unfold State.pendByte State.clearL1; split <;> (try split) <;> rfl
@[simp] theorem State.pendByte_bwWeights (k pa : Nat) (b : Byte) (w : Bool) : (s.pendByte k pa b w).bwWeights = s.bwWeights := by
  unfold State.pendByte State.clearL1; split <;> (try split) <;> rfl
@[simp] theorem State.pendByte_throttles (k pa : Nat) (b : Byte) (w : Bool) : (s.pendByte k pa b w).throttles = s.throttles := by
  unfold State.pendByte State.clearL1; split <;> (try split) <;> rfl
@[simp] theorem State.pendByte_counters (k pa : Nat) (b : Byte) (w : Bool) : (s.pendByte k pa b w).counters = s.counters := by
  unfold State.pendByte State.clearL1; split <;> (try split) <;> rfl
@[simp] theorem State.pendByte_snoop (k pa : Nat) (b : Byte) (w : Bool) : (s.pendByte k pa b w).snoop = s.snoop := by
  unfold State.pendByte State.clearL1; split <;> (try split) <;> rfl
@[simp] theorem State.pendByte_hostErr (k pa : Nat) (b : Byte) (w : Bool) : (s.pendByte k pa b w).hostErr = s.hostErr := by
  unfold State.pendByte State.clearL1; split <;> (try split) <;> rfl
@[simp] theorem State.pendByte_hostPoison (k pa : Nat) (b : Byte) (w : Bool) : (s.pendByte k pa b w).hostPoison = s.hostPoison := by
  unfold State.pendByte State.clearL1; split <;> (try split) <;> rfl
@[simp] theorem State.pendByte_outbox (k pa : Nat) (b : Byte) (w : Bool) : (s.pendByte k pa b w).outbox = s.outbox := by
  unfold State.pendByte State.clearL1; split <;> (try split) <;> rfl
@[simp] theorem State.pendByte_outboxPoison (k pa : Nat) (b : Byte) (w : Bool) : (s.pendByte k pa b w).outboxPoison = s.outboxPoison := by
  unfold State.pendByte State.clearL1; split <;> (try split) <;> rfl
@[simp] theorem State.pendByte_frozen (k pa : Nat) (b : Byte) (w : Bool) : (s.pendByte k pa b w).frozen = s.frozen := by
  unfold State.pendByte State.clearL1; split <;> (try split) <;> rfl
@[simp] theorem State.pendByte_agenda (k pa : Nat) (b : Byte) (w : Bool) : (s.pendByte k pa b w).agenda = s.agenda := by
  unfold State.pendByte State.clearL1; split <;> (try split) <;> rfl
@[simp] theorem State.pendByte_core (k pa : Nat) (b : Byte) (w : Bool) : (s.pendByte k pa b w).core = s.core := by
  unfold State.pendByte State.clearL1; split <;> (try split) <;> rfl
@[simp] theorem State.pendByte_cur (k pa : Nat) (b : Byte) (w : Bool) : (s.pendByte k pa b w).cur = s.cur := by
  unfold State.pendByte State.clearL1; split <;> (try split) <;> rfl
@[simp] theorem State.pendByte_word (k pa : Nat) (b : Byte) (w : Bool) : (s.pendByte k pa b w).word = s.word := by
  unfold State.pendByte State.clearL1; split <;> (try split) <;> rfl
@[simp] theorem State.pendByte_fresh (k pa : Nat) (b : Byte) (w : Bool) : (s.pendByte k pa b w).fresh = s.fresh := by
  unfold State.pendByte State.clearL1; split <;> (try split) <;> rfl

/-! ## clearL1 -/

@[simp] theorem State.clearL1_mem (k pa : Nat) : (s.clearL1 k pa).mem = s.mem := by unfold State.clearL1; split <;> rfl
@[simp] theorem State.clearL1_hist (k pa : Nat) : (s.clearL1 k pa).hist = s.hist := by unfold State.clearL1; split <;> rfl
@[simp] theorem State.clearL1_pubs (k pa : Nat) : (s.clearL1 k pa).pubs = s.pubs := by unfold State.clearL1; split <;> rfl
@[simp] theorem State.clearL1_sends (k pa : Nat) : (s.clearL1 k pa).sends = s.sends := by unfold State.clearL1; split <;> rfl
@[simp] theorem State.clearL1_poison (k pa : Nat) : (s.clearL1 k pa).poison = s.poison := by unfold State.clearL1; split <;> rfl
@[simp] theorem State.clearL1_ns (k pa : Nat) : (s.clearL1 k pa).ns = s.ns := by unfold State.clearL1; split <;> rfl
@[simp] theorem State.clearL1_islands (k pa : Nat) : (s.clearL1 k pa).islands = s.islands := by unfold State.clearL1; split <;> rfl
@[simp] theorem State.clearL1_threads (k pa : Nat) : (s.clearL1 k pa).threads = s.threads := by unfold State.clearL1; split <;> rfl
@[simp] theorem State.clearL1_ctxs (k pa : Nat) : (s.clearL1 k pa).ctxs = s.ctxs := by unfold State.clearL1; split <;> rfl
@[simp] theorem State.clearL1_crews (k pa : Nat) : (s.clearL1 k pa).crews = s.crews := by unfold State.clearL1; split <;> rfl
@[simp] theorem State.clearL1_held (k pa : Nat) : (s.clearL1 k pa).held = s.held := by unfold State.clearL1; split <;> rfl
@[simp] theorem State.clearL1_active (k pa : Nat) : (s.clearL1 k pa).active = s.active := by unfold State.clearL1; split <;> rfl
@[simp] theorem State.clearL1_turns (k pa : Nat) : (s.clearL1 k pa).turns = s.turns := by unfold State.clearL1; split <;> rfl
@[simp] theorem State.clearL1_reserved (k pa : Nat) : (s.clearL1 k pa).reserved = s.reserved := by unfold State.clearL1; split <;> rfl
@[simp] theorem State.clearL1_tlb (k pa : Nat) : (s.clearL1 k pa).tlb = s.tlb := by unfold State.clearL1; split <;> rfl
@[simp] theorem State.clearL1_shoot (k pa : Nat) : (s.clearL1 k pa).shoot = s.shoot := by unfold State.clearL1; split <;> rfl
@[simp] theorem State.clearL1_rings (k pa : Nat) : (s.clearL1 k pa).rings = s.rings := by unfold State.clearL1; split <;> rfl
@[simp] theorem State.clearL1_mgmt (k pa : Nat) : (s.clearL1 k pa).mgmt = s.mgmt := by unfold State.clearL1; split <;> rfl
@[simp] theorem State.clearL1_peerSel (k pa : Nat) : (s.clearL1 k pa).peerSel = s.peerSel := by unfold State.clearL1; split <;> rfl
@[simp] theorem State.clearL1_ports (k pa : Nat) : (s.clearL1 k pa).ports = s.ports := by unfold State.clearL1; split <;> rfl
@[simp] theorem State.clearL1_sentUpTo (k pa : Nat) : (s.clearL1 k pa).sentUpTo = s.sentUpTo := by unfold State.clearL1; split <;> rfl
@[simp] theorem State.clearL1_bwClass (k pa : Nat) : (s.clearL1 k pa).bwClass = s.bwClass := by unfold State.clearL1; split <;> rfl
@[simp] theorem State.clearL1_bwWeights (k pa : Nat) : (s.clearL1 k pa).bwWeights = s.bwWeights := by unfold State.clearL1; split <;> rfl
@[simp] theorem State.clearL1_throttles (k pa : Nat) : (s.clearL1 k pa).throttles = s.throttles := by unfold State.clearL1; split <;> rfl
@[simp] theorem State.clearL1_counters (k pa : Nat) : (s.clearL1 k pa).counters = s.counters := by unfold State.clearL1; split <;> rfl
@[simp] theorem State.clearL1_snoop (k pa : Nat) : (s.clearL1 k pa).snoop = s.snoop := by unfold State.clearL1; split <;> rfl
@[simp] theorem State.clearL1_hostErr (k pa : Nat) : (s.clearL1 k pa).hostErr = s.hostErr := by unfold State.clearL1; split <;> rfl
@[simp] theorem State.clearL1_hostPoison (k pa : Nat) : (s.clearL1 k pa).hostPoison = s.hostPoison := by unfold State.clearL1; split <;> rfl
@[simp] theorem State.clearL1_outbox (k pa : Nat) : (s.clearL1 k pa).outbox = s.outbox := by unfold State.clearL1; split <;> rfl
@[simp] theorem State.clearL1_outboxPoison (k pa : Nat) : (s.clearL1 k pa).outboxPoison = s.outboxPoison := by unfold State.clearL1; split <;> rfl
@[simp] theorem State.clearL1_frozen (k pa : Nat) : (s.clearL1 k pa).frozen = s.frozen := by unfold State.clearL1; split <;> rfl
@[simp] theorem State.clearL1_agenda (k pa : Nat) : (s.clearL1 k pa).agenda = s.agenda := by unfold State.clearL1; split <;> rfl
@[simp] theorem State.clearL1_core (k pa : Nat) : (s.clearL1 k pa).core = s.core := by unfold State.clearL1; split <;> rfl
@[simp] theorem State.clearL1_cur (k pa : Nat) : (s.clearL1 k pa).cur = s.cur := by unfold State.clearL1; split <;> rfl
@[simp] theorem State.clearL1_word (k pa : Nat) : (s.clearL1 k pa).word = s.word := by unfold State.clearL1; split <;> rfl
@[simp] theorem State.clearL1_fresh (k pa : Nat) : (s.clearL1 k pa).fresh = s.fresh := by unfold State.clearL1; split <;> rfl

/-! ## setVreg -/

@[simp] theorem State.setVreg_mem (r : BitVec 7) (v : VReg) : (s.setVreg r v).mem = s.mem := rfl
@[simp] theorem State.setVreg_hist (r : BitVec 7) (v : VReg) : (s.setVreg r v).hist = s.hist := rfl
@[simp] theorem State.setVreg_pubs (r : BitVec 7) (v : VReg) : (s.setVreg r v).pubs = s.pubs := rfl
@[simp] theorem State.setVreg_sends (r : BitVec 7) (v : VReg) : (s.setVreg r v).sends = s.sends := rfl
@[simp] theorem State.setVreg_poison (r : BitVec 7) (v : VReg) : (s.setVreg r v).poison = s.poison := rfl
@[simp] theorem State.setVreg_ns (r : BitVec 7) (v : VReg) : (s.setVreg r v).ns = s.ns := rfl
@[simp] theorem State.setVreg_islands (r : BitVec 7) (v : VReg) : (s.setVreg r v).islands = s.islands := rfl
@[simp] theorem State.setVreg_threads (r : BitVec 7) (v : VReg) : (s.setVreg r v).threads = Map.put s.cur (s.me.setVreg r.toNat v) s.threads := rfl
@[simp] theorem State.setVreg_cores (r : BitVec 7) (v : VReg) : (s.setVreg r v).cores = s.cores := rfl
@[simp] theorem State.setVreg_ctxs (r : BitVec 7) (v : VReg) : (s.setVreg r v).ctxs = s.ctxs := rfl
@[simp] theorem State.setVreg_crews (r : BitVec 7) (v : VReg) : (s.setVreg r v).crews = s.crews := rfl
@[simp] theorem State.setVreg_held (r : BitVec 7) (v : VReg) : (s.setVreg r v).held = s.held := rfl
@[simp] theorem State.setVreg_active (r : BitVec 7) (v : VReg) : (s.setVreg r v).active = s.active := rfl
@[simp] theorem State.setVreg_turns (r : BitVec 7) (v : VReg) : (s.setVreg r v).turns = s.turns := rfl
@[simp] theorem State.setVreg_reserved (r : BitVec 7) (v : VReg) : (s.setVreg r v).reserved = s.reserved := rfl
@[simp] theorem State.setVreg_tlb (r : BitVec 7) (v : VReg) : (s.setVreg r v).tlb = s.tlb := rfl
@[simp] theorem State.setVreg_shoot (r : BitVec 7) (v : VReg) : (s.setVreg r v).shoot = s.shoot := rfl
@[simp] theorem State.setVreg_rings (r : BitVec 7) (v : VReg) : (s.setVreg r v).rings = s.rings := rfl
@[simp] theorem State.setVreg_mgmt (r : BitVec 7) (v : VReg) : (s.setVreg r v).mgmt = s.mgmt := rfl
@[simp] theorem State.setVreg_peerSel (r : BitVec 7) (v : VReg) : (s.setVreg r v).peerSel = s.peerSel := rfl
@[simp] theorem State.setVreg_ports (r : BitVec 7) (v : VReg) : (s.setVreg r v).ports = s.ports := rfl
@[simp] theorem State.setVreg_sentUpTo (r : BitVec 7) (v : VReg) : (s.setVreg r v).sentUpTo = s.sentUpTo := rfl
@[simp] theorem State.setVreg_bwClass (r : BitVec 7) (v : VReg) : (s.setVreg r v).bwClass = s.bwClass := rfl
@[simp] theorem State.setVreg_bwWeights (r : BitVec 7) (v : VReg) : (s.setVreg r v).bwWeights = s.bwWeights := rfl
@[simp] theorem State.setVreg_throttles (r : BitVec 7) (v : VReg) : (s.setVreg r v).throttles = s.throttles := rfl
@[simp] theorem State.setVreg_counters (r : BitVec 7) (v : VReg) : (s.setVreg r v).counters = s.counters := rfl
@[simp] theorem State.setVreg_snoop (r : BitVec 7) (v : VReg) : (s.setVreg r v).snoop = s.snoop := rfl
@[simp] theorem State.setVreg_hostErr (r : BitVec 7) (v : VReg) : (s.setVreg r v).hostErr = s.hostErr := rfl
@[simp] theorem State.setVreg_hostPoison (r : BitVec 7) (v : VReg) : (s.setVreg r v).hostPoison = s.hostPoison := rfl
@[simp] theorem State.setVreg_outbox (r : BitVec 7) (v : VReg) : (s.setVreg r v).outbox = s.outbox := rfl
@[simp] theorem State.setVreg_outboxPoison (r : BitVec 7) (v : VReg) : (s.setVreg r v).outboxPoison = s.outboxPoison := rfl
@[simp] theorem State.setVreg_frozen (r : BitVec 7) (v : VReg) : (s.setVreg r v).frozen = s.frozen := rfl
@[simp] theorem State.setVreg_agenda (r : BitVec 7) (v : VReg) : (s.setVreg r v).agenda = s.agenda := rfl
@[simp] theorem State.setVreg_core (r : BitVec 7) (v : VReg) : (s.setVreg r v).core = s.core := rfl
@[simp] theorem State.setVreg_cur (r : BitVec 7) (v : VReg) : (s.setVreg r v).cur = s.cur := rfl
@[simp] theorem State.setVreg_word (r : BitVec 7) (v : VReg) : (s.setVreg r v).word = s.word := rfl
@[simp] theorem State.setVreg_fresh (r : BitVec 7) (v : VReg) : (s.setVreg r v).fresh = s.fresh := rfl

/-! ## setTag -/

@[simp] theorem State.setTag_mem (r : BitVec 7) (n : Nat) : (s.setTag r n).mem = s.mem := rfl
@[simp] theorem State.setTag_hist (r : BitVec 7) (n : Nat) : (s.setTag r n).hist = s.hist := rfl
@[simp] theorem State.setTag_pubs (r : BitVec 7) (n : Nat) : (s.setTag r n).pubs = s.pubs := rfl
@[simp] theorem State.setTag_sends (r : BitVec 7) (n : Nat) : (s.setTag r n).sends = s.sends := rfl
@[simp] theorem State.setTag_poison (r : BitVec 7) (n : Nat) : (s.setTag r n).poison = s.poison := rfl
@[simp] theorem State.setTag_ns (r : BitVec 7) (n : Nat) : (s.setTag r n).ns = s.ns := rfl
@[simp] theorem State.setTag_islands (r : BitVec 7) (n : Nat) : (s.setTag r n).islands = s.islands := rfl
@[simp] theorem State.setTag_threads (r : BitVec 7) (n : Nat) : (s.setTag r n).threads = Map.put s.cur (s.me.setVreg r.toNat { s.dst r with tag := n }) s.threads := rfl
@[simp] theorem State.setTag_cores (r : BitVec 7) (n : Nat) : (s.setTag r n).cores = s.cores := rfl
@[simp] theorem State.setTag_ctxs (r : BitVec 7) (n : Nat) : (s.setTag r n).ctxs = s.ctxs := rfl
@[simp] theorem State.setTag_crews (r : BitVec 7) (n : Nat) : (s.setTag r n).crews = s.crews := rfl
@[simp] theorem State.setTag_held (r : BitVec 7) (n : Nat) : (s.setTag r n).held = s.held := rfl
@[simp] theorem State.setTag_active (r : BitVec 7) (n : Nat) : (s.setTag r n).active = s.active := rfl
@[simp] theorem State.setTag_turns (r : BitVec 7) (n : Nat) : (s.setTag r n).turns = s.turns := rfl
@[simp] theorem State.setTag_reserved (r : BitVec 7) (n : Nat) : (s.setTag r n).reserved = s.reserved := rfl
@[simp] theorem State.setTag_tlb (r : BitVec 7) (n : Nat) : (s.setTag r n).tlb = s.tlb := rfl
@[simp] theorem State.setTag_shoot (r : BitVec 7) (n : Nat) : (s.setTag r n).shoot = s.shoot := rfl
@[simp] theorem State.setTag_rings (r : BitVec 7) (n : Nat) : (s.setTag r n).rings = s.rings := rfl
@[simp] theorem State.setTag_mgmt (r : BitVec 7) (n : Nat) : (s.setTag r n).mgmt = s.mgmt := rfl
@[simp] theorem State.setTag_peerSel (r : BitVec 7) (n : Nat) : (s.setTag r n).peerSel = s.peerSel := rfl
@[simp] theorem State.setTag_ports (r : BitVec 7) (n : Nat) : (s.setTag r n).ports = s.ports := rfl
@[simp] theorem State.setTag_sentUpTo (r : BitVec 7) (n : Nat) : (s.setTag r n).sentUpTo = s.sentUpTo := rfl
@[simp] theorem State.setTag_bwClass (r : BitVec 7) (n : Nat) : (s.setTag r n).bwClass = s.bwClass := rfl
@[simp] theorem State.setTag_bwWeights (r : BitVec 7) (n : Nat) : (s.setTag r n).bwWeights = s.bwWeights := rfl
@[simp] theorem State.setTag_throttles (r : BitVec 7) (n : Nat) : (s.setTag r n).throttles = s.throttles := rfl
@[simp] theorem State.setTag_counters (r : BitVec 7) (n : Nat) : (s.setTag r n).counters = s.counters := rfl
@[simp] theorem State.setTag_snoop (r : BitVec 7) (n : Nat) : (s.setTag r n).snoop = s.snoop := rfl
@[simp] theorem State.setTag_hostErr (r : BitVec 7) (n : Nat) : (s.setTag r n).hostErr = s.hostErr := rfl
@[simp] theorem State.setTag_hostPoison (r : BitVec 7) (n : Nat) : (s.setTag r n).hostPoison = s.hostPoison := rfl
@[simp] theorem State.setTag_outbox (r : BitVec 7) (n : Nat) : (s.setTag r n).outbox = s.outbox := rfl
@[simp] theorem State.setTag_outboxPoison (r : BitVec 7) (n : Nat) : (s.setTag r n).outboxPoison = s.outboxPoison := rfl
@[simp] theorem State.setTag_frozen (r : BitVec 7) (n : Nat) : (s.setTag r n).frozen = s.frozen := rfl
@[simp] theorem State.setTag_agenda (r : BitVec 7) (n : Nat) : (s.setTag r n).agenda = s.agenda := rfl
@[simp] theorem State.setTag_core (r : BitVec 7) (n : Nat) : (s.setTag r n).core = s.core := rfl
@[simp] theorem State.setTag_cur (r : BitVec 7) (n : Nat) : (s.setTag r n).cur = s.cur := rfl
@[simp] theorem State.setTag_word (r : BitVec 7) (n : Nat) : (s.setTag r n).word = s.word := rfl
@[simp] theorem State.setTag_fresh (r : BitVec 7) (n : Nat) : (s.setTag r n).fresh = s.fresh := rfl

/-! ## writeElems -/

@[simp] theorem State.writeElems_mem (r : BitVec 7) (n : Nat) (l : List (Nat × Nat)) : (s.writeElems r n l).mem = s.mem := rfl
@[simp] theorem State.writeElems_hist (r : BitVec 7) (n : Nat) (l : List (Nat × Nat)) : (s.writeElems r n l).hist = s.hist := rfl
@[simp] theorem State.writeElems_pubs (r : BitVec 7) (n : Nat) (l : List (Nat × Nat)) : (s.writeElems r n l).pubs = s.pubs := rfl
@[simp] theorem State.writeElems_sends (r : BitVec 7) (n : Nat) (l : List (Nat × Nat)) : (s.writeElems r n l).sends = s.sends := rfl
@[simp] theorem State.writeElems_poison (r : BitVec 7) (n : Nat) (l : List (Nat × Nat)) : (s.writeElems r n l).poison = s.poison := rfl
@[simp] theorem State.writeElems_ns (r : BitVec 7) (n : Nat) (l : List (Nat × Nat)) : (s.writeElems r n l).ns = s.ns := rfl
@[simp] theorem State.writeElems_islands (r : BitVec 7) (n : Nat) (l : List (Nat × Nat)) : (s.writeElems r n l).islands = s.islands := rfl
@[simp] theorem State.writeElems_threads (r : BitVec 7) (n : Nat) (l : List (Nat × Nat)) : (s.writeElems r n l).threads = Map.put s.cur (s.me.setVreg r.toNat ((s.dst r).writeAll s.vlim n l)) s.threads := rfl
@[simp] theorem State.writeElems_cores (r : BitVec 7) (n : Nat) (l : List (Nat × Nat)) : (s.writeElems r n l).cores = s.cores := rfl
@[simp] theorem State.writeElems_ctxs (r : BitVec 7) (n : Nat) (l : List (Nat × Nat)) : (s.writeElems r n l).ctxs = s.ctxs := rfl
@[simp] theorem State.writeElems_crews (r : BitVec 7) (n : Nat) (l : List (Nat × Nat)) : (s.writeElems r n l).crews = s.crews := rfl
@[simp] theorem State.writeElems_held (r : BitVec 7) (n : Nat) (l : List (Nat × Nat)) : (s.writeElems r n l).held = s.held := rfl
@[simp] theorem State.writeElems_active (r : BitVec 7) (n : Nat) (l : List (Nat × Nat)) : (s.writeElems r n l).active = s.active := rfl
@[simp] theorem State.writeElems_turns (r : BitVec 7) (n : Nat) (l : List (Nat × Nat)) : (s.writeElems r n l).turns = s.turns := rfl
@[simp] theorem State.writeElems_reserved (r : BitVec 7) (n : Nat) (l : List (Nat × Nat)) : (s.writeElems r n l).reserved = s.reserved := rfl
@[simp] theorem State.writeElems_tlb (r : BitVec 7) (n : Nat) (l : List (Nat × Nat)) : (s.writeElems r n l).tlb = s.tlb := rfl
@[simp] theorem State.writeElems_shoot (r : BitVec 7) (n : Nat) (l : List (Nat × Nat)) : (s.writeElems r n l).shoot = s.shoot := rfl
@[simp] theorem State.writeElems_rings (r : BitVec 7) (n : Nat) (l : List (Nat × Nat)) : (s.writeElems r n l).rings = s.rings := rfl
@[simp] theorem State.writeElems_mgmt (r : BitVec 7) (n : Nat) (l : List (Nat × Nat)) : (s.writeElems r n l).mgmt = s.mgmt := rfl
@[simp] theorem State.writeElems_peerSel (r : BitVec 7) (n : Nat) (l : List (Nat × Nat)) : (s.writeElems r n l).peerSel = s.peerSel := rfl
@[simp] theorem State.writeElems_ports (r : BitVec 7) (n : Nat) (l : List (Nat × Nat)) : (s.writeElems r n l).ports = s.ports := rfl
@[simp] theorem State.writeElems_sentUpTo (r : BitVec 7) (n : Nat) (l : List (Nat × Nat)) : (s.writeElems r n l).sentUpTo = s.sentUpTo := rfl
@[simp] theorem State.writeElems_bwClass (r : BitVec 7) (n : Nat) (l : List (Nat × Nat)) : (s.writeElems r n l).bwClass = s.bwClass := rfl
@[simp] theorem State.writeElems_bwWeights (r : BitVec 7) (n : Nat) (l : List (Nat × Nat)) : (s.writeElems r n l).bwWeights = s.bwWeights := rfl
@[simp] theorem State.writeElems_throttles (r : BitVec 7) (n : Nat) (l : List (Nat × Nat)) : (s.writeElems r n l).throttles = s.throttles := rfl
@[simp] theorem State.writeElems_counters (r : BitVec 7) (n : Nat) (l : List (Nat × Nat)) : (s.writeElems r n l).counters = s.counters := rfl
@[simp] theorem State.writeElems_snoop (r : BitVec 7) (n : Nat) (l : List (Nat × Nat)) : (s.writeElems r n l).snoop = s.snoop := rfl
@[simp] theorem State.writeElems_hostErr (r : BitVec 7) (n : Nat) (l : List (Nat × Nat)) : (s.writeElems r n l).hostErr = s.hostErr := rfl
@[simp] theorem State.writeElems_hostPoison (r : BitVec 7) (n : Nat) (l : List (Nat × Nat)) : (s.writeElems r n l).hostPoison = s.hostPoison := rfl
@[simp] theorem State.writeElems_outbox (r : BitVec 7) (n : Nat) (l : List (Nat × Nat)) : (s.writeElems r n l).outbox = s.outbox := rfl
@[simp] theorem State.writeElems_outboxPoison (r : BitVec 7) (n : Nat) (l : List (Nat × Nat)) : (s.writeElems r n l).outboxPoison = s.outboxPoison := rfl
@[simp] theorem State.writeElems_frozen (r : BitVec 7) (n : Nat) (l : List (Nat × Nat)) : (s.writeElems r n l).frozen = s.frozen := rfl
@[simp] theorem State.writeElems_agenda (r : BitVec 7) (n : Nat) (l : List (Nat × Nat)) : (s.writeElems r n l).agenda = s.agenda := rfl
@[simp] theorem State.writeElems_core (r : BitVec 7) (n : Nat) (l : List (Nat × Nat)) : (s.writeElems r n l).core = s.core := rfl
@[simp] theorem State.writeElems_cur (r : BitVec 7) (n : Nat) (l : List (Nat × Nat)) : (s.writeElems r n l).cur = s.cur := rfl
@[simp] theorem State.writeElems_word (r : BitVec 7) (n : Nat) (l : List (Nat × Nat)) : (s.writeElems r n l).word = s.word := rfl
@[simp] theorem State.writeElems_fresh (r : BitVec 7) (n : Nat) (l : List (Nat × Nat)) : (s.writeElems r n l).fresh = s.fresh := rfl

/-! ## clearPoison -/

@[simp] theorem State.clearPoison_mem (pa : Nat) : (s.clearPoison pa).mem = s.mem := rfl
@[simp] theorem State.clearPoison_hist (pa : Nat) : (s.clearPoison pa).hist = s.hist := rfl
@[simp] theorem State.clearPoison_pubs (pa : Nat) : (s.clearPoison pa).pubs = s.pubs := rfl
@[simp] theorem State.clearPoison_sends (pa : Nat) : (s.clearPoison pa).sends = s.sends := rfl
@[simp] theorem State.clearPoison_poison (pa : Nat) : (s.clearPoison pa).poison = s.poison.filter (· != poisonUnit pa) := rfl
@[simp] theorem State.clearPoison_ns (pa : Nat) : (s.clearPoison pa).ns = s.ns := rfl
@[simp] theorem State.clearPoison_islands (pa : Nat) : (s.clearPoison pa).islands = s.islands := rfl
@[simp] theorem State.clearPoison_threads (pa : Nat) : (s.clearPoison pa).threads = s.threads := rfl
@[simp] theorem State.clearPoison_cores (pa : Nat) : (s.clearPoison pa).cores = s.cores := rfl
@[simp] theorem State.clearPoison_ctxs (pa : Nat) : (s.clearPoison pa).ctxs = s.ctxs := rfl
@[simp] theorem State.clearPoison_crews (pa : Nat) : (s.clearPoison pa).crews = s.crews := rfl
@[simp] theorem State.clearPoison_held (pa : Nat) : (s.clearPoison pa).held = s.held := rfl
@[simp] theorem State.clearPoison_active (pa : Nat) : (s.clearPoison pa).active = s.active := rfl
@[simp] theorem State.clearPoison_turns (pa : Nat) : (s.clearPoison pa).turns = s.turns := rfl
@[simp] theorem State.clearPoison_reserved (pa : Nat) : (s.clearPoison pa).reserved = s.reserved := rfl
@[simp] theorem State.clearPoison_tlb (pa : Nat) : (s.clearPoison pa).tlb = s.tlb := rfl
@[simp] theorem State.clearPoison_shoot (pa : Nat) : (s.clearPoison pa).shoot = s.shoot := rfl
@[simp] theorem State.clearPoison_rings (pa : Nat) : (s.clearPoison pa).rings = s.rings := rfl
@[simp] theorem State.clearPoison_mgmt (pa : Nat) : (s.clearPoison pa).mgmt = s.mgmt := rfl
@[simp] theorem State.clearPoison_peerSel (pa : Nat) : (s.clearPoison pa).peerSel = s.peerSel := rfl
@[simp] theorem State.clearPoison_ports (pa : Nat) : (s.clearPoison pa).ports = s.ports := rfl
@[simp] theorem State.clearPoison_sentUpTo (pa : Nat) : (s.clearPoison pa).sentUpTo = s.sentUpTo := rfl
@[simp] theorem State.clearPoison_bwClass (pa : Nat) : (s.clearPoison pa).bwClass = s.bwClass := rfl
@[simp] theorem State.clearPoison_bwWeights (pa : Nat) : (s.clearPoison pa).bwWeights = s.bwWeights := rfl
@[simp] theorem State.clearPoison_throttles (pa : Nat) : (s.clearPoison pa).throttles = s.throttles := rfl
@[simp] theorem State.clearPoison_counters (pa : Nat) : (s.clearPoison pa).counters = s.counters := rfl
@[simp] theorem State.clearPoison_snoop (pa : Nat) : (s.clearPoison pa).snoop = s.snoop := rfl
@[simp] theorem State.clearPoison_hostErr (pa : Nat) : (s.clearPoison pa).hostErr = s.hostErr := rfl
@[simp] theorem State.clearPoison_hostPoison (pa : Nat) : (s.clearPoison pa).hostPoison = s.hostPoison := rfl
@[simp] theorem State.clearPoison_outbox (pa : Nat) : (s.clearPoison pa).outbox = s.outbox := rfl
@[simp] theorem State.clearPoison_outboxPoison (pa : Nat) : (s.clearPoison pa).outboxPoison = s.outboxPoison := rfl
@[simp] theorem State.clearPoison_frozen (pa : Nat) : (s.clearPoison pa).frozen = s.frozen := rfl
@[simp] theorem State.clearPoison_agenda (pa : Nat) : (s.clearPoison pa).agenda = s.agenda := rfl
@[simp] theorem State.clearPoison_core (pa : Nat) : (s.clearPoison pa).core = s.core := rfl
@[simp] theorem State.clearPoison_cur (pa : Nat) : (s.clearPoison pa).cur = s.cur := rfl
@[simp] theorem State.clearPoison_word (pa : Nat) : (s.clearPoison pa).word = s.word := rfl
@[simp] theorem State.clearPoison_fresh (pa : Nat) : (s.clearPoison pa).fresh = s.fresh := rfl

/-! ## record -/

@[simp] theorem State.record_mem (w : Agent) (p : StoreKind) (c : Option (Nat × Nat)) (pa : Nat) (b : Byte) : (s.record w p c pa b).mem = cellSet resetByte s.mem pa b := rfl
@[simp] theorem State.record_hist (w : Agent) (p : StoreKind) (c : Option (Nat × Nat)) (pa : Nat) (b : Byte) : (s.record w p c pa b).hist = { time := s.now + 1, pa := pa, old := s.home pa, who := w, kind := p, chunk := c } :: s.hist := rfl
@[simp] theorem State.record_pubs (w : Agent) (p : StoreKind) (c : Option (Nat × Nat)) (pa : Nat) (b : Byte) : (s.record w p c pa b).pubs = s.pubs := rfl
@[simp] theorem State.record_sends (w : Agent) (p : StoreKind) (c : Option (Nat × Nat)) (pa : Nat) (b : Byte) : (s.record w p c pa b).sends = s.sends := rfl
@[simp] theorem State.record_poison (w : Agent) (p : StoreKind) (c : Option (Nat × Nat)) (pa : Nat) (b : Byte) : (s.record w p c pa b).poison = s.poison := rfl
@[simp] theorem State.record_ns (w : Agent) (p : StoreKind) (c : Option (Nat × Nat)) (pa : Nat) (b : Byte) : (s.record w p c pa b).ns = s.ns := rfl
@[simp] theorem State.record_islands (w : Agent) (p : StoreKind) (c : Option (Nat × Nat)) (pa : Nat) (b : Byte) : (s.record w p c pa b).islands = s.islands := rfl
@[simp] theorem State.record_threads (w : Agent) (p : StoreKind) (c : Option (Nat × Nat)) (pa : Nat) (b : Byte) : (s.record w p c pa b).threads = s.threads := rfl
@[simp] theorem State.record_cores (w : Agent) (p : StoreKind) (c : Option (Nat × Nat)) (pa : Nat) (b : Byte) : (s.record w p c pa b).cores = s.cores := rfl
@[simp] theorem State.record_ctxs (w : Agent) (p : StoreKind) (c : Option (Nat × Nat)) (pa : Nat) (b : Byte) : (s.record w p c pa b).ctxs = s.ctxs := rfl
@[simp] theorem State.record_crews (w : Agent) (p : StoreKind) (c : Option (Nat × Nat)) (pa : Nat) (b : Byte) : (s.record w p c pa b).crews = s.crews := rfl
@[simp] theorem State.record_held (w : Agent) (p : StoreKind) (c : Option (Nat × Nat)) (pa : Nat) (b : Byte) : (s.record w p c pa b).held = s.held := rfl
@[simp] theorem State.record_active (w : Agent) (p : StoreKind) (c : Option (Nat × Nat)) (pa : Nat) (b : Byte) : (s.record w p c pa b).active = s.active := rfl
@[simp] theorem State.record_turns (w : Agent) (p : StoreKind) (c : Option (Nat × Nat)) (pa : Nat) (b : Byte) : (s.record w p c pa b).turns = s.turns := rfl
@[simp] theorem State.record_reserved (w : Agent) (p : StoreKind) (c : Option (Nat × Nat)) (pa : Nat) (b : Byte) : (s.record w p c pa b).reserved = s.reserved := rfl
@[simp] theorem State.record_tlb (w : Agent) (p : StoreKind) (c : Option (Nat × Nat)) (pa : Nat) (b : Byte) : (s.record w p c pa b).tlb = s.tlb := rfl
@[simp] theorem State.record_shoot (w : Agent) (p : StoreKind) (c : Option (Nat × Nat)) (pa : Nat) (b : Byte) : (s.record w p c pa b).shoot = s.shoot := rfl
@[simp] theorem State.record_rings (w : Agent) (p : StoreKind) (c : Option (Nat × Nat)) (pa : Nat) (b : Byte) : (s.record w p c pa b).rings = s.rings := rfl
@[simp] theorem State.record_mgmt (w : Agent) (p : StoreKind) (c : Option (Nat × Nat)) (pa : Nat) (b : Byte) : (s.record w p c pa b).mgmt = s.mgmt := rfl
@[simp] theorem State.record_peerSel (w : Agent) (p : StoreKind) (c : Option (Nat × Nat)) (pa : Nat) (b : Byte) : (s.record w p c pa b).peerSel = s.peerSel := rfl
@[simp] theorem State.record_ports (w : Agent) (p : StoreKind) (c : Option (Nat × Nat)) (pa : Nat) (b : Byte) : (s.record w p c pa b).ports = s.ports := rfl
@[simp] theorem State.record_sentUpTo (w : Agent) (p : StoreKind) (c : Option (Nat × Nat)) (pa : Nat) (b : Byte) : (s.record w p c pa b).sentUpTo = s.sentUpTo := rfl
@[simp] theorem State.record_bwClass (w : Agent) (p : StoreKind) (c : Option (Nat × Nat)) (pa : Nat) (b : Byte) : (s.record w p c pa b).bwClass = s.bwClass := rfl
@[simp] theorem State.record_bwWeights (w : Agent) (p : StoreKind) (c : Option (Nat × Nat)) (pa : Nat) (b : Byte) : (s.record w p c pa b).bwWeights = s.bwWeights := rfl
@[simp] theorem State.record_throttles (w : Agent) (p : StoreKind) (c : Option (Nat × Nat)) (pa : Nat) (b : Byte) : (s.record w p c pa b).throttles = s.throttles := rfl
@[simp] theorem State.record_counters (w : Agent) (p : StoreKind) (c : Option (Nat × Nat)) (pa : Nat) (b : Byte) : (s.record w p c pa b).counters = s.counters := rfl
@[simp] theorem State.record_snoop (w : Agent) (p : StoreKind) (c : Option (Nat × Nat)) (pa : Nat) (b : Byte) : (s.record w p c pa b).snoop = s.snoop := rfl
@[simp] theorem State.record_hostErr (w : Agent) (p : StoreKind) (c : Option (Nat × Nat)) (pa : Nat) (b : Byte) : (s.record w p c pa b).hostErr = s.hostErr := rfl
@[simp] theorem State.record_hostPoison (w : Agent) (p : StoreKind) (c : Option (Nat × Nat)) (pa : Nat) (b : Byte) : (s.record w p c pa b).hostPoison = s.hostPoison := rfl
@[simp] theorem State.record_outbox (w : Agent) (p : StoreKind) (c : Option (Nat × Nat)) (pa : Nat) (b : Byte) : (s.record w p c pa b).outbox = s.outbox := rfl
@[simp] theorem State.record_outboxPoison (w : Agent) (p : StoreKind) (c : Option (Nat × Nat)) (pa : Nat) (b : Byte) : (s.record w p c pa b).outboxPoison = s.outboxPoison := rfl
@[simp] theorem State.record_frozen (w : Agent) (p : StoreKind) (c : Option (Nat × Nat)) (pa : Nat) (b : Byte) : (s.record w p c pa b).frozen = s.frozen := rfl
@[simp] theorem State.record_agenda (w : Agent) (p : StoreKind) (c : Option (Nat × Nat)) (pa : Nat) (b : Byte) : (s.record w p c pa b).agenda = s.agenda := rfl
@[simp] theorem State.record_core (w : Agent) (p : StoreKind) (c : Option (Nat × Nat)) (pa : Nat) (b : Byte) : (s.record w p c pa b).core = s.core := rfl
@[simp] theorem State.record_cur (w : Agent) (p : StoreKind) (c : Option (Nat × Nat)) (pa : Nat) (b : Byte) : (s.record w p c pa b).cur = s.cur := rfl
@[simp] theorem State.record_word (w : Agent) (p : StoreKind) (c : Option (Nat × Nat)) (pa : Nat) (b : Byte) : (s.record w p c pa b).word = s.word := rfl
@[simp] theorem State.record_fresh (w : Agent) (p : StoreKind) (c : Option (Nat × Nat)) (pa : Nat) (b : Byte) : (s.record w p c pa b).fresh = s.fresh := rfl

/-! ## Reading what was set -/

@[simp] theorem State.thread_setThread (k : Nat) (t : Thread) : (s.setThread k t).thread k = t := by
  simp [State.thread]

theorem State.thread_setThread_ne {j k : Nat} (h : j ≠ k) (t : Thread) :
    (s.setThread k t).thread j = s.thread j := by
  simp [State.thread, Map.getD_put_ne h]

@[simp] theorem State.me_setMe (t : Thread) : (s.setMe t).me = t := by simp [State.me, State.thread]

@[simp] theorem State.me_modMe (f : Thread → Thread) : (s.modMe f).me = f s.me := by simp [State.me, State.thread]

@[simp] theorem State.me_modVec (f : Vec → Vec) : (s.modVec f).me = { s.me with vec := f s.me.vec } := by
  simp [State.me, State.thread]

@[simp] theorem State.me_wr (d : BitVec 7) (v : Word) : (s.wr d v).me = s.me.wr d v := by simp [State.me, State.thread]

@[simp] theorem State.me_retire : s.retire.me = s.me.retire := by simp [State.me, State.thread]

@[simp] theorem State.coreAt_setCore (k : Nat) (c : Core) : (s.setCore k c).coreAt k = c := by simp [State.coreAt]

theorem State.coreAt_setCore_ne {j k : Nat} (h : j ≠ k) (c : Core) : (s.setCore k c).coreAt j = s.coreAt j := by
  simp [State.coreAt, Map.getD_put_ne h]

@[simp] theorem State.ctxAt_setCtx (c : Context) : (s.setCtx c).ctxAt c.id = c := by simp [State.ctxAt]

theorem State.ctxAt_setCtx_ne {j : Nat} {c : Context} (h : j ≠ c.id) : (s.setCtx c).ctxAt j = s.ctxAt j := by
  simp [State.ctxAt, Map.getD_put_ne h]

@[simp] theorem State.island_setIsland (k : Nat) (i : Island) : (s.setIsland k i).island k = i := by simp [State.island]

theorem State.island_setIsland_ne {j k : Nat} (h : j ≠ k) (i : Island) : (s.setIsland k i).island j = s.island j := by
  simp [State.island, Map.getD_put_ne h]

end Sys2Proof.Machine
end

