-- ==== Sys2Proof/Laws/Flags.lean ====
section
/-! SUPPORT. Flags in flight: what raising them and waiting for them does, said once (06 R99; 07 R133). -/

namespace Sys2Proof.Machine

variable (s : State) (l : List Effect)

/-- A change of the executing thread overwrites an earlier one. -/
theorem State.modMe_modMe (f g : Thread → Thread) : (s.modMe f).modMe g = s.modMe (fun t => g (f t)) := by
  simp [State.modMe, State.setMe, State.setThread, State.me, State.thread]

/-- What a wait for some effects leaves in flight. -/
def Thread.waited (t : Thread) (l : List Effect) : Thread :=
  { t with flights := t.flights.filter (fun f => !(f.can.any l.contains)) }

theorem Thread.waited_eq {t : Thread} (h : ¬ t.flights.any (fun f => f.can.any l.contains)) : t.waited l = t := by
  have : t.flights.filter (fun f => !(f.can.any l.contains)) = t.flights := by
    rw [List.filter_eq_self]; intro f hf
    have := mt (fun c => List.any_eq_true.mpr ⟨f, hf, c⟩) h
    simpa using this
  simp [Thread.waited, this]

/-- A wait followed by any change of the thread is one change. -/
theorem State.settled_modMe (f : Thread → Thread) : (s.settled l).modMe f = s.modMe (fun t => f (t.waited l)) := by
  unfold State.settled
  split
  · exact s.modMe_modMe _ _
  · rename_i h
    simp only [State.modMe, Thread.waited_eq l h]

/-- After a wait nothing in flight can change what was waited for. -/
theorem State.settled_flights {f : Flight} (h : f ∈ (s.settled l).me.flights) : f.can.any l.contains = false := by
  unfold State.settled at h
  split at h
  · simp [State.modMe] at h
    simpa using h.2
  · rename_i c
    exact Bool.eq_false_iff.mpr (mt (fun k => List.any_eq_true.mpr ⟨f, h, k⟩) c)

theorem State.flagsSettled_inFlight : s.flagsSettled.me.inFlight = 0 := by
  unfold State.flagsSettled
  split
  · rename_i h
    simp [Thread.inFlight, flightFlags, List.isEmpty_iff.mp h]
  · simp [State.modMe, Thread.inFlight, flightFlags]

@[simp] theorem State.settled_mem : (s.settled l).mem = s.mem := by unfold State.settled; split <;> rfl
@[simp] theorem State.settled_cur : (s.settled l).cur = s.cur := by unfold State.settled; split <;> rfl
@[simp] theorem State.flagsSettled_mem : s.flagsSettled.mem = s.mem := by unfold State.flagsSettled; split <;> rfl

@[simp] theorem State.raiseFlight_mem (f : Flags) : (s.raiseFlight l f).mem = s.mem := by
  unfold State.raiseFlight; split <;> rfl
@[simp] theorem State.raise_mem (f : Flags) : (s.raise l f).mem = s.mem := s.raiseFlight_mem _ f

end Sys2Proof.Machine
end

