-- ==== Sys2Proof/Laws/Memory.lean ====
section
/-! SUPPORT. The laws of memory: what each operation over it leaves of the homes, and that every one keeps the canonical
form (10 R199; 17 R286 to R297). -/

namespace Sys2Proof.Machine

variable {s : State}

/-- Operations that leave the homes alone keep the form. -/
theorem State.memOk_of_mem {t : State} (e : t.mem = s.mem) (h : s.memOk) : t.memOk := by
  unfold State.memOk at *; rw [e]; exact h

theorem State.memOk_filter (f : Host.Cell → Bool) (h : s.memOk) : Memory.wf (s.mem.filter f) = true :=
  cellsWf_filter _ f h

/-- Reset memory lists nothing. -/
theorem State.reset_memOk : State.reset.memOk := rfl

/-! ## One byte at its home -/

theorem State.record_memOk (h : s.memOk) (who : Agent) (kind : StoreKind) (c : Option (Nat × Nat)) (pa : Nat) (b : Byte) :
    (s.record who kind c pa b).memOk := cellsWf_cellSet _ h pa b

@[simp] theorem State.setPoison_mem (pa : Nat) : (s.setPoison pa).mem = s.mem := by
  unfold State.setPoison; split <;> rfl

theorem State.perform_memOk (h : s.memOk) (who : Agent) (kind : StoreKind) (c : Option (Nat × Nat)) (w : Bool) (pa : Nat)
    (b : Byte) : (s.perform who kind c w pa b).memOk := by
  unfold State.perform
  split
  · exact h
  · refine State.record_memOk ?_ who kind c pa b
    split
    · exact State.memOk_of_mem rfl h
    · exact h

/-- A byte recorded at its home reads back there, and every other home is as it was. -/
theorem State.home_record (s : State) (who : Agent) (kind : StoreKind) (c : Option (Nat × Nat)) (pa k : Nat) (b : Byte) :
    (s.record who kind c pa b).home k = if pa = k then b else s.home k := cellGet_cellSet _ _ _ _ _

@[simp] theorem State.home_clearPoison (s : State) (pa k : Nat) : (s.clearPoison pa).home k = s.home k := rfl

/-- A byte performed: at its home, unless the function of the address has failed. -/
theorem State.home_perform (s : State) (who : Agent) (kind : StoreKind) (c : Option (Nat × Nat)) (w : Bool) (pa k : Nat)
    (b : Byte) : (s.perform who kind c w pa b).home k = if pa = k ∧ s.failedAt pa = false then b else s.home k := by
  unfold State.perform
  split
  · rename_i h; rw [if_neg]; simp [h]
  · rename_i h
    simp only [Bool.not_eq_true] at h
    rw [State.home_record]
    simp only [h, and_true]
    split
    · rfl
    · split <;> rfl

/-! ## Stores on their way to the homes -/

theorem State.writeBack_memOk (h : s.memOk) (key : Nat) (p : Pend) : (s.writeBack key p).memOk := by
  have h' := fun w => State.perform_memOk h (.thread key) .plain none w p.pa p.val
  unfold State.writeBack
  dsimp only
  split
  · exact State.memOk_of_mem (State.setPoison_mem _) (h' _)
  · exact h' _

theorem State.drain_memOk (key : Nat) (l : List Pend) : ∀ {s : State}, s.memOk → (s.drain key l).memOk := by
  induction l with
  | nil => exact fun h => h
  | cons p r ih =>
    intro s h
    refine ih ?_
    split
    · exact h
    · exact State.writeBack_memOk h key p

@[simp] theorem State.invalidateHost_mem (l : List Nat) : (s.invalidateHost l).mem = s.mem := rfl

theorem State.writeHome_memOk (who : Agent) (kind : StoreKind) (w : Bool) (pas : List Nat) :
    ∀ (l : List Byte) {s : State}, s.memOk → (s.writeHome who kind w pas l).memOk := by
  induction pas with
  | nil => intro l s h; unfold State.writeHome; exact h
  | cons p r ih =>
    intro l s h
    cases l with
    | nil => unfold State.writeHome; exact h
    | cons b bs =>
      have h' := State.perform_memOk h who kind none w p b
      unfold State.writeHome
      dsimp only
      split
      · exact ih bs (State.memOk_of_mem (State.invalidateHost_mem _) h')
      · exact ih bs h'

theorem State.writeAtomic_memOk (h : s.memOk) (key : Nat) (kind : StoreKind) (w : Bool) (pas : List Nat) (l : List Byte) :
    (s.writeAtomic key kind w pas l).memOk := State.writeHome_memOk _ _ _ _ _ (State.memOk_of_mem rfl h)

@[simp] theorem State.published_mem (who : Agent) (scope : Nat) (l : List Nat) : (s.published who scope l).mem = s.mem := by
  unfold State.published; dsimp only; split <;> rfl

theorem State.publish_memOk (h : s.memOk) (key scope : Nat) : (s.publish key scope).memOk :=
  State.memOk_of_mem (State.published_mem _ _ _) (State.drain_memOk key _ (State.memOk_of_mem rfl h))

theorem State.publishOlder_memOk (h : s.memOk) (key scope i : Nat) : (s.publishOlder key scope i).memOk :=
  State.memOk_of_mem (State.published_mem _ _ _) (State.drain_memOk key _ (State.memOk_of_mem rfl h))

theorem State.publishMarkerAt_memOk (h : s.memOk) (key i : Nat) : (s.publishMarkerAt key i).memOk := by
  unfold State.publishMarkerAt
  split
  · exact h
  · split
    · exact h
    · exact State.memOk_of_mem (s := s.publishOlder key _ i) rfl (State.publishOlder_memOk h key _ i)

theorem State.publishMarkers_memOk (h : s.memOk) (key n : Nat) : (s.publishMarkers key n).memOk := by
  induction n with
  | zero => exact h
  | succ n ih => exact State.publishMarkerAt_memOk ih key n

@[simp] theorem State.acquireTaking_mem (key scope : Nat) (l m : List Nat) : (s.acquireTaking key scope l m).mem = s.mem := rfl

@[simp] theorem State.acquireWith_mem (key scope : Nat) (l : List Nat) : (s.acquireWith key scope l).mem = s.mem := rfl

@[simp] theorem State.acquire_mem (key scope : Nat) : (s.acquire key scope).mem = s.mem := rfl

theorem State.acquire_memOk (h : s.memOk) (key scope : Nat) : (s.acquire key scope).memOk := h

theorem State.phase_memOk (h : s.memOk) (key scope : Nat) : (s.phase key scope).memOk :=
  State.memOk_of_mem (s := s.publish key scope) rfl (State.publish_memOk h key scope)

theorem State.settle_memOk (h : s.memOk) (key : Nat) (pas : List Nat) : (s.settle key pas).memOk := by
  unfold State.settle
  dsimp only
  refine State.drain_memOk key _ (State.memOk_of_mem (s := s) ?_ h)
  split <;> rfl

theorem State.settleNow_memOk (h : s.memOk) (key : Nat) (pas : List Nat) : (s.settleNow key pas).memOk :=
  State.settle_memOk (State.publishMarkers_memOk h key _) key pas

theorem State.sendWhere_memOk (h : s.memOk) (due : Nat × Pend → Bool) : (s.sendWhere due).memOk := by
  have go : ∀ (l : List (Nat × Pend)) {s : State}, s.memOk → (l.foldl (fun s x => s.writeBack x.1 x.2) s).memOk := by
    intro l
    induction l with
    | nil => exact fun h => h
    | cons x r ih => exact fun h => ih (State.writeBack_memOk h _ _)
  exact go _ (State.memOk_of_mem rfl h)

@[simp] theorem State.renameStores_mem (key new : Nat) : (s.renameStores key new).mem = s.mem := rfl

theorem State.store_mem (key : Nat) (all pas : List Nat) :
    ∀ (l : List Byte) (s : State), (s.store key all pas l).mem = s.mem := by
  induction pas with
  | nil => intro l s; unfold State.store; rfl
  | cons p r ih =>
    intro l s
    cases l with
    | nil => unfold State.store; rfl
    | cons b bs => exact (ih bs _).trans (State.pendByte_mem ..)

theorem State.afterStore_memOk (h : s.memOk) (key : Nat) : (s.afterStore key).memOk := by
  unfold State.afterStore
  split
  · refine State.publish_memOk ?_ key 2
    split
    · exact h
    · exact State.settleNow_memOk h key _
  · exact h

theorem State.meets_mem (s : State) (f : Flt) : (s.meets f).mem = s.mem := by unfold State.meets; split <;> rfl

/-! ## Reads -/

@[simp] theorem State.observe_mem (key : Nat) (e : Option Undo) : (s.observe key e).mem = s.mem := by
  unfold State.observe
  cases e with
  | none => rfl
  | some e => dsimp only; split <;> rfl

theorem State.readBytes_mem (key : Nat) (pas : List Nat) : ∀ s : State, (s.readBytes key pas).2.mem = s.mem := by
  induction pas with
  | nil => exact fun _ => rfl
  | cons p r ih => exact fun s => (ih _).trans (State.observe_mem _ _)

theorem State.readHome_mem (key : Nat) (pas : List Nat) : ∀ s : State, (s.readHome key pas).2.mem = s.mem := by
  induction pas with
  | nil => exact fun _ => rfl
  | cons p r ih => exact fun s => (ih _).trans (State.observe_mem _ _)

/-- A byte of device memory or of the scratchpad is read at its home as it stands there. -/
theorem State.homeByte_fst {pa : Nat} (h : uncachedPa pa = false) (s : State) (key : Nat) :
    (s.homeByte key pa).1 = s.home pa := by simp [State.homeByte, h]

theorem State.readHome_fst (key : Nat) (pas : List Nat) (h : ∀ pa ∈ pas, uncachedPa pa = false) :
    ∀ s : State, (s.readHome key pas).1 = pas.map s.home := by
  induction pas with
  | nil => exact fun _ => rfl
  | cons p r ih =>
    intro s
    simp only [State.readHome, List.map_cons, List.cons.injEq]
    refine ⟨State.homeByte_fst (h p (List.mem_cons_self ..)) s key, ?_⟩
    rw [ih (fun pa m => h pa (List.mem_cons_of_mem _ m))]
    refine List.map_congr_left (fun k _ => ?_)
    simp [State.home]

@[simp] theorem State.fillL1_mem (key pa : Nat) : (s.fillL1 key pa).mem = s.mem := rfl

@[simp] theorem State.reread_mem (key : Nat) (pas : List Nat) : (s.reread key pas).mem = s.mem := by
  unfold State.reread; dsimp only; split <;> rfl

@[simp] theorem State.rereadAll_mem (key : Nat) (l : List Place) : (s.rereadAll key l).mem = s.mem := by
  unfold State.rereadAll
  induction l generalizing s with
  | nil => rfl
  | cons p r ih => exact ih.trans (s.reread_mem key p.pas)

/-- A thread with no atomic of its own to read again reads as its snapshot stands. -/
theorem State.reread_none {key : Nat} {pas : List Nat} (h : s.reloads key pas = []) : s.reread key pas = s := by
  simp [State.reread, h]

theorem State.rereadAll_none {key : Nat} {l : List Place} (h : ∀ p ∈ l, s.reloads key p.pas = []) : s.rereadAll key l = s := by
  unfold State.rereadAll
  induction l with
  | nil => rfl
  | cons p r ih =>
    rw [List.foldl_cons, s.reread_none (h p (List.mem_cons_self ..))]
    exact ih (fun q m => h q (List.mem_cons_of_mem _ m))

@[simp] theorem State.strengthRead_mem (key : Nat) (l : List Place) : (s.strengthRead key l).mem = s.mem := by
  have line : ∀ (l : List Nat) (s : State), (l.foldl (fun s a => s.fillL1 key a) s).mem = s.mem := by
    intro l
    induction l with
    | nil => exact fun _ => rfl
    | cons a r ih => exact fun s => (ih _).trans rfl
  have place : ∀ (l : List Place) (s : State),
      (l.foldl (fun s p => p.pas.foldl (fun s a => s.fillL1 key a) s) s).mem = s.mem := by
    intro l
    induction l with
    | nil => exact fun _ => rfl
    | cons p r ih => exact fun s => (ih _).trans (line _ _)
  unfold State.strengthRead
  split
  · split
    · rfl
    · exact place _ _
  · rfl

@[simp] theorem State.beforeRead_mem (key : Nat) (l : List Place) : (s.beforeRead key l).mem = s.mem := by
  simp [State.beforeRead]

@[simp] theorem State.beforeHome_mem (key : Nat) : (s.beforeHome key).mem = s.mem := by
  unfold State.beforeHome; split <;> rfl

@[simp] theorem State.beforeEngine_mem (key : Nat) (l : List Place) : (s.beforeEngine key l).mem = s.mem := by
  unfold State.beforeEngine; rw [State.rereadAll_mem]; split <;> rfl

/-! ## Every other operation that writes homes -/

theorem copyElems_memOk (key : Nat) (who : Agent) (chunk : Nat × Nat) (all : List Nat) (l : List (List Nat × List Nat)) :
    ∀ {s : State}, s.memOk → (copyElems key who chunk all s l).memOk := by
  have bytes : ∀ (z : List (Nat × Byte)) {s : State}, s.memOk →
      (z.foldl (fun s p => s.perform who .plain (some chunk) (isSpad p.1 && wholeIn all p.1) p.1 p.2) s).memOk := by
    intro z
    induction z with
    | nil => exact fun h => h
    | cons p r ih => exact fun h => ih (State.perform_memOk h _ _ _ _ _ _)
  induction l with
  | nil => intro s h; unfold copyElems; exact h
  | cons p r ih => exact fun h => ih (bytes _ h)

theorem clearLeaves_memOk (ls : List Leaf) : ∀ {s : State}, s.memOk → (clearLeaves s ls).memOk := by
  induction ls with
  | nil => exact fun h => h
  | cons l r ih => exact fun h => ih (State.writeHome_memOk _ _ _ _ _ h)

theorem hostStore_memOk (l : List Byte) : ∀ {s : State} (pa : Nat), s.memOk → (hostStore s pa l).memOk := by
  induction l with
  | nil => exact fun _ h => h
  | cons b r ih =>
    intro s pa h
    refine ih (pa + 1) ?_
    split
    · exact h
    · exact State.perform_memOk h _ _ _ _ _ _

theorem outsideWrite_memOk (kind : StoreKind) (l : List Byte) :
    ∀ {s : State} (pa : Nat), s.memOk → (outsideWrite s kind pa l).memOk := by
  induction l with
  | nil => exact fun _ h => h
  | cons b r ih =>
    intro s pa h
    refine ih (pa + 1) ?_
    split
    · exact State.record_memOk h _ _ _ _ _
    · exact h

theorem outsideArrival_memOk (h : s.memOk) (pa n : Nat) : (outsideArrival s pa n).memOk := by
  unfold outsideArrival
  split
  · generalize barrierWrites _ _ = l
    induction l generalizing s with
    | nil => exact h
    | cons w r ih => exact ih (outsideWrite_memOk _ _ _ h)
  · exact h

theorem plant_memOk (l : List Byte) : ∀ {s : State} (pa : Nat), s.memOk → (plant s pa l).memOk := by
  induction l with
  | nil => exact fun _ h => h
  | cons b r ih => exact fun pa h => ih (pa + 1) (cellsWf_cellSet _ h pa b)

theorem placeWord_memOk (h : s.memOk) (w : BitVec 32) : (placeWord s w).memOk :=
  State.memOk_of_mem (s := plant s stagingBase (bytesOfWord w)) rfl (plant_memOk _ _ h)

/-- Bytes set one after another keep the form. -/
theorem cellsWf_foldl (f : Nat → Nat) (g : Nat → Byte) (l : List Nat) :
    ∀ {m : List Host.Cell}, cellsWf resetByte m = true →
      cellsWf resetByte (l.foldl (fun m i => cellSet resetByte m (f i) (g i)) m) = true := by
  induction l with
  | nil => exact fun h => h
  | cons i r ih => exact fun h => ih (cellsWf_cellSet _ h _ _)

theorem copyFrame_memOk (h : s.memOk) (a b : Nat) : (copyFrame s a b).memOk := by
  unfold copyFrame State.memOk Memory.wf
  dsimp only
  exact cellsWf_foldl (fun i => b * 2 ^ 16 + i) (fun i => s.home (a * 2 ^ 16 + i)) (List.range (2 ^ 16)) h

theorem resetQuad_filter_memOk (h : s.memOk) (f : Nat → Bool) : ({ s with mem := s.mem.filter (fun c => f c.1) } : State).memOk :=
  State.memOk_filter _ h

theorem packageReset_memOk (h : s.memOk) : (packageReset s).memOk := State.memOk_filter _ h

theorem writeRecord_memOk (r : Record) (path : List Nat) :
    ∀ {s : State} {w : Record × State}, s.memOk → writeRecord s r path = some w → w.2.memOk := by
  induction path generalizing r with
  | nil => intro s w h e; cases e; exact h
  | cons id up ih =>
    intro s w h e
    unfold writeRecord at e
    dsimp only at e
    split at e
    · cases e; exact State.memOk_of_mem rfl h
    · split at e
      · cases e; exact State.memOk_of_mem (s := s.writeHome _ _ _ _ _) rfl (State.writeHome_memOk _ _ _ _ _ h)
      · cases e
      · split at e
        · cases e; exact State.memOk_of_mem (State.meets_mem s _) h
        · exact ih _ (State.memOk_of_mem (State.meets_mem s _) h) e

@[simp] theorem countRecord_mem (core : Nat) (a b : Record) : (countRecord s core a b).mem = s.mem := by
  unfold countRecord; split <;> rfl

@[simp] theorem State.deliver_mem (core : Nat) (e : Entry) : (s.deliver core e).mem = s.mem := rfl

theorem postNow_memOk (h : s.memOk) {core queue : Nat} {e : Entry} {t : State} (p : postNow s core queue e = some t) :
    t.memOk := by
  unfold postNow at p
  obtain ⟨w, hw, p⟩ := Option.bind_eq_some_iff.1 p
  split at p
  · cases p
  · cases p
    exact State.memOk_of_mem (s := w.2) (by simp) (writeRecord_memOk _ _ h hw)

@[simp] theorem remember_mem (core queue : Nat) (r : Record) : (remember s core queue r).mem = s.mem := by
  unfold remember; split <;> rfl

/-- A record posted keeps the form. -/
theorem State.post_memOk (h : s.memOk) (core queue : Nat) (e : Entry) : (s.post core queue e).memOk := by
  unfold State.post
  dsimp only
  have h' : (remember s core queue e.record).memOk := State.memOk_of_mem (remember_mem _ _ _) h
  split
  · exact h
  · split
    · cases p : postNow (remember s core queue e.record) core queue e with
      | none => exact State.memOk_of_mem (s := remember s core queue e.record) rfl h'
      | some t => exact postNow_memOk h' p
    · exact State.memOk_of_mem (s := remember s core queue e.record) rfl h'

@[simp] theorem redeliver_mem (core : Nat) (l : List Entry) : ∀ s : State, (redeliver s core l).mem = s.mem := by
  induction l with
  | nil => exact fun _ => rfl
  | cons e r ih => exact fun s => (ih _).trans rfl

@[simp] theorem enterHandler_mem (core : Nat) (e : Entry) : (enterHandler s core e).mem = s.mem := rfl

@[simp] theorem nextHandler_mem (core : Nat) : (nextHandler s core).mem = s.mem := by
  unfold nextHandler
  dsimp only
  split
  · split
    · rfl
    · split <;> rfl
  · split
    · rfl
    · split <;> rfl

theorem enterFirst_memOk (h : s.memOk) (core : Nat) (e : Entry) : (enterFirst s core e).memOk := by
  unfold enterFirst
  split
  · exact State.memOk_of_mem (nextHandler_mem _) (State.memOk_of_mem rfl h)
  · rename_i w hw
    have h' := writeRecord_memOk _ _ h hw
    dsimp only
    split
    · exact State.memOk_of_mem (enterHandler_mem _ _) h'
    · exact State.memOk_of_mem (nextHandler_mem _) (State.memOk_of_mem rfl h')

theorem trapUser_memOk (h : s.memOk) (key : Nat) (i : TrapInfo) : (trapUser s key i).memOk := by
  unfold trapUser
  dsimp only
  refine State.post_memOk ?_ _ _ _
  exact h

theorem trapSupervisor_memOk (h : s.memOk) (key : Nat) (i : TrapInfo) : (trapSupervisor s key i).memOk := by
  unfold trapSupervisor
  dsimp only
  split
  · refine State.post_memOk ?_ _ _ _
    exact h
  · split
    · refine State.memOk_of_mem (nextHandler_mem _) (State.memOk_of_mem (redeliver_mem _ _ _) (State.post_memOk ?_ _ _ _))
      exact h
    · split
      · refine enterFirst_memOk (State.memOk_of_mem (redeliver_mem _ _ _) ?_) _ _
        exact h
      · refine State.memOk_of_mem (nextHandler_mem _) (State.post_memOk ?_ _ _ _)
        exact h

/-- Taking an exception keeps the form. -/
theorem takeTrap_memOk (h : s.memOk) (key : Nat) (i : TrapInfo) : (takeTrap s key i).memOk := by
  unfold takeTrap
  split
  · exact State.memOk_of_mem (s := trapSupervisor s key i) rfl (trapSupervisor_memOk h key i)
  · exact State.memOk_of_mem (s := trapUser s key i) rfl (trapUser_memOk h key i)

theorem trapAt_memOk (h : s.memOk) (cause : Nat) (va : Option Word) (elem : Nat) (map : Option Nat) :
    (trapAt s cause va elem map).memOk := takeTrap_memOk h _ _

theorem instrFault_memOk (h : s.memOk) {t : State} {cause : Nat} (e : instrFault s cause = .next t) : t.memOk := by
  unfold instrFault at e; cases e; exact trapAt_memOk h _ _ _ _

end Sys2Proof.Machine
end

