-- ==== Sys2Proof/Laws/Registers.lean ====
section
/-! SUPPORT. Scalar registers, retiring and the writing of a result: what each does, said once. -/

namespace Sys2Proof.Machine

variable (t : Thread) (s : State)

@[simp] theorem Thread.rd_zero : t.rd 0 = 0 := rfl

@[simp] theorem Thread.wr_zero (v : Word) : t.wr 0 v = t := rfl

/-- Two fields of a word that name the same register are the same field (03 R29). -/
theorem Thread.regIndex_inj {a b : BitVec 7} (h : t.regIndex a = t.regIndex b) : a = b := by
  apply BitVec.eq_of_toNat_eq
  unfold Thread.regIndex at h
  split at h <;> split at h <;> omega

theorem Thread.wr_regs (d : BitVec 7) (v : Word) :
    (t.wr d v).regs = if d = 0 then t.regs else Map.put (t.regIndex d) v t.regs := by
  unfold Thread.wr; split <;> rfl

/-- A write changes the registers and nothing else of a thread. -/
theorem Thread.wr_eq (d : BitVec 7) (v : Word) : t.wr d v = { t with regs := (t.wr d v).regs } := by
  unfold Thread.wr; split <;> rfl

@[simp] theorem Thread.wr_wb (d : BitVec 7) (v : Word) : (t.wr d v).wb = t.wb := by rw [Thread.wr_eq]

@[simp] theorem Thread.wr_regIndex (d n : BitVec 7) (v : Word) : (t.wr d v).regIndex n = t.regIndex n := by
  simp [Thread.regIndex]

theorem Thread.wr_getD (d : BitVec 7) (v : Word) {p : Nat} (h : d = 0 ∨ p ≠ t.regIndex d) :
    Map.getD p 0 (t.wr d v).regs = Map.getD p 0 t.regs := by
  rw [Thread.wr_regs]
  split
  · rfl
  · exact Map.getD_put_ne (h.resolve_left ‹_›) _ _ _

theorem Thread.rd_wr_self (d : BitVec 7) (v : Word) : (t.wr d v).rd d = if d = 0 then 0 else v := by
  unfold Thread.rd
  split
  · rfl
  · rename_i h; rw [Thread.wr_regIndex, Thread.wr_regs, if_neg h, Map.getD_put_self]

theorem Thread.rd_wr_ne {d n : BitVec 7} (h : n ≠ d) (v : Word) : (t.wr d v).rd n = t.rd n := by
  unfold Thread.rd
  split
  · rfl
  · rw [Thread.wr_regIndex, Thread.wr_getD]
    exact .inr (fun e => h (t.regIndex_inj e))

/-! ## Retiring -/

@[simp] theorem Thread.retire_regs : t.retire.regs = t.regs := by
  unfold Thread.retire Thread.raiseKept; dsimp only; split <;> split <;> rfl

@[simp] theorem Thread.retire_wb : t.retire.wb = t.wb := by
  unfold Thread.retire Thread.raiseKept; dsimp only; split <;> split <;> rfl

@[simp] theorem Thread.retire_rd (n : BitVec 7) : t.retire.rd n = t.rd n := by
  simp [Thread.rd, Thread.regIndex]

/-- Retiring moves the place in the program, ES, the count, the flags that a replay kept and the answer to a forced
pre-emption, and nothing else. -/
theorem Thread.retire_eq :
    t.retire = { t with pc := t.retire.pc, replay := none, mstep := t.retire.mstep, vec := t.retire.vec,
                        fpflags := t.retire.fpflags, stop := none, stopped := t.retire.stopped, abandoned := false,
                        cnt := t.retire.cnt, flights := t.retire.flights } := by
  unfold Thread.retire Thread.raiseKept; dsimp only
  split
  · split <;> rfl
  · split <;> (simp only [Thread.mk.injEq, and_true, true_and]; assumption)

/-- Registers may be written before or after retiring. -/
theorem Thread.retire_withRegs (r : Map Word) : ({ t with regs := r }).retire = { t.retire with regs := r } := by
  unfold Thread.retire Thread.raiseKept; dsimp only; split <;> split <;> rfl

/-- A result written and the instruction retired: one equation that the scalar instructions share. -/
theorem State.finish_eq (d : BitVec 7) (v : Word) : s.finish d v = .next (s.wr d v).retire := rfl

theorem State.me_finish (d : BitVec 7) (v : Word) : ((s.wr d v).retire).me = (s.me.wr d v).retire := by simp

end Sys2Proof.Machine
end

