-- ==== Sys2Proof/Laws/Operations.lean ====
section
/-! SUPPORT. One lemma per shared operation that says what it does when it goes on. -/

namespace Sys2Proof.Machine

variable {s : State}

/-! ## Who may execute (03 R40) -/

theorem userOnly_user {k : Unit → Out} (h : isSupervisor s.cur = false) : userOnly s k = k () := by
  simp [userOnly, State.sup, h]

theorem userOnly_sup {k : Unit → Out} (h : isSupervisor s.cur = true) : userOnly s k = instrFault s 0x10 := by
  simp [userOnly, State.sup, h]

theorem supOnly_sup {k : Unit → Out} (h : isSupervisor s.cur = true) : supOnly s k = k () := by
  simp [supOnly, State.sup, h]

theorem supOnly_user {k : Unit → Out} (h : isSupervisor s.cur = false) : supOnly s k = instrFault s 0x11 := by
  simp [supOnly, State.sup, h]

theorem rootOnly_root {k : Unit → Out} (h : isSupervisor s.cur = true) (r : s.me.ctx = 0) : rootOnly s k = k () := by
  simp [rootOnly, State.rootSup, State.sup, h, r]

theorem rootOnly_other {k : Unit → Out} (h : isSupervisor s.cur = false ∨ s.me.ctx ≠ 0) :
    rootOnly s k = instrFault s 0x11 := by
  unfold rootOnly State.rootSup State.sup
  rcases h with h | h <;> simp [h]

theorem vecIssue_ok {k : Unit → Out} {regs : List (BitVec 7)} (h : isSupervisor s.cur = false)
    (r : ∀ x ∈ regs, x.toNat < s.me.vec.nregs) : vecIssue s regs k = k () := by
  unfold vecIssue
  rw [if_neg]
  simp only [State.sup, h, Bool.false_or, List.any_eq_true, decide_eq_true_eq, not_exists, not_and, Nat.not_le]
  exact r

theorem chunkWait_ok {k : Unit → Out} {d : BitVec 7} (c : ∀ c ∈ s.me.cmds, c.id ≠ d.toNat) : chunkWait s d k = k () := by
  unfold chunkWait
  rw [if_neg]
  simpa using c

theorem tagCheck_ok {k : Unit → Out} {ok : Bool} (h : ok = true) : tagCheck s ok k = k () := by simp [tagCheck, h]

theorem tagCheck_bad {k : Unit → Out} {ok : Bool} (h : ok = false) : tagCheck s ok k = instrFault s 0x12 := by
  simp [tagCheck, h]

theorem tagWrite_ok {k : Unit → Out} {d : BitVec 7} {ok : Bool} (h : ok = true) (c : ∀ c ∈ s.me.cmds, c.id ≠ d.toNat) :
    tagWrite s d ok k = k () := by
  unfold tagWrite
  rw [tagCheck_ok h, chunkWait_ok c]

/-- The issue checks of a writer of d come before its wait (03 R41). -/
theorem tagWrite_bad {k : Unit → Out} {d : BitVec 7} {ok : Bool} (h : ok = false) : tagWrite s d ok k = instrFault s 0x12 :=
  tagCheck_bad h

/-! ## What an operation on memory leaves of the rest -/

@[simp] theorem State.perform_threads (who : Agent) (kind : StoreKind) (c : Option (Nat × Nat)) (w : Bool) (pa : Nat) (b : Byte) :
    (s.perform who kind c w pa b).threads = s.threads := by
  unfold State.perform; split
  · rfl
  · split <;> rfl

theorem State.writeHome_threads (who : Agent) (kind : StoreKind) (w : Bool) (pas : List Nat) :
    ∀ (l : List Byte) (s : State), (s.writeHome who kind w pas l).threads = s.threads := by
  induction pas with
  | nil => intro l s; unfold State.writeHome; rfl
  | cons p r ih =>
    intro l s
    cases l with
    | nil => unfold State.writeHome; rfl
    | cons b bs =>
      unfold State.writeHome
      dsimp only
      split <;> exact (ih bs _).trans (State.perform_threads ..)

theorem State.meets_threads (s : State) (f : Flt) : (s.meets f).threads = s.threads := by
  unfold State.meets; split <;> rfl

theorem writeRecord_threads (r : Record) (path : List Nat) :
    ∀ {s : State} {w : Record × State}, writeRecord s r path = some w → w.2.threads = s.threads := by
  induction path generalizing r with
  | nil => intro s w e; cases e; rfl
  | cons id up ih =>
    intro s w e
    unfold writeRecord at e
    dsimp only at e
    split at e
    · cases e; rfl
    · split at e
      · cases e; exact State.writeHome_threads _ _ _ _ _ _
      · cases e
      · split at e
        · cases e; exact State.meets_threads _ _
        · exact (ih _ e).trans (State.meets_threads _ _)

@[simp] theorem countRecord_threads (core : Nat) (a b : Record) : (countRecord s core a b).threads = s.threads := by
  unfold countRecord; split <;> rfl

theorem postNow_threads {core queue : Nat} {e : Entry} {t : State} (p : postNow s core queue e = some t) :
    t.threads = s.threads := by
  unfold postNow at p
  obtain ⟨w, hw, p⟩ := Option.bind_eq_some_iff.1 p
  split at p
  · cases p
  · cases p
    exact (countRecord_threads _ _ _).trans (writeRecord_threads _ _ hw)

@[simp] theorem remember_threads (core queue : Nat) (r : Record) : (remember s core queue r).threads = s.threads := by
  unfold remember; split <;> rfl

/-- Posting a record leaves every thread as it is. -/
theorem State.post_threads (core queue : Nat) (e : Entry) : (s.post core queue e).threads = s.threads := by
  unfold State.post
  dsimp only
  split
  · rfl
  · split
    · cases p : postNow (remember s core queue e.record) core queue e with
      | none => exact remember_threads _ _ _
      | some t => exact (postNow_threads p).trans (remember_threads _ _ _)
    · exact remember_threads _ _ _

/-- A trap of a user thread leaves it stalled on its token, its trap counted, and every other thread as it was
(07 R127). -/
theorem trapUser_threads (key : Nat) (i : TrapInfo) :
    (trapUser s key i).threads = Map.put key
      { s.thread key with
        status := .trapped (nextToken s (coreOfKey key) (slotOfKey key) 0 0).1
        stop := none
        cnt := { (s.thread key).cnt with traps := ((s.thread key).cnt.traps + 1) % 2 ^ 64 } } s.threads := by
  unfold trapUser
  dsimp only
  rw [State.post_threads]
  rfl

theorem takeTrap_user (key : Nat) (i : TrapInfo) (h : isSupervisor key = false) :
    takeTrap s key i = (trapUser s key i).bump := by
  unfold takeTrap; rw [h]; rfl

theorem takeTrap_sup (key : Nat) (i : TrapInfo) (h : isSupervisor key = true) :
    takeTrap s key i = (trapSupervisor s key i).bump := by
  unfold takeTrap; rw [h]; rfl

/-! ## Reads and stores -/

/-- What a thread sees of a byte does not depend on what it has observed. -/
theorem State.viewByte_observe (key k : Nat) (e : Option Undo) (pa : Nat) :
    (s.observe key e).viewByte k pa = s.viewByte k pa := by
  unfold State.observe
  cases e with
  | none => rfl
  | some e =>
    dsimp only
    split
    · rfl
    · by_cases hk : k = key
      · subst hk
        simp only [State.viewByte, State.thread, State.modThread, State.setThread, State.home, Map.getD_put_self]
        rfl
      · have h : ∀ f, (s.modThread key f).thread k = s.thread k := fun f => Map.getD_put_ne hk _ _ _
        simp only [State.viewByte, h]
        rfl

/-- A plain read answers with what the thread sees of each byte (17 R291). -/
theorem State.readBytes_fst (key : Nat) (pas : List Nat) :
    ∀ s : State, (s.readBytes key pas).1 = pas.map (fun pa => (s.viewByte key pa).1) := by
  induction pas with
  | nil => exact fun _ => rfl
  | cons p r ih =>
    intro s
    simp only [State.readBytes, List.map_cons, List.cons.injEq, true_and]
    rw [ih]
    exact List.map_congr_left (fun k _ => by rw [State.viewByte_observe])

/-- A scalar load that goes on: its place, its value, and the state in which it has been observed and counted. -/
theorem loadScalar_ok {va : Word} {n x : Nat} {t : State} (h : loadScalar s va n = .ok (x, t)) :
    ∃ p, checkRead s (s.env s.cur) va n n = .ok p ∧
      x = leNat (p.pas.map (fun pa => ((s.beforeRead s.cur [p]).viewByte s.cur pa).1)) ∧
      t = ((s.beforeRead s.cur [p]).readBytes s.cur p.pas).2.tally
        (fun c => { c with bytesRead := (c.bytesRead + n) % 2 ^ 64 }) := by
  unfold loadScalar at h
  split at h
  · cases h
  · rename_i p hp
    cases h
    exact ⟨p, hp, by rw [State.readBytes_fst], rfl⟩

/-- A scalar store that goes on: its place, and the state in which its bytes are pending. -/
theorem storeScalar_ok {va : Word} {n x : Nat} {t : State} (h : storeScalar s va n x = .ok t) :
    ∃ p, checkWrite s (s.env s.cur) va n n = .ok p ∧
      t = ((s.store s.cur p.pas p.pas (leBytes n x)).afterStore s.cur).tally
        (fun c => { c with bytesWritten := (c.bytesWritten + n) % 2 ^ 64 }) := by
  unfold storeScalar at h
  split at h
  · cases h
  · rename_i p hp
    cases h
    exact ⟨p, hp, rfl⟩

/-! ## Element-wise instructions (07 R124 to R127) -/

theorem firstStop_none {chk : Nat → Option Stop} {l : List Nat} (h : ∀ e ∈ l, chk e = none) : firstStop chk l = none := by
  induction l with
  | nil => rfl
  | cons e r ih =>
    simp only [firstStop, h e List.mem_cons_self]
    exact ih (fun x hx => h x (List.mem_cons_of_mem _ hx))

theorem judge_clean {chk : Nat → Option Stop} {l : List Nat} (h : ∀ e ∈ l, chk e = none) : judge chk l = .clean := by
  simp [judge, firstStop_none h]

/-- The active elements lie below AL. -/
theorem activeElems_lt {m : Bool} {e : Nat} (h : e ∈ activeElems s m) : e < s.me.vec.al :=
  List.mem_range.1 (List.mem_filter.1 h).1

@[simp] theorem stopVerdict_none {t : Thread} (h : t.stop = none) (v : Verdict) : stopVerdict t v = v := by
  simp [stopVerdict, h]

/-- An element-wise instruction that meets no enabled exception and no forced pre-emption writes every active element
and retires. -/
theorem elementwise_clean {o : Dest} {f : Nat → Nat × Flags} (hs : s.me.stop = none)
    (h : ∀ e ∈ activeElems s o.m, trapsOn s.me.enables (f e).2 = false) :
    elementwise s o false f = .next
      (let act := activeElems s o.m
       let u := (((s.setTag o.d o.tag).writeElems o.d o.tag (act.map (fun e => (e, (f e).1)))).raise [.vreg o.d.toNat]
         (act.foldl (fun a e => orF a (f e).2) 0))
       (zeroOthers (countElems act.length u) o.d o.tag o.m o.z s.me.vec.al (fun _ => true)).retire) := by
  unfold elementwise settleVec settleBy
  dsimp only
  rw [judge_clean (fun e he => by simp [h e he]), stopVerdict_none hs]
  have all : ((activeElems s o.m).map (fun e => (e, f e))).filter (fun p => p.1 < s.me.vec.al) =
      (activeElems s o.m).map (fun e => (e, f e)) := by
    rw [List.filter_eq_self]
    intro p hp
    obtain ⟨e, he, rfl⟩ := List.mem_map.1 hp
    simpa using activeElems_lt he
  simp only [all, List.map_map, List.length_map, List.foldl_map]
  rfl

end Sys2Proof.Machine
end

