-- ==== Sys2Proof/Tests/Slice0.lean ====
section
/-! SUPPORT. Tests: ill-formed terms, words written out from the encoding tables, small steps, and for the hypotheses of
each statement a state and operands that meet them together. -/

set_option Elab.async false

namespace Sys2Proof.Tests

open Sys2Proof Sys2Proof.Machine Sys2Proof.Claims

/-! ## Ill-formed terms: one for each check of `WellFormed` -/

theorem test_ill_coord : WellFormed (.coord 1 7) = false := rfl
theorem test_ill_ld : WellFormed (.ld 1 2 7 0) = false := rfl
theorem test_ill_ldx : WellFormed (.ldx 1 2 3 7) = false := rfl
theorem test_ill_setvl : WellFormed (.setvl 1 2 0 0 18) = false := rfl
theorem test_ill_vdecl : WellFormed (.vdecl 6) = false := rfl
theorem test_ill_loop : WellFormed (.loop 1 33) = false := rfl
theorem test_ill_loopP : WellFormed (.loopP 1 0) = false := rfl
theorem test_ill_mask_destination : WellFormed (.vadd 0 1 2 true false) = false := rfl
theorem test_ill_vretag : WellFormed (.vretag 1 2 22) = false := rfl
theorem test_ill_vcvt : WellFormed (.vcvt 1 2 0 false false) = false := rfl
theorem test_ill_next2 : WellFormed (.next2 4 1 4 false) = false := rfl
theorem test_well_formed : WellFormed (.vadd 1 0 2 true false) = true := rfl

/-! ## Words written out from the encoding tables (03 R24 to R46) -/

/-- Every word of a list stands for its instruction, and the instruction's word is that word. -/
def AllRead : List (BitVec 32 × Instr) → Prop
  | [] => True
  | p :: r => Reads p.1 p.2 ∧ AllRead r

theorem test_decode_scalar_results_1 : AllRead [
    (0b0000000_0101001_1111010_1010011_0000, .add 41 122 83),
    (0b0000000_1111010_1110010_1110011_0001, .sub 122 114 115),
    (0b0000000_1010000_0110110_1001010_0010, .and 80 54 74),
    (0b0000000_1101100_1100100_0111111_0011, .or 108 100 63),
    (0b0000000_1100011_0111001_0000001_0100, .xor 99 57 1),
    (0b0000000_0001011_0100101_0001101_0101, .andn 11 37 13),
    (0b0000000_0000010_1110011_0111111_0110, .orn 2 115 63),
    (0b0000000_0101001_0110011_0101101_0111, .xnor 41 51 45),
    (0b0000000_1110111_1101000_1100000_1000, .sll 119 104 96),
    (0b0000000_1010010_1011101_0001100_1001, .srl 82 93 12),
    (0b0000000_1000101_0100101_0010011_1010, .sra 69 37 19),
    (0b0000000_1010011_1011100_0101000_1011, .ror 83 92 40),
    (0b0000000_1101101_0110000_0111100_1100, .min 109 48 60),
    (0b0000000_0001100_1110011_1000111_1101, .max 12 115 71),
    (0b0000000_1110000_0110111_1100111_1110, .minn 112 55 103),
    (0b0000000_1101111_1110001_0110011_1111, .maxn 111 113 51),
    (0b0000001_1000100_1101101_01101011100, .addi 68 109 860),
    (0b0000010_1110111_0111110_10000011010, .andi 119 62 1050),
    (0b0000011_1101000_1001010_00111001011, .ori 104 74 459),
    (0b0000100_0010001_0000111_11110110011, .xori 17 7 1971),
    (0b0000101_1000011_1010110_00000_000110, .slli 67 86 6),
    (0b0000101_1010000_0111101_01000_001001, .srli 80 61 9),
    (0b0000101_1110010_1101101_10000_111000, .srai 114 109 56),
    (0b0000101_1010001_0111011_11000_101011, .rori 81 59 43),
    (0b0000110_1011100_1111011_1111110_0000, .seq 92 123 126),
    (0b0000110_0100001_0110100_0101000_0001, .sne 33 52 40),
    (0b0000110_1100111_1000001_0111110_0010, .slt 103 65 62),
    (0b0000110_1110010_0111000_0100110_0011, .sge 114 56 38),
    (0b0000110_0100011_0000101_1010100_0100, .sltn 35 5 84),
    (0b0000110_1001101_0111011_1000011_0101, .sgen 77 59 67)] :=
  ⟨⟨rfl, rfl⟩, ⟨rfl, rfl⟩, ⟨rfl, rfl⟩, ⟨rfl, rfl⟩, ⟨rfl, rfl⟩, ⟨rfl, rfl⟩, ⟨rfl, rfl⟩, ⟨rfl, rfl⟩, ⟨rfl, rfl⟩, ⟨rfl, rfl⟩, ⟨rfl, rfl⟩, ⟨rfl, rfl⟩, ⟨rfl, rfl⟩, ⟨rfl, rfl⟩, ⟨rfl, rfl⟩, ⟨rfl, rfl⟩, ⟨rfl, rfl⟩, ⟨rfl, rfl⟩, ⟨rfl, rfl⟩, ⟨rfl, rfl⟩, ⟨rfl, rfl⟩, ⟨rfl, rfl⟩, ⟨rfl, rfl⟩, ⟨rfl, rfl⟩, ⟨rfl, rfl⟩, ⟨rfl, rfl⟩, ⟨rfl, rfl⟩, ⟨rfl, rfl⟩, ⟨rfl, rfl⟩, ⟨rfl, rfl⟩, trivial⟩

theorem test_decode_scalar_results_2 : AllRead [
    (0b0000111_0111111_1110110_000_00110011, .seqi 63 118 51),
    (0b0000111_1011001_0111100_001_10000010, .snei 89 60 130),
    (0b0000111_1101010_1101000_010_01101111, .slti 106 104 111),
    (0b0000111_1010101_0000101_011_11010100, .sgei 85 5 212),
    (0b0000111_0101001_1110110_100_11001111, .sltni 41 118 207),
    (0b0000111_0111001_1011100_101_11001000, .sgeni 57 92 200),
    (0b0001000_1000010_0111010_1111100_0000, .mul 66 58 124),
    (0b0001000_1111100_1101100_0111110_0001, .mulh 124 108 62),
    (0b0001000_0001001_0100011_1000000_0010, .mulhn 9 35 64),
    (0b0001000_0001101_1100000_0110101_0011, .div 13 96 53),
    (0b0001000_0111010_0000010_0000001_0100, .divn 58 2 1),
    (0b0001000_1001011_1111000_0001011_0101, .rem 75 120 11),
    (0b0001000_1100110_0100000_1010000_0110, .remn 102 32 80),
    (0b0001001_1100001_1111011_00000000000, .clz 97 123),
    (0b0001001_1010110_1010010_00000000001, .ctz 86 82),
    (0b0001001_0010100_0101001_00000000010, .popc 20 41),
    (0b0001001_1001011_1100011_00000000011, .brev 75 99),
    (0b0001001_1111010_0111111_00000000100, .bswap 122 63),
    (0b0001001_1011101_0010010_00000000101, .sxb 93 18),
    (0b0001001_0011101_1001100_00000000110, .sxh 29 76),
    (0b0001001_1111011_1110001_00000000111, .sxw 123 113),
    (0b0001010_1000001_010010100110101000, .lhi 65 76200),
    (0b0001011_0110110_101010110010011001, .lpc 54 175257),
    (0b0001100_1111000_001000101010011000, .lix 120 35480)] :=
  ⟨⟨rfl, rfl⟩, ⟨rfl, rfl⟩, ⟨rfl, rfl⟩, ⟨rfl, rfl⟩, ⟨rfl, rfl⟩, ⟨rfl, rfl⟩, ⟨rfl, rfl⟩, ⟨rfl, rfl⟩, ⟨rfl, rfl⟩, ⟨rfl, rfl⟩, ⟨rfl, rfl⟩, ⟨rfl, rfl⟩, ⟨rfl, rfl⟩, ⟨rfl, rfl⟩, ⟨rfl, rfl⟩, ⟨rfl, rfl⟩, ⟨rfl, rfl⟩, ⟨rfl, rfl⟩, ⟨rfl, rfl⟩, ⟨rfl, rfl⟩, ⟨rfl, rfl⟩, ⟨rfl, rfl⟩, ⟨rfl, rfl⟩, ⟨rfl, rfl⟩, trivial⟩

theorem test_decode_memory_and_branches : AllRead [
    (0b0001101_1100101_1001100_1000001_0000, .seln 101 76 65),
    (0b0001101_0110010_0010100_1101000_0001, .selz 50 20 104),
    (0b0001110_0110001_1111011_0110010_1110, .adds 49 123 50 14),
    (0b0001111_0000111_0101101_0101110_0000, .madd 7 45 46),
    (0b0001111_1100011_0000100_1000010_0001, .msub 99 4 66),
    (0b0010000_0111100111011100101111001, .j 15972729),
    (0b0010001_0101001111101000000101010, .jal 10997802),
    (0b00100100000000_0100111_00000000000, .jr 39),
    (0b0010010_0101010_0010000_00000000001, .jalr 42 16),
    (0b0010011_1111010_000_011101110111000, .beqz 122 15288),
    (0b0010011_1010000_001_110011100001000, .bnez 80 26376),
    (0b0010011_0010100_010_100101110101110, .bltz 20 19374),
    (0b0010011_0011011_011_011011110000000, .bgez 27 14208),
    (0b0010011_0101100_100_011101010111010, .bgtz 44 15034),
    (0b0010011_0011110_101_101011011011001, .blez 30 22233),
    (0b00100110000000110_101101011111110, .btrim 23294),
    (0b00100110000000111_000100011100101, .bdone 2277),
    (0b0010100000000000000000_1000110000, .winb 560),
    (0b0010100000000000000001_0110011000, .winba 408),
    (0b00101010000000000000000000000000, .hintYield),
    (0b0010101000000001_0000100010111110, .hintPause 2238),
    (0b0010101000000010_0011001000001011, .hintPrefi 12811),
    (0b00101100000000_101001011011000011, .svc 169667),
    (0b00101110000000_111010111110010010, .upcall 241554),
    (0b00110000000000000000000000000000, .eret),
    (0b00110010000000_0000110_00000000000, .exit 6),
    (0b00110010000000_1000110_10000000000, .abort 70)] :=
  ⟨⟨rfl, rfl⟩, ⟨rfl, rfl⟩, ⟨rfl, rfl⟩, ⟨rfl, rfl⟩, ⟨rfl, rfl⟩, ⟨rfl, rfl⟩, ⟨rfl, rfl⟩, ⟨rfl, rfl⟩, ⟨rfl, rfl⟩, ⟨rfl, rfl⟩, ⟨rfl, rfl⟩, ⟨rfl, rfl⟩, ⟨rfl, rfl⟩, ⟨rfl, rfl⟩, ⟨rfl, rfl⟩, ⟨rfl, rfl⟩, ⟨rfl, rfl⟩, ⟨rfl, rfl⟩, ⟨rfl, rfl⟩, ⟨rfl, rfl⟩, ⟨rfl, rfl⟩, ⟨rfl, rfl⟩, ⟨rfl, rfl⟩, ⟨rfl, rfl⟩, ⟨rfl, rfl⟩, ⟨rfl, rfl⟩, ⟨rfl, rfl⟩, trivial⟩

theorem test_decode_control : AllRead [
    (0b0011010_1101100_0000000_00001100010, .crd 108 98),
    (0b00110110000000_1110000_11000001001, .cwr 112 1545),
    (0b0011100_0011001_1011100_10101101101, .cxchg 25 92 1389),
    (0b00111010000000_111000001011100010, .ebreak 230114),
    (0b0011110_0010001_000000000000000_101, .coord 17 5),
    (0b0011111_0011100_1110001_00000000000, .probe 28 113),
    (0b0011111_1110011_0010010_1010101_0001, .probec 115 18 85),
    (0b0100000_0011000_0100011_011_10001000, .ld 24 35 3 136),
    (0b0100001_1110000_0110010_0_01_00101111, .st 112 50 1 47),
    (0b0100010_0010111_0111100_1100100_0_110, .ldx 23 60 100 6),
    (0b0100011_0100101_0010111_1000011_00_01, .stx 37 23 67 1)] :=
  ⟨⟨rfl, rfl⟩, ⟨rfl, rfl⟩, ⟨rfl, rfl⟩, ⟨rfl, rfl⟩, ⟨rfl, rfl⟩, ⟨rfl, rfl⟩, ⟨rfl, rfl⟩, ⟨rfl, rfl⟩, ⟨rfl, rfl⟩, ⟨rfl, rfl⟩, ⟨rfl, rfl⟩, trivial⟩

theorem test_decode_supervisor_1 : AllRead [
    (0b0100100_0010000_1100110_1100110_0000, .amoadd 16 102 102),
    (0b0100100_1101001_1101101_0011110_0001, .amoswap 105 109 30),
    (0b0100100_1111011_1110001_1010011_0010, .amocas 123 113 83),
    (0b0100100_0110101_1100101_1101101_0011, .amoand 53 101 109),
    (0b0100100_1010110_1111100_0101110_0100, .amoor 86 124 46),
    (0b0100100_0010101_1001000_1001010_0101, .amoxor 21 72 74),
    (0b0100100_1000101_0001111_1011100_0110, .amomin 69 15 92),
    (0b0100100_1001000_1001001_0011100_0111, .amomax 72 73 28),
    (0b0100100_0100110_0100011_1001000_1000, .amominn 38 35 72),
    (0b0100100_0001101_0100010_1111011_1001, .amomaxn 13 34 123),
    (0b0100100_0010110_1011000_1100010_1010, .amoaddW 22 88 98),
    (0b0100100_1011101_0011000_1010001_1011, .amoswapW 93 24 81),
    (0b0100100_1000001_0100100_1101100_1100, .amocasW 65 36 108),
    (0b0100100_0100110_0101001_0100010_1101, .amoandW 38 41 34),
    (0b0100100_0001001_0110101_1110011_1110, .amoorW 9 53 115),
    (0b0100100_1100100_0110110_0000010_1111, .amoxorW 100 54 2),
    (0b01001010000000_0001101_00000000000, .cacheFlush 13),
    (0b01001010000000_0000011_00000000001, .cacheInval 3),
    (0b01001010000000_0010000_00000000010, .cacheZero 16),
    (0b01001010000000_1011000_00000000011, .cachePref 88),
    (0b0100110_1001010_1111000_0101101_0000, .fadd 74 120 45),
    (0b0100110_1100100_1001110_1010100_0001, .fsub 100 78 84),
    (0b0100110_1001111_1110111_0101001_0010, .fmul 79 119 41),
    (0b0100110_0011100_0111100_1111110_0011, .fdiv 28 60 126),
    (0b0100110_1110001_1011000_00000000100, .fsqrt 113 88),
    (0b0100110_1101111_1011000_1110111_0101, .fmin 111 88 119),
    (0b0100110_0110010_1111010_0101110_0110, .fmax 50 122 46),
    (0b0100110_1011111_0111000_00000000111, .fcvtif 95 56),
    (0b0100110_0000100_1011001_00000001000, .fcvtfi 4 89),
    (0b0100110_0100110_1111011_1100111_1001, .flt 38 123 103)] :=
  ⟨⟨rfl, rfl⟩, ⟨rfl, rfl⟩, ⟨rfl, rfl⟩, ⟨rfl, rfl⟩, ⟨rfl, rfl⟩, ⟨rfl, rfl⟩, ⟨rfl, rfl⟩, ⟨rfl, rfl⟩, ⟨rfl, rfl⟩, ⟨rfl, rfl⟩, ⟨rfl, rfl⟩, ⟨rfl, rfl⟩, ⟨rfl, rfl⟩, ⟨rfl, rfl⟩, ⟨rfl, rfl⟩, ⟨rfl, rfl⟩, ⟨rfl, rfl⟩, ⟨rfl, rfl⟩, ⟨rfl, rfl⟩, ⟨rfl, rfl⟩, ⟨rfl, rfl⟩, ⟨rfl, rfl⟩, ⟨rfl, rfl⟩, ⟨rfl, rfl⟩, ⟨rfl, rfl⟩, ⟨rfl, rfl⟩, ⟨rfl, rfl⟩, ⟨rfl, rfl⟩, ⟨rfl, rfl⟩, ⟨rfl, rfl⟩, trivial⟩

theorem test_decode_supervisor_2 : AllRead [
    (0b0100110_0010000_1100011_0101001_1010, .feq 16 99 41),
    (0b0100110_1110100_1000110_0101100_1011, .fle 116 70 44),
    (0b0100111_1001000_1011101_0001111_0000, .fmac 72 93 15),
    (0b010100000000000000000000000000_00, .phase 0),
    (0b01010010000000_0010000_0000101_00_00, .arrive 16 5 0),
    (0b01010100000000_0101110_1010011_00_11, .waitb 46 83 3),
    (0b01010100000000_0100111_0110111_01_10, .waitv 39 55 2),
    (0b01010100000000_0101110_0110010_10_01, .waitc 46 50 1),
    (0b01010110000000_1100100_00000000000, .vacq 100),
    (0b0101100_1010101_1100100_0011000_0000, .racqr 85 100 24),
    (0b01011000000000_0000100_1011100_0001, .rrelr 4 92),
    (0b0101100_1000110_1001000_1110010_0010, .racqw 70 72 114),
    (0b01011000000000_1100101_0011110_0011, .rrelw 101 30),
    (0b0101101_0000011_1000110_0110110_0000, .xcopy 3 70 54),
    (0b0101110_1111011_0010010_00000000000, .xquery 123 18),
    (0b0101110_1010001_0001100_00000000001, .xcancel 81 12),
    (0b0101111_0010111_0000101_1101111_0000, .tlbinv 23 5 111),
    (0b0101111_1101010_1101001_00000000001, .tlbinvc 106 105),
    (0b0101111_0101100_1000011_1100000_0010, .pgmig 44 67 96)] :=
  ⟨⟨rfl, rfl⟩, ⟨rfl, rfl⟩, ⟨rfl, rfl⟩, ⟨rfl, rfl⟩, ⟨rfl, rfl⟩, ⟨rfl, rfl⟩, ⟨rfl, rfl⟩, ⟨rfl, rfl⟩, ⟨rfl, rfl⟩, ⟨rfl, rfl⟩, ⟨rfl, rfl⟩, ⟨rfl, rfl⟩, ⟨rfl, rfl⟩, ⟨rfl, rfl⟩, ⟨rfl, rfl⟩, ⟨rfl, rfl⟩, ⟨rfl, rfl⟩, ⟨rfl, rfl⟩, ⟨rfl, rfl⟩, trivial⟩

theorem test_decode_strips_and_scalars : AllRead [
    (0b0110000_0001000_1101100_0000_10_01111, .setvl 8 108 0 2 15),
    (0b01100010000000000000000000000_001, .vdecl 1),
    (0b01100100000000_0001000_00000_011111, .loop 8 31),
    (0b01100100000000_1010111_10000_000001, .loopP 87 1),
    (0b0110011_0010100_1100000_0000000_1110, .bump 20 96 14)] :=
  ⟨⟨rfl, rfl⟩, ⟨rfl, rfl⟩, ⟨rfl, rfl⟩, ⟨rfl, rfl⟩, ⟨rfl, rfl⟩, trivial⟩

theorem test_decode_registers_and_reductions_1 : AllRead [
    (0b0110100_0110100_1111101_0000000_0_1_00, .vmv 52 125 false true),
    (0b0110100_0011110_1101011_0000000_0_0_01, .vsplat 30 107 false false),
    (0b0110100_0011010_0101110_1010010_0010, .vext 26 46 82),
    (0b0110100_1000111_0111101_1100101_0011, .vins 71 61 101),
    (0b0110101_1001011_0011001_1010001_0_0_00, .vperm 75 25 81 false false),
    (0b0110101_1110011_1111010_1101001_1_1_01, .vslup 115 122 105 true true),
    (0b0110101_1011010_1100110_1010010_0_0_10, .vsldn 90 102 82 false false),
    (0b0110101_0110000_1011110_0000000_0_0_11, .vrev 48 94 false false),
    (0b0110110_1011111_1110100_1000101_0_0_00, .vcompress 95 116 69 false),
    (0b0110110_1101101_1001011_1001010_0_0_01, .vexpand 109 75 74 false),
    (0b0110110_0110011_1000101_0000000_1_1_10, .viota 51 69 true true),
    (0b0110110_1101000_00000000000000_1_1_11, .vid 104 true true),
    (0b0110111_1111100_0001110_0000000_0_000, .vredadd 124 14 false),
    (0b0110111_1011110_0101011_0000000_1_001, .vredmin 94 43 true),
    (0b0110111_0101000_1011111_0000000_1_010, .vredmax 40 95 true),
    (0b0110111_1100101_0010101_0000000_1_011, .vredminn 101 21 true),
    (0b0111000_0100110_0100101_0000000_0_000, .vredand 38 37 false),
    (0b0111000_1111101_0011001_0000000_1_001, .vredor 125 25 true),
    (0b0111000_1010001_1101101_0000000_1_010, .vredxor 81 109 true),
    (0b0111000_0111110_0110111_0000000_0_011, .vredmaxn 62 55 false),
    (0b0111001_1100011_1100100_0000000_1_000, .vfredsum 99 100 true),
    (0b0111001_1000101_1011101_0000000_1_001, .vfredseq 69 93 true),
    (0b0111001_0010111_1000110_0000000_0_010, .vfredmin 23 70 false),
    (0b0111001_0000100_0001111_0000000_1_011, .vfredmax 4 15 true),
    (0b0111010_1110001_1010011_0000001_0000, .mand 113 83 1),
    (0b0111010_0110000_0110000_0011100_0001, .mor 48 48 28),
    (0b0111010_0010100_1001111_0010001_0010, .mxor 20 79 17),
    (0b0111010_1111111_0111111_00000000011, .mnot 127 63),
    (0b0111011_1110000_1011110_0000000_0_000, .mpopc 112 94 false),
    (0b0111011_0100010_0100111_0000000_1_001, .mfirst 34 39 true)] :=
  ⟨⟨rfl, rfl⟩, ⟨rfl, rfl⟩, ⟨rfl, rfl⟩, ⟨rfl, rfl⟩, ⟨rfl, rfl⟩, ⟨rfl, rfl⟩, ⟨rfl, rfl⟩, ⟨rfl, rfl⟩, ⟨rfl, rfl⟩, ⟨rfl, rfl⟩, ⟨rfl, rfl⟩, ⟨rfl, rfl⟩, ⟨rfl, rfl⟩, ⟨rfl, rfl⟩, ⟨rfl, rfl⟩, ⟨rfl, rfl⟩, ⟨rfl, rfl⟩, ⟨rfl, rfl⟩, ⟨rfl, rfl⟩, ⟨rfl, rfl⟩, ⟨rfl, rfl⟩, ⟨rfl, rfl⟩, ⟨rfl, rfl⟩, ⟨rfl, rfl⟩, ⟨rfl, rfl⟩, ⟨rfl, rfl⟩, ⟨rfl, rfl⟩, ⟨rfl, rfl⟩, ⟨rfl, rfl⟩, ⟨rfl, rfl⟩, trivial⟩

theorem test_decode_registers_and_reductions_2 : AllRead [
    (0b0111011_0101101_1110101_0000000_0_010, .mlast 45 117 false),
    (0b0111100_1001000_0100000_00_01010_0000, .vretag 72 32 10),
    (0b0111100_1011000_0111011_00000000001, .vtagq 88 59),
    (0b0111100_1001011_0001011_00000000010, .vshape 75 11),
    (0b0111101_1100100_0001100_0000000_1_0_00, .vsegsum 100 12 true false),
    (0b0111101_0101000_1100001_0000000_1_0_01, .vsegmin 40 97 true false),
    (0b0111101_0101010_1000001_0000000_1_0_10, .vsegmax 42 65 true false),
    (0b0111101_1110101_1011101_0000000_1_1_11, .vsegfsum 117 93 true true),
    (0b0111110_0110100_000000000000000000, .vmaxvl 52),
    (0b0111110_0010111_000000000000000001, .vlanes 23),
    (0b0111111_1101000_0011101_1011001_1_0_00, .vaddr 104 29 89 true false)] :=
  ⟨⟨rfl, rfl⟩, ⟨rfl, rfl⟩, ⟨rfl, rfl⟩, ⟨rfl, rfl⟩, ⟨rfl, rfl⟩, ⟨rfl, rfl⟩, ⟨rfl, rfl⟩, ⟨rfl, rfl⟩, ⟨rfl, rfl⟩, ⟨rfl, rfl⟩, ⟨rfl, rfl⟩, trivial⟩

theorem test_decode_vector_integer_1 : AllRead [
    (0b1000000_1100101_0110101_1100111_1_0_00, .vadd 101 53 103 true false),
    (0b1000000_0010100_1100000_1010101_1_0_01, .vaddX 20 96 85 true false),
    (0b1000000_0100011_1101011_0101001_0_1_10, .vsub 35 107 41 false true),
    (0b1000000_0111001_0010011_1010001_0_0_11, .vsubX 57 19 81 false false),
    (0b1000001_1111101_1001000_0010000_0_0_00, .vand 125 72 16 false false),
    (0b1000001_0111011_0110100_0000011_1_1_01, .vor 59 52 3 true true),
    (0b1000001_1010111_0101100_1010111_1_1_10, .vxor 87 44 87 true true),
    (0b1000001_1110101_1101101_1111010_1_1_11, .vandn 117 109 122 true true),
    (0b1000010_1000110_0011011_0101110_1_0_00, .vsll 70 27 46 true false),
    (0b1000010_1110111_1011101_0000010_0_1_01, .vsrl 119 93 2 false true),
    (0b1000010_0100001_0101011_1010011_1_0_10, .vsra 33 43 83 true false),
    (0b1000010_1100100_0111101_1110010_0_0_11, .vror 100 61 114 false false),
    (0b1000011_0000101_0011101_0010000_1_1_00, .vsllX 5 29 16 true true),
    (0b1000011_0100011_0000011_0011011_1_0_01, .vsrlX 35 3 27 true false),
    (0b1000011_0100100_1010001_0001011_1_1_10, .vsraX 36 81 11 true true),
    (0b1000011_1000101_0000010_0001101_0_0_11, .vrorX 69 2 13 false false),
    (0b1000100_0011101_0111100_1001110_1_0_00, .vmul 29 60 78 true false),
    (0b1000100_0101000_1001001_1011100_1_1_01, .vmulh 40 73 92 true true),
    (0b1000100_1001000_0001110_0100011_1_0_10, .vmulhn 72 14 35 true false),
    (0b1000100_0011000_1011110_1111111_0_1_11, .vmacc 24 94 127 false true),
    (0b1000101_1110101_1010101_0101100_0_0_00, .vmin 117 85 44 false false),
    (0b1000101_1001110_0100001_1110010_0_1_01, .vmax 78 33 114 false true),
    (0b1000101_0000101_0111111_0000011_0_1_10, .vminn 5 63 3 false true),
    (0b1000101_0100001_1100001_0011010_0_0_11, .vmaxn 33 97 26 false false),
    (0b1000110_1101100_0110100_0011100_1_0_00, .vaddsat 108 52 28 true false),
    (0b1000110_0110101_0001001_1011101_1_1_01, .vsubsat 53 9 93 true true),
    (0b1000110_1011000_1100011_0100111_1_0_10, .vaddsatn 88 99 39 true false),
    (0b1000110_0001100_1000010_1000011_1_0_11, .vsubsatn 12 66 67 true false),
    (0b1000111_0101001_0101100_0011000_0_1_00, .vseq 41 44 24 false true),
    (0b1000111_1101111_0010111_0100001_1_1_01, .vsne 111 23 33 true true)] :=
  ⟨⟨rfl, rfl⟩, ⟨rfl, rfl⟩, ⟨rfl, rfl⟩, ⟨rfl, rfl⟩, ⟨rfl, rfl⟩, ⟨rfl, rfl⟩, ⟨rfl, rfl⟩, ⟨rfl, rfl⟩, ⟨rfl, rfl⟩, ⟨rfl, rfl⟩, ⟨rfl, rfl⟩, ⟨rfl, rfl⟩, ⟨rfl, rfl⟩, ⟨rfl, rfl⟩, ⟨rfl, rfl⟩, ⟨rfl, rfl⟩, ⟨rfl, rfl⟩, ⟨rfl, rfl⟩, ⟨rfl, rfl⟩, ⟨rfl, rfl⟩, ⟨rfl, rfl⟩, ⟨rfl, rfl⟩, ⟨rfl, rfl⟩, ⟨rfl, rfl⟩, ⟨rfl, rfl⟩, ⟨rfl, rfl⟩, ⟨rfl, rfl⟩, ⟨rfl, rfl⟩, ⟨rfl, rfl⟩, ⟨rfl, rfl⟩, trivial⟩

theorem test_decode_vector_integer_2 : AllRead [
    (0b1000111_1110000_1000011_0110010_1_0_10, .vslt 112 67 50 true false),
    (0b1000111_1001110_0011100_0111100_0_0_11, .vsltn 78 28 60 false false),
    (0b1001000_1000010_1000100_1000010_0_1_00, .vseqX 66 68 66 false true),
    (0b1001000_0100011_1110000_0111111_0_1_01, .vsneX 35 112 63 false true),
    (0b1001000_1101100_0101010_1010100_0_1_10, .vsltX 108 42 84 false true),
    (0b1001000_1011101_0011001_1001110_1_1_11, .vsltnX 93 25 78 true true),
    (0b1001001_0010100_0010011_1100111_1_1_00, .vdiv 20 19 103 true true),
    (0b1001001_1001010_1100111_1101111_0_0_01, .vdivn 74 103 111 false false),
    (0b1001001_0100111_1101001_0010010_0_1_10, .vrem 39 105 18 false true),
    (0b1001001_1011001_0010001_0010110_0_1_11, .vremn 89 17 22 false true),
    (0b1001010_1100001_1011000_0000000_0_0_00, .vabs 97 88 false false),
    (0b1001010_1010000_1110101_0000000_1_1_01, .vneg 80 117 true true),
    (0b1001010_0100111_1000010_0000000_0_1_10, .vclz 39 66 false true),
    (0b1001010_0001100_1011000_0000000_1_0_11, .vpopc 12 88 true false),
    (0b1001011_1110100_0010011_0000000_1_1_00, .vwiden 116 19 true true),
    (0b1001011_0111101_0001000_0000000_0_0_01, .vwidenn 61 8 false false),
    (0b1001011_1101101_1011010_0000000_1_1_10, .vnarrow 109 90 true true),
    (0b1001011_0101011_0000100_0000000_0_1_11, .vnarrowsat 43 4 false true)] :=
  ⟨⟨rfl, rfl⟩, ⟨rfl, rfl⟩, ⟨rfl, rfl⟩, ⟨rfl, rfl⟩, ⟨rfl, rfl⟩, ⟨rfl, rfl⟩, ⟨rfl, rfl⟩, ⟨rfl, rfl⟩, ⟨rfl, rfl⟩, ⟨rfl, rfl⟩, ⟨rfl, rfl⟩, ⟨rfl, rfl⟩, ⟨rfl, rfl⟩, ⟨rfl, rfl⟩, ⟨rfl, rfl⟩, ⟨rfl, rfl⟩, ⟨rfl, rfl⟩, ⟨rfl, rfl⟩, trivial⟩

theorem test_decode_vector_float_1 : AllRead [
    (0b1001100_1110000_0001100_1010101_0_0_00, .vmerge 112 12 85 false),
    (0b1001100_1101011_0010110_0011101_0_1_01, .vmergeX 107 22 29 true),
    (0b1001101_1000000_0110000_1000101_1_1_00, .vdot4 64 48 69 true true),
    (0b1001101_1011101_0111011_0101111_1_0_01, .vdot4n 93 59 47 true false),
    (0b1001101_0101000_1011111_1111000_1_1_10, .vdot2 40 95 120 true true),
    (0b1001110_0111110_1110001_0011100_1_0_00, .vmaccX 62 113 28 true false),
    (0b1001111_1100001_0101110_1010111_1_1_00, .vclamp 97 46 87 true true),
    (0b1010000_0001111_0011011_0111000_0_1_00, .vfadd 15 27 56 false true),
    (0b1010000_1111100_0110111_1000111_1_0_01, .vfaddX 124 55 71 true false),
    (0b1010000_1110011_1010010_0100011_0_1_10, .vfsub 115 82 35 false true),
    (0b1010000_0110011_0111110_0111011_1_0_11, .vfsubX 51 62 59 true false),
    (0b1010001_0101110_1111111_0001110_1_0_00, .vfmul 46 127 14 true false),
    (0b1010001_0011101_0101110_0110001_1_1_01, .vfmulX 29 46 49 true true),
    (0b1010001_0000111_1011010_1001000_0_1_10, .vfdiv 7 90 72 false true),
    (0b1010001_1111100_0001011_0111100_0_1_11, .vfdivX 124 11 60 false true),
    (0b1010010_1100110_1101010_1111010_0_1_00, .vfma 102 106 122 false true),
    (0b1010010_0100110_0001011_0000110_0_1_01, .vfms 38 11 6 false true),
    (0b1010010_0111010_0001110_1100111_1_1_10, .vfnma 58 14 103 true true),
    (0b1010010_1111011_1001111_1000110_0_0_11, .vfnms 123 79 70 false false),
    (0b1010011_0101001_0000100_0110011_0_0_00, .vfmaX 41 4 51 false false),
    (0b1010011_1101111_0000011_0000110_1_1_01, .vfmsX 111 3 6 true true),
    (0b1010011_1100001_1000011_1011110_1_1_10, .vfnmaX 97 67 94 true true),
    (0b1010011_0101011_0010100_1111011_0_0_11, .vfnmsX 43 20 123 false false),
    (0b1010100_1011100_0111100_0100000_0_0_00, .vfmin 92 60 32 false false),
    (0b1010100_1101111_0101001_0000110_0_0_01, .vfmax 111 41 6 false false),
    (0b1010100_0011000_0011001_0000000_1_0_10, .vfabs 24 25 true false),
    (0b1010100_0111101_0110001_0000000_0_1_11, .vfneg 61 49 false true),
    (0b1010101_1000000_0011100_1011110_0_1_00, .vfeq 64 28 94 false true),
    (0b1010101_1100101_0100110_1101111_1_0_01, .vflt 101 38 111 true false),
    (0b1010101_1100011_1101111_1001011_0_0_10, .vfle 99 111 75 false false)] :=
  ⟨⟨rfl, rfl⟩, ⟨rfl, rfl⟩, ⟨rfl, rfl⟩, ⟨rfl, rfl⟩, ⟨rfl, rfl⟩, ⟨rfl, rfl⟩, ⟨rfl, rfl⟩, ⟨rfl, rfl⟩, ⟨rfl, rfl⟩, ⟨rfl, rfl⟩, ⟨rfl, rfl⟩, ⟨rfl, rfl⟩, ⟨rfl, rfl⟩, ⟨rfl, rfl⟩, ⟨rfl, rfl⟩, ⟨rfl, rfl⟩, ⟨rfl, rfl⟩, ⟨rfl, rfl⟩, ⟨rfl, rfl⟩, ⟨rfl, rfl⟩, ⟨rfl, rfl⟩, ⟨rfl, rfl⟩, ⟨rfl, rfl⟩, ⟨rfl, rfl⟩, ⟨rfl, rfl⟩, ⟨rfl, rfl⟩, ⟨rfl, rfl⟩, ⟨rfl, rfl⟩, ⟨rfl, rfl⟩, ⟨rfl, rfl⟩, trivial⟩

theorem test_decode_vector_float_2 : AllRead [
    (0b1010101_1110000_0010110_1000100_0_1_11, .vfun 112 22 68 false true),
    (0b1010110_1101000_1001100_1000111_0_0_00, .vfeqX 104 76 71 false false),
    (0b1010110_1101000_1100111_1101000_1_0_01, .vfltX 104 103 104 true false),
    (0b1010110_1111101_0100000_0000111_0_1_10, .vfleX 125 32 7 false true),
    (0b1010110_0010110_0100011_0110000_0_0_11, .vfunX 22 35 48 false false),
    (0b1010111_1111000_0000101_0000000_0_1_00, .vfsqrt 120 5 false true),
    (0b1010111_1010001_1011100_0000000_1_0_01, .vfrsqrt 81 92 true false),
    (0b1010111_0111010_1010110_0000000_0_0_10, .vfrcp 58 86 false false),
    (0b1010111_1110001_1111100_0000000_1_0_11, .vfexp2 113 124 true false),
    (0b1011000_1111010_1010001_0000000_1_0_00, .vflog2 122 81 true false),
    (0b1011000_1111000_1101110_0000000_1_0_01, .vftanh 120 110 true false),
    (0b1011000_1010100_0111110_0000000_0_0_10, .vfsigm 84 62 false false),
    (0b1011000_0010110_0001001_0000000_0_0_11, .vfgelu 22 9 false false),
    (0b1011001_0100101_1010011_00_00010_0_1_00, .vcvt 37 83 2 false true),
    (0b1011001_0001010_1011010_00_00111_1_0_01, .vcvtfi 10 90 7 true false),
    (0b1011001_1010010_1001011_00_00001_0_0_10, .vcvtif 82 75 1 false false),
    (0b1011001_0000111_0101110_00_01000_1_0_11, .vcvtint 7 46 8 true false),
    (0b1011010_0001100_0000101_0110101_0_1_00, .vpack 12 5 53 false true),
    (0b1011010_0111001_1010000_0010110_0_0_01, .vunpack 57 80 22 false false),
    (0b1011010_0011010_1100001_0110100_0_1_10, .vcbdec 26 97 52 false true),
    (0b1011010_1010100_0111100_0000011_0_0_11, .vcbenc 84 60 3 false false),
    (0b1011011_1100001_1111110_1001001_1_1_00, .vfscale 97 126 73 true true),
    (0b1011011_0100000_1101001_0000000_0_1_01, .vfexpo 32 105 false true),
    (0b1011011_0010100_1100111_0000000_0_0_10, .vfmant 20 103 false false),
    (0b1011011_1000111_0010010_0000000_0_1_11, .vfclass 71 18 false true),
    (0b1011100_0001100_1011010_1010001_0_1_00, .vfdot2 12 90 81 false true),
    (0b1011100_0101100_1111001_0001011_1_1_01, .vfdot4 44 121 11 true true),
    (0b1011101_0000011_0100001_0001111_0_1_00, .vfclampX 3 33 15 false true),
    (0b1011101_1111001_1001101_0000000_1_1_01, .vfrelu 121 77 true true),
    (0b1011110_1001001_0101000_1000101_0_1_00, .vfwadd 73 40 69 false true)] :=
  ⟨⟨rfl, rfl⟩, ⟨rfl, rfl⟩, ⟨rfl, rfl⟩, ⟨rfl, rfl⟩, ⟨rfl, rfl⟩, ⟨rfl, rfl⟩, ⟨rfl, rfl⟩, ⟨rfl, rfl⟩, ⟨rfl, rfl⟩, ⟨rfl, rfl⟩, ⟨rfl, rfl⟩, ⟨rfl, rfl⟩, ⟨rfl, rfl⟩, ⟨rfl, rfl⟩, ⟨rfl, rfl⟩, ⟨rfl, rfl⟩, ⟨rfl, rfl⟩, ⟨rfl, rfl⟩, ⟨rfl, rfl⟩, ⟨rfl, rfl⟩, ⟨rfl, rfl⟩, ⟨rfl, rfl⟩, ⟨rfl, rfl⟩, ⟨rfl, rfl⟩, ⟨rfl, rfl⟩, ⟨rfl, rfl⟩, ⟨rfl, rfl⟩, ⟨rfl, rfl⟩, ⟨rfl, rfl⟩, ⟨rfl, rfl⟩, trivial⟩

theorem test_decode_vector_float_3 : AllRead [
    (0b1011110_0101100_1011111_1011100_0_1_01, .vfwmul 44 95 92 false true),
    (0b1011110_0100000_0111101_1111001_0_1_10, .vfwma 32 61 121 false true),
    (0b1011111_1000001_1010101_0001111_0_0_00, .vfsgnj 65 85 15 false false),
    (0b1011111_1001111_0101000_0110101_1_0_01, .vfsgnjn 79 40 53 true false),
    (0b1011111_0111001_0100110_0010100_0_1_10, .vfsgnjx 57 38 20 false true)] :=
  ⟨⟨rfl, rfl⟩, ⟨rfl, rfl⟩, ⟨rfl, rfl⟩, ⟨rfl, rfl⟩, ⟨rfl, rfl⟩, trivial⟩

theorem test_decode_vector_memory : AllRead [
    (0b1100000_0000001_1001100_0001101_0_1_00, .vld 1 76 13 false true),
    (0b1100000_0111001_0001001_0110010_1_0_01, .vldNt 57 9 50 true false),
    (0b1100000_1100011_1011110_1101011_0_0_10, .vldBc 99 94 107 false false),
    (0b1100001_1011111_0110101_0100110_1_000, .vst 95 53 38 true),
    (0b1100001_1101001_0001110_1000111_0_001, .vstNt 105 14 71 false),
    (0b1100010_0011100_1011010_1011100_1_1_00, .vlds 28 90 92 true true),
    (0b1100011_0110100_1110000_1010110_0_000, .vsts 52 112 86 false),
    (0b1100100_1100111_0011110_0010001_1_0_00, .vgather 103 30 17 true false),
    (0b1100100_1000101_0011011_1000111_0_1_01, .vgatherNt 69 27 71 false true),
    (0b1100101_1000101_0110001_0100010_0_000, .vscatter 69 49 34 false),
    (0b1100101_1110111_0100000_1000010_0_001, .vscatterO 119 32 66 false),
    (0b1100110_1011111_1101010_0100111_0_1_00, .vamoadd 95 106 39 false true),
    (0b1100110_1010110_0010001_1111111_0_1_01, .vamomin 86 17 127 false true),
    (0b1100110_1011000_1001111_1011111_0_1_10, .vamomax 88 79 95 false true),
    (0b1100110_1000010_1001000_1101100_0_0_11, .vamoswap 66 72 108 false false),
    (0b1100111_1011001_1110001_1110001_1_1_00, .vamoand 89 113 113 true true),
    (0b1100111_1000010_1100111_1101011_1_1_01, .vamoor 66 103 107 true true),
    (0b1100111_0101101_1111111_1100001_0_1_10, .vamoxor 45 127 97 false true),
    (0b1100111_0000010_1000100_0110010_1_1_11, .vamofadd 2 68 50 true true),
    (0b1101000_0101111_1111001_0000000_1_0_00, .tld 47 121 true false),
    (0b1101001_1001011_0101110_0000000_1_000, .tst 75 46 true)] :=
  ⟨⟨rfl, rfl⟩, ⟨rfl, rfl⟩, ⟨rfl, rfl⟩, ⟨rfl, rfl⟩, ⟨rfl, rfl⟩, ⟨rfl, rfl⟩, ⟨rfl, rfl⟩, ⟨rfl, rfl⟩, ⟨rfl, rfl⟩, ⟨rfl, rfl⟩, ⟨rfl, rfl⟩, ⟨rfl, rfl⟩, ⟨rfl, rfl⟩, ⟨rfl, rfl⟩, ⟨rfl, rfl⟩, ⟨rfl, rfl⟩, ⟨rfl, rfl⟩, ⟨rfl, rfl⟩, ⟨rfl, rfl⟩, ⟨rfl, rfl⟩, ⟨rfl, rfl⟩, trivial⟩

theorem test_decode_records : AllRead [
    (0b1101010_1101111_0000100_0011111_0_0_00, .vldsp 111 4 31 false false),
    (0b1101010_1010000_0111101_1101001_0_001, .vstsp 80 61 105 false),
    (0b11010110000000_1000010_0110000_0_000, .vpref 66 48 false),
    (0b1101011_0001011_0001101_0011100_0_0_01, .vprobe 11 13 28 false false),
    (0b1101100_1001101_1010010_1110001_0_1_00, .mld 77 82 113 true),
    (0b1101100_0110110_0101010_1110011_0_0_01, .mldt 54 42 115 false),
    (0b11011010000000_1110010_1100010_0_000, .vflush 114 98 false),
    (0b11011010000000_0010100_1010001_0_001, .vinval 20 81 false),
    (0b1101110000_0001_0001110_00000000000, .qld 1 14),
    (0b1101110000_1101_0011001_00000000001, .qmk 13 25),
    (0b1101110000_1101_000000000000000010, .qdrop 13),
    (0b1101110000_1100_1101111_0101100_0011, .qwin 12 111 44),
    (0b1101111_0011000_0001100_0011111_0000, .dvlds2 24 12 31),
    (0b1101111_0111001_1111010_00000000001, .dvred 57 122),
    (0b11011110000_110_0001101_1000111_0010, .dmmac 6 13 71),
    (0b11011110000000_1111110_1100001_0011, .dcopy 126 97)] :=
  ⟨⟨rfl, rfl⟩, ⟨rfl, rfl⟩, ⟨rfl, rfl⟩, ⟨rfl, rfl⟩, ⟨rfl, rfl⟩, ⟨rfl, rfl⟩, ⟨rfl, rfl⟩, ⟨rfl, rfl⟩, ⟨rfl, rfl⟩, ⟨rfl, rfl⟩, ⟨rfl, rfl⟩, ⟨rfl, rfl⟩, ⟨rfl, rfl⟩, ⟨rfl, rfl⟩, ⟨rfl, rfl⟩, ⟨rfl, rfl⟩, trivial⟩

theorem test_decode_matrix_and_iterators_1 : AllRead [
    (0b11100000000_111_0001100_1011000_0_000, .mop 7 12 88 false),
    (0b11100000000_011_1111111_0111001_0_001, .mops 3 127 57 false),
    (0b11100000000_000_0111101_1100000_0_010, .mopn 0 61 96 false),
    (0b11100010000_111_0110101_000_0010_0_000, .mrw 7 53 2 false),
    (0b11100010000_101_0100001_1000110_1_001, .mrx 5 33 70 true),
    (0b11100100000_001_000000000000000000, .mzero 1),
    (0b1110010_0001110_0000_010_0010110_0_0_01, .mrd 14 2 22 false),
    (0b11100100000_110_1001110_1100110_0010, .mwr 6 78 102),
    (0b11100100000_010_1100100_00000000011, .mscale 2 100),
    (0b1110011000_1100_1100101_1011001_0000, .mplane 12 101 89),
    (0b1110011_0101111_000_1110_0001010_0001, .munplane 47 14 10),
    (0b11101000000_011_1010010_00000000000, .itopen 3 82),
    (0b111010000000000000_000_00000000001, .itclose 0),
    (0b1110101_1100011_0000_100_00000000_0_00, .next 99 4 false),
    (0b1110101_0110111_0000_110_1101111_0_1_01, .next2 55 6 111 true),
    (0b111011000000000000_010_00000000000, .enough 2),
    (0b111011000000000000_001_00000000001, .itsave 1),
    (0b1110111_1101010_1000100_00000000000, .ctxmk 106 68),
    (0b11101110000000_1000100_00000000001, .ctxdestroy 68),
    (0b1111000_0100001_1001000_0100001_0000, .ctxgrant 33 72 33),
    (0b1111000_0111011_0110101_1101110_0001, .ctxrevoke 59 53 110),
    (0b11110010000000_0100010_00000000000, .ctxrun 34),
    (0b11110010000000_1011011_00000000001, .ctxstop 91),
    (0b1111001_1100011_1001100_0010101_0010, .ctxq 99 76 21),
    (0b1111010_1101001_0101000_00000000000, .launch 105 40),
    (0b1111010_0100010_0001111_00000000001, .lquery 34 15),
    (0b11110110000000_1001110_00000000000, .frel 78),
    (0b11110110000000_0000001_0011010_0001, .fdele 1 26),
    (0b11111000000000_1001101_00000000000, .islon 77),
    (0b11111000000000_1011010_00000000001, .isloff 90)] :=
  ⟨⟨rfl, rfl⟩, ⟨rfl, rfl⟩, ⟨rfl, rfl⟩, ⟨rfl, rfl⟩, ⟨rfl, rfl⟩, ⟨rfl, rfl⟩, ⟨rfl, rfl⟩, ⟨rfl, rfl⟩, ⟨rfl, rfl⟩, ⟨rfl, rfl⟩, ⟨rfl, rfl⟩, ⟨rfl, rfl⟩, ⟨rfl, rfl⟩, ⟨rfl, rfl⟩, ⟨rfl, rfl⟩, ⟨rfl, rfl⟩, ⟨rfl, rfl⟩, ⟨rfl, rfl⟩, ⟨rfl, rfl⟩, ⟨rfl, rfl⟩, ⟨rfl, rfl⟩, ⟨rfl, rfl⟩, ⟨rfl, rfl⟩, ⟨rfl, rfl⟩, ⟨rfl, rfl⟩, ⟨rfl, rfl⟩, ⟨rfl, rfl⟩, ⟨rfl, rfl⟩, ⟨rfl, rfl⟩, ⟨rfl, rfl⟩, trivial⟩

theorem test_decode_matrix_and_iterators_2 : AllRead [
    (0b11111000000000_1011110_1111011_0010, .islfreq 94 123),
    (0b1111101_0010000_0101100_00000000000, .featq 16 44),
    (0b11111010000000_1010011_1001111_0001, .featset 83 79),
    (0b1111110_1001110_1010111_00000000000, .cntrd 78 87),
    (0b11111100000000_1111101_1110000_0001, .cntset 125 112),
    (0b11111110000000000000000000000000, .freeze)] :=
  ⟨⟨rfl, rfl⟩, ⟨rfl, rfl⟩, ⟨rfl, rfl⟩, ⟨rfl, rfl⟩, ⟨rfl, rfl⟩, ⟨rfl, rfl⟩, trivial⟩

theorem test_reject_variant : decode 0b0000110_0000001_0000010_0000011_0110 = .error .variant := rfl

/-- The table's numbering of a word's bits is the decoder's. -/
theorem test_table_word : decodeTableWord 32 0x020C0005 = some (.addi 3 0 5) := rfl

/-! ## Small states -/

/-- What a Boolean test finds of an answer. -/
def okWith {ε α : Type} (p : α → Bool) : Except ε α → Bool
  | .ok a => p a
  | .error _ => false

theorem ok_of {ε α : Type} {x : Except ε α} {p : α → Bool} (h : okWith p x = true) : ∃ a, x = .ok a ∧ p a = true := by
  cases x with
  | ok a => exact ⟨a, rfl, h⟩
  | error e => cases h

theorem ok_eq {ε α : Type} [DecidableEq α] {x : Except ε α} {a : α} (h : okWith (fun y => y == a) x = true) : x = .ok a := by
  obtain ⟨b, e, k⟩ := ok_of h
  rw [e, beq_iff_eq.1 k]

theorem some_of {α : Type} {x : Option α} (h : x.isSome = true) : ∃ a, x = some a := Option.isSome_iff_exists.1 h

/-- A package whose functions are ready and whose features are all accepted. -/
def base : State := { State.reset with mgmt := { Mgmt.reset with ready := 2 ^ 42 - 1, accepted := 15 } }

/-- A task with every tile and no scratchpad. -/
def task : Task :=
  { ctx := 0, handle := 0x30000, crewId := 1, crew := 0, k := 0, tasks := 1, tiles := 8, spad := 0, spBase := 0, rank := 0,
    image := (0, 0), features := 15, removed := false, hangFrom := 0 }

/-- A strip of four I32 elements in granules of two, 32 registers declared. -/
def strip : Vec :=
  { Vec.reset with decl := 3, gran := 1, fmt := 5, vl := 4, al := 4, maxvl := 16, grant := 1, lanes := 64 }

/-- A user thread: g1 an address, g2 = 5, g3 = −1, g4 = 64. -/
def worker : Thread :=
  { Thread.reset with
    pc := 0x20000, status := .ready, task := some task, vec := strip
    regs := [(1, 0x30000), (2, 5), (3, 0xFFFFFFFFFFFFFFFF), (4, 64)] }

/-- It executes on core 0, slot 0. -/
def user : State := { base with cur := 0, threads := [(0, worker)] }

/-- The root's supervisor thread of core 0 executes. -/
def root : State :=
  { base with cur := 4, threads := [(4, { Thread.reset with
      pc := 0x20000, status := .ready, regs := [(1, 0x30000), (2, 5), (3, 0xFFFFFFFFFFFFFFFF), (4, 64)] })] }

/-- Scalar registers changed. -/
def withRegs (s : State) (r : Map Word) : State := s.setMe { s.me with regs := r }

/-- Vector registers put in a user thread: number, tag and bytes. -/
def withV (s : State) (l : List (Nat × Nat × List Host.Cell)) : State :=
  s.setMe { s.me with vregs := l.map (fun x => (x.1, { tag := x.2.1, bytes := x.2.2 })) }

/-- A strip changed. -/
def withVec (s : State) (f : Vec → Vec) : State := s.setMe { s.me with vec := f s.me.vec }

/-- A supervisor thread that serves context 1, of depth 1. -/
def child : Context :=
  { Context.root with id := 1, count := 16, depth := 1, parent := 0, state := 1, run := false, budget := Budget.empty }

def two_contexts : State := { root with ctxs := [(0, { Context.root with isol := true }), (1, child)] }

/-- The same with host memory mapped at 0xFFE0000000 and the first peer's at 0x30000000000. -/
def mapped (s : State) : State :=
  { s with mem := [(0x13FF8, 0x1D), (0x13FF9, 1), (0x13FFF, 0x10), (0x1C000, 0x9D), (0x1C001, 1), (0x1C007, 0x18)] }

theorem sound_of {s : State} {pas : List Nat}
    (h : (decide pas.Nodup && pas.all (fun pa => s.failedAt pa == false)) = true) : SoundPlace s pas := by
  rw [Bool.and_eq_true, decide_eq_true_iff, List.all_eq_true] at h
  exact ⟨h.1, fun pa m => eq_of_beq (h.2 pa m)⟩

/-! ## Witnesses: scalar instructions, control registers, privilege -/

theorem witness_scalar_rr : ∃ d v, scalarRR user (.add 5 1 2) = some (d, v) := ⟨_, _, rfl⟩
theorem witness_scalar_zero : ∃ v, scalarRR user (.sub 0 1 2) = some (0, v) := ⟨_, rfl⟩
theorem witness_scalar_imm : ∃ d v, scalarImm user (.addi 5 1 0x7FF) = some (d, v) := ⟨_, _, rfl⟩
theorem witness_scalar_bits : ∃ d v, scalarBits user (.clz 5 0) = some (d, v) := ⟨_, _, rfl⟩
theorem witness_register : (0 : BitVec 7) = 0 ∨ 5 ≠ worker.regIndex 0 := .inl rfl
theorem witness_register_other : (3 : BitVec 7) = 0 ∨ 5 ≠ worker.regIndex 3 := by decide

theorem witness_branch_taken : branchOf user (.beqz 0 5) = some (true, 5) := by decide
theorem witness_branch_not_taken : branchOf user (.beqz 1 5) = some (false, 5) := by decide
theorem witness_user_branch : User user ∧ userBranchOf user (.btrim 3) = some (false, 3) := by
  unfold User; decide
theorem witness_jump : (user.rd 1).toNat % 4 = 0 := by decide
theorem witness_jump_misaligned : (user.rd 2).toNat % 4 ≠ 0 := by decide

theorem witness_window : windowOf user (.winba 24) = some 384 ∧ legalWb 384 := by unfold legalWb; decide
theorem witness_window_low : windowOf user (.winb 0) = some 0 ∧ legalWb 0 := by unfold legalWb; decide
theorem witness_window_bad : windowOf user (.winb 0x3FF) = some (-16) ∧ ¬ legalWb (-16) := by unfold legalWb; decide
theorem witness_hint : idleHint (.hintPrefi 3) = true ∧ User user ∧ Sup root := by unfold User Sup; decide
theorem witness_coordinates : (∃ v, placeCoord user (6 : BitVec 3).toNat = some v) ∧
    User user ∧ user.me.task = some task ∧ taskCoord task (3 : BitVec 3).toNat = some 0 ∧
    Sup root ∧ (3 : BitVec 3).toNat < 4 := by unfold User Sup; exact ⟨⟨_, rfl⟩, by decide⟩

theorem witness_creg_any : cregReads user 0x005 0 := .inl rfl
theorem witness_creg_user : ∃ v, cregReads user 0x000 v := ⟨_, .inr (.inl ⟨rfl, rfl⟩)⟩
theorem witness_creg_sup : ∃ v, cregReads root 0x024 v := ⟨_, .inr (.inr (.inl ⟨rfl, rfl⟩))⟩
theorem witness_creg_root : ∃ v, cregReads root 0x052 v := ⟨_, .inr (.inr (.inr ⟨⟨rfl, rfl⟩, rfl⟩))⟩
theorem witness_fqtail : Sup root := rfl
theorem witness_cwr_any : ∃ u, cregWrites user 0x007 384 u := ⟨_, .inl rfl⟩
theorem witness_cwr_user : ∃ u, cregWrites user 0x062 1048576 u := ⟨_, .inr (.inl ⟨rfl, rfl⟩)⟩
theorem witness_cwr_sup : ∃ u, cregWrites root 0x025 0x4000000000000000 u := ⟨_, .inr (.inr (.inl ⟨rfl, rfl⟩))⟩
theorem witness_cwr_root : ∃ u, cregWrites root 0x020 0x40006 u := ⟨_, .inr (.inr (.inr ⟨⟨rfl, rfl⟩, rfl⟩))⟩
theorem witness_cwr_head : ∃ u, cregWrites root 0x021 0 u := ⟨_, .inr (.inr (.inl ⟨rfl, rfl⟩))⟩
theorem witness_cwr_flags : ∃ u, cregWrites user 0x006 31 u := ⟨_, .inl rfl⟩
theorem witness_cwr_class : ∃ u, cregWrites root 0x044 0x7FF003F u := ⟨_, .inr (.inr (.inr ⟨⟨rfl, rfl⟩, rfl⟩))⟩
theorem witness_cwr_limits : field 4 0 3 ≤ 4 ∧ (384 : Nat) % 16 = 0 ∧ field 0x1FFF 13 13 ≤ field 0x1FFF 0 13 ∧
    field 0x100000 0 21 ≤ 1048576 := by decide
theorem witness_cwr_each :
    (([(0x005, 0x1F04), (0x006, 0), (0x030, 0x1FFF)] : List (Nat × Word)).all (fun p => (threadCwr user p.2 p.1).isSome) &&
     ([(0x063, 5), (0x064, 5)] : List (Nat × Word)).all (fun p => (userCwr user p.2 p.1).isSome) &&
     ([(0x024, 4), (0x026, 4), (0x027, 4), (0x028, 0), (0x029, 1), (0x02A, 0x80FFFF), (0x060, 64)] :
       List (Nat × Word)).all (fun p => (supCwr root p.2 p.1).isSome) &&
     ([(0x020, 0), (0x054, 15), (0x055, 0x10000)] : List (Nat × Word)).all (fun p => (rootCwr root p.2 p.1).isSome)) =
      true := by decide +kernel
theorem witness_crd_each :
    (([5, 6, 7, 0x10, 0x11, 0x12, 0x13, 0x30, 0x31, 0x40, 0x50, 0x51, 0x60, 0x61] : List Nat).all
       (fun n => (anyCreg user n).isSome) &&
     ([0, 1, 2, 3, 4, 8, 9, 0xA, 0x62, 0x63, 0x64, 0x70] : List Nat).all (fun n => (userCreg user.me n).isSome) &&
     ([0x20, 0x21, 0x23, 0x24, 0x25, 0x26, 0x27, 0x28, 0x29, 0x2A] : List Nat).all (fun n => (supCreg root n).isSome) &&
     ([0x44, 0x52, 0x53, 0x54, 0x55] : List Nat).all (fun n => (rootCreg root n).isSome)) = true := by decide +kernel
theorem witness_flags_in_flight : (user.setMe { worker with flights := [⟨1, [.length]⟩] }).me.flights ≠ [] ∧
    user.me.flights = [] := by decide
theorem witness_cxchg : cregReads user 0x006 0 ∧ ∃ u, cregWrites user 0x006 (user.rd 2) u := ⟨.inl rfl, _, .inl rfl⟩

/-- A supervisor thread of context 1. -/
def below : State := two_contexts.setMe { two_contexts.me with ctx := 1 }

theorem witness_privilege : User user ∧ supervisorOnly .eret = true ∧
    Sup below ∧ below.me.ctx ≠ 0 ∧ rootOnlyInstr .freeze = true ∧
    Sup root ∧ userOnlyInstr (.vadd 1 2 3 false false) = true := by unfold User Sup; decide
theorem witness_deprecated : deprecated (.dcopy 1 2) = true ∧ bitAt (State.reset.env State.reset.cur).features 0 = false := by
  decide
theorem witness_creg_kinds : Sup root ∧ (0x070 : BitVec 11).toNat ∈ userRegs ∧ User user ∧
    (0x02A : BitVec 11).toNat ∈ supRegs ∧ (0x055 : BitVec 11).toNat ∈ rootRegs ∧
    (0x061 : BitVec 11).toNat ∈ readOnlyRegs := by unfold User Sup; decide
theorem witness_island : Sup below ∧ below.me.ctx ≠ 0 ∧ (below.ctxAt below.me.ctx).isol = false ∧
    islandInstr (.islon 1) = true := by unfold Sup; decide
theorem witness_creg_read_only : User user ∧ (0x070 : BitVec 11).toNat ∈ userReadOnly ∧ (0x060 : BitVec 11).toNat = 0x060 ∧
    (0x7FF : BitVec 11).toNat ∉ assignedRegs := by unfold User; decide
theorem witness_not_root_below : ¬ Root below ∧ Sup below := ⟨fun h => absurd h.2 (by decide), rfl⟩
theorem witness_creg_limits :
    ((7 : BitVec 11).toNat ∈ threadWritten ∧ threadCwr user (user.rd 2) (7 : BitVec 11).toNat = none) ∧
    (User user ∧ (0x62 : BitVec 11).toNat ∈ userWritten ∧ userCwr user (user.rd 3) (0x62 : BitVec 11).toNat = none) ∧
    (Sup root ∧ (0x24 : BitVec 11).toNat ∈ supWritten ∧ supCwr root (root.rd 2) (0x24 : BitVec 11).toNat = none) ∧
    (Root root ∧ (0x54 : BitVec 11).toNat ∈ rootWritten ∧ rootCwr root (root.rd 4) (0x54 : BitVec 11).toNat = none) := by
  unfold Root User Sup; decide
theorem witness_not_root : ¬ Root user := fun h => absurd h.1 (by unfold Sup; decide)
theorem witness_call : callOf (.svc 9) = some (0x30, 9) := rfl

/-- A barrier marker of the thread has not fired. -/
def withMarker : State := user.setMe { worker with markers := [{ scope := 0, addr := 0x30000, count := 1, pc := 0x20000 }] }

theorem witness_upcall : withMarker.me.markers ≠ [] ∧ user.me.markers = [] := by decide

/-! ## Witnesses: traps, records, handlers and releases -/

theorem witness_user_trap : isSupervisor 0 = false := rfl

/-- The root with a fault queue of 64 records at 0x40000. -/
def queued : State := { root with ctxs := [(0, { Context.root with fqbase := 0x40000, fqlog2 := 6, trapvec := 0x50000 })] }

/-- A record, an entry and a held fault of a user thread. -/
def aRecord : Record :=
  { cause := 2, kind := 1, level := 0, deleg := false, pcres := true, misslvl := 0, nested := false, ctx := 0, core := 0,
    thread := 0, token := 1, va := 0x1234, pc := 0x20000, elem := 0, cmd := 0, sect := 0, chunk := 0, hints := [], orig := (0, 0) }
def anEntry : Entry := { record := aRecord, resume := 0x20000, mstep := 0 }
def aHeld : Held := { token := 1, entry := anEntry, by_ := .user }

theorem witness_queue : suppressed queued 0 0 anEntry.record = false ∧ (queued.coreAt 0).blocked = [] ∧
    (queued.ctxAt 0).id = 0 ∧ (queued.ctxAt 0).queued < (queued.ctxAt 0).fqsize ∧
    (queued.coreAt 0).pending.length < 256 := by decide
theorem witness_queue_slot : ∃ p, queueSlot queued (queued.ctxAt 0) = .ok p ∧ SoundPlace queued p.2 ∧ p.2.length = 64 := by
  obtain ⟨p, h, e⟩ := ok_of (x := queueSlot queued (queued.ctxAt 0))
    (p := fun p => (decide p.2.Nodup && p.2.all (fun pa => queued.failedAt pa == false)) && p.2.length == 64)
    (by decide +kernel)
  rw [Bool.and_eq_true] at e
  exact ⟨p, h, sound_of e.1, by simpa using e.2⟩
theorem witness_queue_behind :
    suppressed { queued with cores := [(0, { Core.reset with blocked := [anEntry] })] } 0 0 anEntry.record = false ∧
    (({ queued with cores := [(0, { Core.reset with blocked := [anEntry] })] } : State).coreAt 0).blocked ≠ [] := by decide
theorem witness_handler : (root.thread 4).h.served = none ∧ (root.thread 4).status = .ready := by decide

/-- Resident code waits while a handler serves the entry, whose fault is held. -/
def serving (h : HRegs) : State :=
  { root with
    cores := [(0, { Core.reset with resident := some { Thread.reset with pc := 0x20040 } })]
    held := [aHeld]
    threads := [(4, { root.me with h := { h with served := some anEntry } })] }

theorem witness_resident : ((serving HRegs.reset).coreAt 0).stack = [] ∧ ((serving HRegs.reset).coreAt 0).pending = [] ∧
    (∀ e ∈ ((serving HRegs.reset).coreAt 0).blocked, e.first = true → e.written = false) ∧
    ∃ r, ((serving HRegs.reset).coreAt 0).resident = some r := ⟨rfl, rfl, by decide, _, rfl⟩

/-- A user thread stalled on token 1, inside a loop. -/
def stalled : Thread :=
  { worker with status := .trapped 1, vec := { strip with loop := some { par := false, next := 0, len := 2, pc := 0x20000, reg := 2, body := [], open_ := false } } }

theorem witness_release_user : aHeld.by_ = .user ∧ ({ user with threads := [(0, stalled)] } : State).thread 0 = stalled ∧
    stalled.status = .trapped aHeld.token ∧ stalled.vec.loop.isSome ∧ stalled.curPc = 0x20004 := by decide
theorem witness_release_loop : anEntry.record.pcres = true ∧ ({ anEntry with record := { aRecord with pcres := false } } : Entry).record.pcres = false ∧
    (0x20004 : Word) = stalled.curPc ∧ (0x20008 : Word) ≠ stalled.curPc := by decide
theorem witness_release_supervisor : ({ aHeld with by_ := .supervisor } : Held).by_ = .supervisor ∧
    ({ root with threads := [(4, { root.me with status := .trapped 1 })] } : State).me.status = .trapped aHeld.token ∧
    root.me.status ≠ .trapped aHeld.token := by decide
theorem witness_eret_outside : Sup root ∧ root.me.h.served = none := ⟨rfl, rfl⟩
theorem witness_eret_released : (serving HRegs.reset).me.h.served = some anEntry ∧
    ({ serving HRegs.reset with held := [] } : State).held.find? (fun x => x.token == anEntry.record.token) = none := ⟨rfl, rfl⟩
theorem witness_eret_release : (serving HRegs.reset).me.h.served = some anEntry ∧
    (serving HRegs.reset).held.find? (fun x => x.token == anEntry.record.token) = some aHeld ∧ aHeld.by_ ≠ .supervisor ∧
    (serving HRegs.reset).me.h.remove = false := by decide
theorem witness_eret_keep : (serving { HRegs.reset with keep := true }).me.h.keep = true ∧
    (serving { HRegs.reset with keep := true }).me.h.remove = false := by decide
theorem witness_eret_supervisor :
    ({ serving HRegs.reset with held := [{ aHeld with by_ := .supervisor }] } : State).held.find?
      (fun x => x.token == anEntry.record.token) = some { aHeld with by_ := .supervisor } := by decide
theorem witness_eret_remove : (serving { HRegs.reset with remove := true }).me.h.served = some anEntry ∧
    (serving { HRegs.reset with remove := true }).held.find? (fun x => x.token == anEntry.record.token) = some aHeld ∧
    (serving { HRegs.reset with remove := true }).me.h.remove = true := by decide

/-- g2 holds the token 1. -/
def releasing (ctx : Nat) : State :=
  withRegs { serving HRegs.reset with held := [{ aHeld with entry := { anEntry with record := { aRecord with ctx := ctx } } }] } [(2, 1)]

theorem witness_frel_bad : Sup (withRegs root [(2, 0xA000000000)]) ∧ badToken ((withRegs root [(2, 0xA000000000)]).rd 2).toNat = true := by
  unfold Sup; decide
theorem witness_frel_none : Sup root ∧ badToken (root.rd 2).toNat = false ∧
    root.held.find? (fun x => x.token == (root.rd 2).toNat) = none := by unfold Sup; decide
theorem witness_frel : Sup (releasing 0) ∧ badToken ((releasing 0).rd 2).toNat = false ∧
    (∃ f, (releasing 0).held.find? (fun x => x.token == ((releasing 0).rd 2).toNat) = some f ∧
      (releasing 0).inSubtree (releasing 0).me.ctx f.entry.record.ctx = true ∧
      ((releasing 0).ctxAt (releasing 0).me.ctx).depth ≤ f.entry.record.level) := ⟨rfl, rfl, _, rfl, by decide, by decide⟩
theorem witness_frel_outside : ∃ f, (releasing 4096).held.find? (fun x => x.token == ((releasing 4096).rd 2).toNat) = some f ∧
    (releasing 4096).inSubtree (releasing 4096).me.ctx f.entry.record.ctx = false := ⟨_, rfl, by decide⟩

/-- The thread serves context 1, of depth 1; the held fault's record is at level 0. -/
def shallow : State :=
  withRegs { below with held := [{ aHeld with entry := { anEntry with record := { aRecord with ctx := 1 } } }] } [(2, 1)]

theorem witness_frel_shallow : Sup shallow ∧ badToken (shallow.rd 2).toNat = false ∧
    ∃ f, shallow.held.find? (fun x => x.token == (shallow.rd 2).toNat) = some f ∧
      f.entry.record.level < (shallow.ctxAt shallow.me.ctx).depth := ⟨rfl, rfl, _, rfl, by decide⟩
theorem witness_frel_point : (serving HRegs.reset).me.h.served = some anEntry ∧ anEntry.record.token = aHeld.token ∧
    anEntry.record.token ≠ ({ aHeld with token := 2 } : Held).token := by decide

/-! ## Witnesses: scalar memory, floats, phases, waits and rings -/

theorem witness_load : loadOf user (.ld 5 1 3 0) = some (5, 0x30000, 3) ∧ user.rev1 user.cur = false ∧
    ∃ p, checkRead user (user.env user.cur) 0x30000 (byteCount 3) (byteCount 3) = .ok p :=
  ⟨by decide, by decide, (ok_of (p := fun _ => true) (by decide +kernel)).imp (fun _ h => h.1)⟩
theorem witness_store : storeOf user (.st 2 1 3 0x7F) = some (2, 0x303F8, 3) ∧ user.rev1 user.cur = false ∧
    ∃ p, checkWrite user (user.env user.cur) 0x303F8 (byteCount 3) (byteCount 3) = .ok p :=
  ⟨by decide, by decide, (ok_of (p := fun _ => true) (by decide +kernel)).imp (fun _ h => h.1)⟩

/-- The same thread under the strengthening mode. -/
def strong : State := { user with ctxs := [(0, { Context.root with rev1 := true })] }

theorem witness_store_strong : storeOf strong (.st 2 1 0 0) = some (2, 0x30000, 0) ∧ strong.rev1 strong.cur = true ∧
    ∃ p, checkWrite strong (strong.env strong.cur) 0x30000 (byteCount 0) (byteCount 0) = .ok p :=
  ⟨by decide, by decide, (ok_of (p := fun _ => true) (by decide +kernel)).imp (fun _ h => h.1)⟩

/-- With a send on its way. -/
def strongSending : State :=
  strong.setMe { worker with pend := [{ pa := 0x8000000000000, val := 1, whole := false, ordered := true }] }

theorem witness_store_after_send : strongSending.rev1 strongSending.cur = true ∧
    ((((pended strongSending [0x30000] [5]) ++ strongSending.me.pend).dropWhile (fun q => uncachedPa q.pa)).filter
      (fun q => uncachedPa q.pa)).map (·.pa) = [0x8000000000000] := by decide

/-- What a test finds of a failure. -/
def failsWith {ε α : Type} (p : ε → Bool) : Except ε α → Bool
  | .ok _ => false
  | .error e => p e

theorem failed_of {α : Type} {x : Except Stop α} (h : failsWith (fun e => match e with | .flt _ => true | .wait => false) x = true) :
    ∃ f, x = .error (.flt f) := by
  cases x with
  | ok a => cases h
  | error e => cases e with
    | flt f => exact ⟨f, rfl⟩
    | wait => cases h

theorem failed_with {α : Type} {x : Except Stop α} {p : Flt → Bool}
    (h : failsWith (fun e => match e with | .flt f => p f | .wait => false) x = true) : ∃ f, x = .error (.flt f) ∧ p f = true := by
  cases x with
  | ok a => cases h
  | error e => cases e with
    | flt f => exact ⟨f, rfl, h⟩
    | wait => cases h

theorem witness_store_fails : storeOf user (.st 2 2 1 0) = some (2, 5, 1) ∧
    ∃ f, checkWrite user (user.env user.cur) 5 (byteCount 1) (byteCount 1) = .error (.flt f) :=
  ⟨by decide, failed_of (by decide +kernel)⟩
/-- The thread's own atomic has written byte 0x30000, and another thread's a later value. -/
def ownAtomic : State :=
  { user with
    threads := [(0, { worker with reload := [1] })], mem := [(0x30000, 9)]
    hist := [{ time := 2, pa := 0x30000, old := 5, who := .thread 1, kind := .atomic, chunk := none },
             { time := 1, pa := 0x30000, old := 0, who := .thread 0, kind := .atomic, chunk := none }] }

theorem witness_own_atomic : ownAtomic.rev1 ownAtomic.cur = false ∧ ownAtomic.hist.Pairwise (fun a b => b.time < a.time) ∧
    (∃ e ∈ ownAtomics ownAtomic [0x30000], e.who = .thread ownAtomic.cur ∧ (∀ q ∈ ownAtomic.me.pend, q.pa ≠ e.pa) ∧
      uncachedPa e.pa = false) ∧ ownAtomics user [0x30000] = [] := by decide
theorem witness_load_fails : loadOf user (.ld 2 3 3 0) = some (2, 0xFFFFFFFFFFFFFFFF, 3) ∧
    ∃ f, checkRead user (user.env user.cur) 0xFFFFFFFFFFFFFFFF (byteCount 3)
      (byteCount 3) = .error (.flt f) := ⟨by decide, failed_of (by decide +kernel)⟩
theorem witness_not_canonical : canonical 0x0040000000000000 = false ∧ inWindow 0x0040000000000000 = false := by decide
theorem witness_misaligned : canonical 5 = true ∧ (5 : Word).toNat % 8 ≠ 0 := by decide

theorem witness_atomic : ∃ m, amoOf user (.amoadd 5 1 2) = some m ∧
    ∃ p, checkAtomic user (user.env user.cur) (user.rd m.a) m.size m.onHost = .ok p ∧ p.pas.any user.linkError = false := by
  refine ⟨_, rfl, ?_⟩
  obtain ⟨p, h, e⟩ := ok_of (x := checkAtomic user (user.env user.cur) (user.rd 1) 8 true)
    (p := fun p => p.pas.any user.linkError == false) (by decide +kernel)
  exact ⟨p, h, by simpa using e⟩
theorem witness_atomic_fails : amoOf user (.amoadd 5 2 2) = some ⟨5, 2, 8, true, fun o => (o + (user.rd 2).toNat) % 2 ^ 64⟩ ∧
    ∃ f, checkAtomic user (user.env user.cur) (user.rd 2) 8 true = .error (.flt f) :=
  ⟨rfl, failed_of (by decide +kernel)⟩

/-- g1 is an address of host memory. -/
def hosted : State := withRegs (mapped user) [(1, 0xFFE0000000), (2, 5)]

theorem witness_atomic_host : (∃ m, amoOf hosted (.amoand 5 1 2) = some m ∧ m.size = 8 ∧ m.onHost = false ∧ m.a = 1) ∧
    ∃ p, locate hosted (hosted.env hosted.cur) .both (hosted.rd 1) 8 8 = .ok p ∧
      (∀ pa ∈ p.pas, hosted.poisonAtHome hosted.cur pa = false) ∧ p.tier = 2 := by
  refine ⟨⟨_, rfl, rfl, rfl, rfl⟩, ?_⟩
  obtain ⟨p, h, e⟩ := ok_of (x := locate hosted (hosted.env hosted.cur) .both (hosted.rd 1) 8 8)
    (p := fun p => p.pas.all (fun pa => hosted.poisonAtHome hosted.cur pa == false) && p.tier == 2) (by decide +kernel)
  rw [Bool.and_eq_true, List.all_eq_true] at e
  exact ⟨p, h, fun pa m => eq_of_beq (e.1 pa m), by simpa using e.2⟩

/-- The host's line there answers with poison. -/
def hostTainted : State := { hosted with hostPoison := [0x8000000000000 / 64] }

theorem witness_load_host_poison : loadOf hostTainted (.ld 5 1 3 0) = some (5, 0xFFE0000000, 3) ∧
    ∃ f, checkRead hostTainted (hostTainted.env hostTainted.cur) 0xFFE0000000 (byteCount 3) (byteCount 3) = .error (.flt f) ∧
      (f.cause == 4 && f.host) = true := ⟨by decide, failed_with (by decide +kernel)⟩

/-- Two bytes of the thread are pending at one line. -/
def pendingTwo : State :=
  user.setMe { worker with pend := [{ pa := 0x30001, val := 7, whole := false }, { pa := 0x30008, val := 9, whole := false }] }

theorem witness_atomic_home : SoundPlace pendingTwo [0x30000, 0x30001] ∧
    ((∀ q ∈ (pendingTwo.thread 0).pend, q.pa ≠ 0x30002) ∨
      ¬ Reaches (pendingTwo.thread 0).pend [0x30000, 0x30001] 0x30002) := ⟨sound_of (by decide), .inl (by decide)⟩
theorem witness_atomic_not_reached : ¬ Reaches (pendingTwo.thread 0).pend [0x30000, 0x30001] 0x30008 := by
  unfold Reaches; decide
theorem witness_atomic_unreached : Unreached pendingTwo 0 [0x30000, 0x30001] 0x30008 ∧
    Unreached pendingTwo 0 [0x30000, 0x30001] 0x30002 ∧ pendingTwo.rev1 0 = false :=
  ⟨.inr ⟨witness_atomic_not_reached, .inl (by decide), .inl (by decide)⟩, .inl (by decide), by decide⟩
theorem witness_atomic_sends : strongSending.rev1 0 = true ∧ pendingTwo.rev1 0 = false ∧
    (strongSending.thread 0).markers = [] ∧ ∀ q ∈ (strong.thread 0).pend, uncachedPa q.pa = false := by decide
theorem witness_atomic_line : uncachedPa 0x30001 = false ∧ isSpad 0x30001 = false ∧ poisonUnit 0x30001 = poisonUnit 0x30000 := by
  decide
/-- Division by zero is enabled. -/
def trapping : State := user.setMe { worker with fpcr := 0x800 }

theorem witness_float : ∃ d v f, fpOf user (.fadd 5 1 2) = some (d, v, f) ∧ trapsOn (field user.me.fpcr 8 5) f = false :=
  ⟨_, _, _, rfl, by decide +kernel⟩
theorem witness_float_trap : ∃ d v f, fpOf trapping (.fdiv 5 1 0) = some (d, v, f) ∧
    trapsOn (field trapping.me.fpcr 8 5) f = true := ⟨_, _, _, rfl, by decide +kernel⟩

/-- A barrier at 0x30000 that expects one arrival, and a ring at 0x30020 of four slots of 64 bytes, three free. -/
def shared (s : State) : State :=
  { s with mem := [(0x30004, 1), (0x30020, 64), (0x30024, 4), (0x3002A, 4), (0x30030, 3), (0x30034, 1)] }

theorem witness_phase_pending : pendingTwo.me.pend.find? (fun q => q.pa == 0x30001) = some { pa := 0x30001, val := 7, whole := false } ∧
    (uncachedPa 0x30001 = true → (0 : BitVec 2) = 3) ∧ pendingTwo.failedAt 0x30001 = false := by decide
theorem witness_phase_untouched : (∀ p ∈ pendingTwo.me.pend, p.pa = 0x30002 → p.home = true) ∧
    (uncachedPa 0x8000000000000 = true ∧ (2 : BitVec 2) ≠ 3) := by decide

/-- Another thread's store that the thread has observed, and one that this agent published before it. -/
def observed : State :=
  { user with
    hist := [{ time := 2, pa := 0x30008, old := 0, who := .thread 1, kind := .atomic, chunk := none },
             { time := 1, pa := 0x30000, old := 0, who := .thread 1, kind := .plain, chunk := none }]
    pubs := [{ who := .thread 1, scope := 0, at_ := 1, stores := [1] }]
    threads := [(0, { worker with seen := [2] })] }

theorem witness_acquire_required : Required observed 0 0 1 ∧
    ∃ e ∈ observed.hist, e.who ≠ .thread 0 ∧ (observed.thread 0).ownChunk e = false ∧ e.time = 1 := by
  refine ⟨⟨2, by decide, _, rfl, by decide, by decide⟩,
    { time := 1, pa := 0x30000, old := 0, who := .thread 1, kind := .plain, chunk := none }, by decide, by decide, by decide, rfl⟩

theorem witness_arrive_user : User user := rfl
theorem witness_arrive_sup : Sup (withRegs (shared root) [(1, 0x30000), (2, 1)]) ∧
    ∃ u, updateBarrier ((withRegs (shared root) [(1, 0x30000), (2, 1)]).publish 4 (2 : BitVec 2).toNat) 4
      (((withRegs (shared root) [(1, 0x30000), (2, 1)]).publish 4 (2 : BitVec 2).toNat).env 4) 0x30000 1 = .ok u :=
  ⟨rfl, (ok_of (p := fun _ => true) (by decide +kernel)).imp (fun _ h => h.1)⟩
theorem witness_arrivals : (0 : Nat) < 1 ∧ 1 ≤ 1 ∧ (7 : Nat) < 2 ^ 32 ∧ 0 + 1 = 1 := by decide
theorem witness_arrivals_short : (1 : Nat) < 3 ∧ 1 ≤ 1 ∧ 1 + 1 < 3 := by decide
theorem witness_arrivals_many : (2 : Nat) < 3 ∧ 2 + 65535 = 21845 * 3 + 2 := by decide
theorem test_arrivals_many : arrivals 0xFFFFFFFF 3 2 7 = (2, 0) := by decide

/-- What an arrival of thread 0 finds. -/
def beforeArrival (s : State) (p : Place) : State := s.beforeAtomic 0 p.pas (fun q => q.behind == 0)

theorem witness_barrier : ∃ p, checkAtomic (shared user) ((shared user).env 0) 0x30000 32 false = .ok p ∧
    (∀ pa ∈ p.pas, (shared user).linkError pa = false) ∧ SoundPlace (shared user) p.pas ∧ p.pas.length = 32 ∧
    seenNum (beforeArrival (shared user) p) 0 p.pas 8 2 < seenNum (beforeArrival (shared user) p) 0 p.pas 4 2 := by
  obtain ⟨p, h, e⟩ := ok_of (x := checkAtomic (shared user) ((shared user).env 0) 0x30000 32 false)
    (p := fun p => ((p.pas.all (fun pa => (shared user).linkError pa == false) &&
      (decide p.pas.Nodup && p.pas.all (fun pa => (shared user).failedAt pa == false))) && p.pas.length == 32) &&
      decide (seenNum (beforeArrival (shared user) p) 0 p.pas 8 2 < seenNum (beforeArrival (shared user) p) 0 p.pas 4 2))
    (by decide +kernel)
  simp only [Bool.and_eq_true, List.all_eq_true, beq_iff_eq, decide_eq_true_eq] at e
  exact ⟨p, h, e.1.1.1, ⟨e.1.1.2.1, e.1.1.2.2⟩, e.1.2, e.2⟩
theorem witness_barrier_counts : 1 ≤ (65535 : Word).toNat ∧ (65535 : Word).toNat ≤ 65535 ∧ 65535 < (65536 : Word).toNat ∧
    (0 : Word).toNat = 0 := by decide
/-- EXPECTED = 0: every arrival is refused. -/
theorem witness_barrier_refused : ∃ p, checkAtomic user (user.env 0) 0x30000 32 false = .ok p ∧
    decide (seenNum (beforeArrival user p) 0 p.pas 4 2 ≤ seenNum (beforeArrival user p) 0 p.pas 8 2) = true :=
  ok_of (by decide +kernel)

/-- What a wait needs before it looks, as a test of the place. -/
def readyIf (s : State) (kind : Nat) (val : Word) (p : Place) : Bool :=
  (waitReads p.pas kind val).all (fun pa => s.poisonHome pa == false && s.linkError pa == false)

theorem ready_of {s : State} {kind : Nat} {va val : Word} {P : Place → Prop} [DecidablePred P]
    (h : okWith (fun p => readyIf s kind val p && decide (P p)) (locate s (s.env s.cur) .read va (waitBytes kind) (waitBytes kind)) = true) :
    ∃ p, WaitReady s kind va val p ∧ P p := by
  obtain ⟨p, h, e⟩ := ok_of h
  simp only [readyIf, Bool.and_eq_true, List.all_eq_true, beq_iff_eq, decide_eq_true_eq] at e
  exact ⟨p, ⟨h, e.1⟩, e.2⟩

theorem witness_wait : waitOf user (.waitb 1 2 0) = some (0, 0x30000, 5, 0) ∧
    ∃ p, WaitReady user 0 0x30000 5 p ∧ waitHolds user p.pas 0 5 :=
  ⟨by decide, ready_of (P := fun p => seenNum user user.cur p.pas 0 4 ≠ (5 : Word).toNat % 2 ^ 32) (by decide +kernel)⟩
theorem witness_wait_longer : waitOf user (.waitb 1 0 0) = some (0, 0x30000, 0, 0) ∧
    ∃ p, WaitReady user 0 0x30000 0 p ∧ ¬ waitHolds user p.pas 0 0 :=
  ⟨by decide, ready_of (P := fun p => ¬ seenNum user user.cur p.pas 0 4 ≠ (0 : Word).toNat % 2 ^ 32) (by decide +kernel)⟩
theorem witness_wait_value : waitOf user (.waitv 1 2 1) = some (1, 0x30000, 5, 1) ∧
    ∃ p, WaitReady user 1 0x30000 5 p ∧ waitHolds user p.pas 1 5 :=
  ⟨by decide, ready_of (P := fun p => seenNum user user.cur p.pas 0 8 ≠ (5 : Word).toNat) (by decide +kernel)⟩
theorem witness_wait_count : waitOf user (.waitc 1 0 2) = some (2, 0x30000, 0, 2) ∧
    ∃ p, WaitReady user 2 0x30000 0 p ∧ waitHolds user p.pas 2 0 :=
  ⟨by decide, ready_of (P := fun p =>
    (if (0 : Word) = 0 then seenNum user user.cur p.pas 24 8 else (0 : Word).toNat) ≤ seenNum user user.cur p.pas 16 8) (by decide +kernel)⟩

/-- g1 names the ring; g2, g3 and g4 are counts. -/
def ringer : State := withRegs (shared user) [(1, 0x30020), (2, 1), (3, 3), (4, 2)]

theorem witness_ring_acquire : ringOf ringer (.racqw 5 1 3) = some (some 5, true, 0x30020, 3) ∧ User ringer ∧
    ∃ x, openRing ringer 0x30020 = .ok x ∧
      (decide (1 ≤ (3 : Word).toNat) && decide ((3 : Word).toNat ≤ x.2.1.slots) &&
       ringTurn x.2.2 (x.1.pas.headD 0) true (.inl ringer.cur) && decide ((3 : Word).toNat ≤ available x.2.1 true)) = true :=
  ⟨by decide, rfl, ok_of (by decide +kernel)⟩
theorem witness_ring_waits : ringOf ringer (.racqr 5 1 4) = some (some 5, false, 0x30020, 2) ∧
    ∃ x, openRing ringer 0x30020 = .ok x ∧
      (decide ((2 : Word).toNat ≤ x.2.1.slots) && decide (available x.2.1 false < (2 : Word).toNat)) = true :=
  ⟨by decide, ok_of (by decide +kernel)⟩
/-- Another thread asked first. -/
theorem witness_ring_turn : ∃ x, openRing { ringer with rings := [{ pa := 0x30020, write := true, who := .inl 1 }] } 0x30020 = .ok x ∧
    (ringTurn x.2.2 (x.1.pas.headD 0) true (.inl ringer.cur) == false) = true := ok_of (by decide +kernel)
theorem witness_ring_release : ringOf { ringer with mem := ringer.mem.dropLast } (.rrelr 1 2) = some (none, false, 0x30020, 1) ∧
    ringer.me.markers = [] ∧
    ∃ x, openRing { ringer with mem := ringer.mem.dropLast } 0x30020 = .ok x ∧
      (decide (x.2.1.free + x.2.1.filled + (1 : Word).toNat ≤ x.2.1.slots)) = true :=
  ⟨by decide, rfl, ok_of (by decide +kernel)⟩
theorem witness_ring_written : SoundPlace ringer ((List.range 32).map (0x30020 + ·)) ∧
    ((List.range 32).map (0x30020 + ·)).length = 32 := ⟨sound_of (by decide +kernel), rfl⟩

/-- What a bad descriptor's statement asks of the ring's place. -/
def ringSeen (s : State) (f : RingDesc → Bool → Bool) (p : Place) : Bool :=
  let u := (s.beforeAtomic s.cur p.pas (fun _ => true)).beforeHome s.cur
  let r := RingDesc.ofBytes (p.pas.map u.home)
  okWith (f r) (ringBaseOk u (u.env s.cur) r.base)

/-- A count above SLOTS, a release beyond SLOTS, and a descriptor of zeros. -/
theorem witness_ring_bad : User ringer ∧ ringOf ringer (.racqw 5 1 6) = some (some 5, true, 0x30020, 0) ∧
    ringOf ringer (.rrelw 1 3) = some (none, true, 0x30020, 3) ∧
    (∃ p, ringPlace ringer (ringer.env ringer.cur) 0x30020 = .ok p ∧
      ringSeen ringer (fun r _ => decide (r.slots < r.free + r.filled + (3 : Word).toNat)) p = true) ∧
    ∃ p, ringPlace user (user.env user.cur) 0x30000 = .ok p ∧ ringSeen user (fun r _ => decide (r.slots < 1)) p = true :=
  ⟨rfl, by decide, by decide, ok_of (by decide +kernel), ok_of (by decide +kernel)⟩
theorem witness_ring_unsound : ¬ soundRing (RingDesc.ofBytes (List.replicate 32 0)) 16 true := by
  intro h; exact absurd h.2.1 (by decide)
theorem witness_ring_peer : ∃ p, ringPlace (mapped user) ((mapped user).env (mapped user).cur) 0x30000000000 = .ok p ∧
    (p.tier == 3) = true := ok_of (by decide +kernel)

/-! ## Witnesses: vector instructions -/

theorem mem_only {α : Type} {o : α} {l : List α} (h : l = [o]) : o ∈ l := h ▸ List.mem_singleton.2 rfl

/-- Registers 1 and 2 hold I32 elements, 3 a mask, and 0 the mask of masked forms. -/
def ints : State := withV user [(0, 18, [(0, 5)]), (1, 5, [(0, 7), (15, 0x80)]), (2, 5, [(0, 0xFF), (12, 3)]), (3, 18, [(0, 6)])]

/-- Registers 1 and 2 hold FP32 elements: 1.0 at element 2 of the first, and at elements 0 and 1 of the second. -/
def floats : State := withV user [(1, 11, [(10, 0x80), (11, 0x3F)]), (2, 11, [(2, 0x80), (3, 0x3F), (6, 0x80), (7, 0x3F)])]

/-- The same with division by zero enabled, so that element 2 traps. -/
def floatsOn : State := floats.setMe { floats.me with fpcr := 0x800 }

/-- Element 1 traps. -/
def floatsLow : State := withV trapping [(1, 11, [(6, 0x80), (7, 0x3F)]), (2, 11, [(2, 0x80), (3, 0x3F)])]

theorem witness_vector : ∃ o, o ∈ vecOf ints (.vadd 3 1 2 false true) ∧ VecReady ints o :=
  ⟨_, mem_only rfl, by unfold VecReady Issues User; decide +kernel⟩
theorem witness_vector_masked : ∃ o, o ∈ vecOf ints (.vsltX 3 1 4 true false) ∧ VecReady ints o :=
  ⟨_, mem_only rfl, by unfold VecReady Issues User; decide +kernel⟩
theorem witness_vector_splat : ∃ o, o ∈ vecOf ints (.vsplat 31 2 false false) ∧ VecReady ints o :=
  ⟨_, mem_only rfl, by unfold VecReady Issues User; decide +kernel⟩
theorem witness_vector_float : ∃ o, o ∈ floatOf floats (.vfdiv 3 1 2 false false) ∧ VecReady floats o :=
  ⟨_, mem_only rfl, by unfold VecReady Issues User; decide +kernel⟩
theorem witness_vector_trims : ∃ o, o ∈ floatOf floatsOn (.vfdiv 3 1 2 false false) ∧
    VecReady floatsOn { o with f := fun e => ((o.f e).1, 0) } ∧ FirstTrap floatsOn o 2 ∧
    floatsOn.me.vec.freeze = false ∧ 0 < granuleStart floatsOn.me.vec 2 :=
  ⟨_, mem_only rfl, by unfold VecReady Issues User FirstTrap; decide +kernel⟩
theorem witness_vector_traps : ∃ o, o ∈ floatOf floatsLow (.vfdiv 3 1 2 false false) ∧
    VecReady floatsLow { o with f := fun e => ((o.f e).1, 0) } ∧ FirstTrap floatsLow o 1 ∧
    granuleStart floatsLow.me.vec 1 = 0 := ⟨_, mem_only rfl, by unfold VecReady Issues User FirstTrap; decide +kernel⟩
/-- The same under FREEZE, and with a forced pre-emption asked for. -/
theorem witness_vector_frozen : ∃ o, o ∈ floatOf (withVec floatsOn (fun v => { v with freeze := true })) (.vfdiv 3 1 2 false false) ∧
    FirstTrap (withVec floatsOn (fun v => { v with freeze := true })) o 2 ∧
    (withVec floatsOn (fun v => { v with freeze := true })).me.vec.freeze = true :=
  ⟨_, mem_only rfl, by unfold FirstTrap; decide +kernel⟩

/-- A tag that `vadd` does not take, and a mask that is no mask. -/
theorem witness_format_fault : (∃ o, o ∈ vecOf ints (.vadd 4 1 3 false false) ∧ o.ok = false ∧
      (∀ r ∈ o.srcs, ints.vtag r ≠ tagPsn) ∧ ∀ r ∈ o.d :: o.srcs, r.toNat < ints.me.vec.nregs) ∧
    badLiteral (.vadd 4 1 3 false false) = false ∧ badLiteral (.vcvt 4 1 0 false false) = true ∧ User ints :=
  ⟨⟨_, mem_only rfl, by decide, by decide, by decide⟩, rfl, rfl, rfl⟩
theorem witness_mask_fault : ∃ o, o ∈ vecOf (withV user [(1, 5, []), (2, 5, [])]) (.vadd 4 1 2 true false) ∧ o.ok = true ∧
    maskOk (withV user [(1, 5, []), (2, 5, [])]) o.m = false := ⟨_, mem_only rfl, by decide, by decide⟩

/-- v2 holds poison; the mask selects element 2. -/
def poisoned : State := withV user [(0, 18, [(0, 4)]), (1, 5, []), (2, tagPsn, [])]

theorem witness_poison : ∃ o p, o ∈ vecOf poisoned (.vadd 3 1 2 true false) ∧ Issues poisoned o ∧ poisoned.me.stop = none ∧
    poisoned.me.replay = none ∧ maskOk poisoned o.m = true ∧ (∃ r ∈ o.srcs, poisoned.vtag r = tagPsn) ∧ o.ok = false ∧
    p ∈ vecOf (retagged poisoned o.srcs (fun _ => 5)) (.vadd 3 1 2 true false) ∧ p.ok = true ∧
    (activeElems poisoned o.m).head? = some 2 ∧ poisoned.me.vec.freeze = false ∧ 0 < granuleStart poisoned.me.vec 2 :=
  ⟨_, _, mem_only rfl, by unfold Issues User; decide, rfl, rfl, by decide, ⟨2, by decide, by decide⟩, by decide,
    mem_only rfl, by decide, by decide, by decide, by decide⟩
theorem witness_poison_traps : ∃ o, o ∈ vecOf poisoned (.vadd 3 1 2 false false) ∧
    (activeElems poisoned o.m).head? = some 0 ∧ granuleStart poisoned.me.vec 0 = 0 :=
  ⟨_, mem_only rfl, by decide, by decide⟩

theorem witness_element : 1 ≤ 15 ∧ 15 ≤ 17 ∧ (7 + 1) * tagWidth 15 ≤ 8 ∧ 8 ≤ 8 * tagWidth 15 ∧ 3 ≠ 7 := by decide

/-! ## Witnesses: strips, loops, registers, reductions -/

theorem witness_setvl : User user ∧ 1 ≤ (1 : BitVec 5).toNat ∧ (17 : BitVec 5).toNat ≤ 17 ∧ groupsFree user ≠ [] ∧
    user.rd 2 ≠ 0 ∧ user.rd 0 = 0 := by unfold User; decide

/-- Core 0 with every lane group gated. -/
def noLanes : State := { user with cores := [(0, { Core.reset with gated := 65535 })] }

theorem witness_setvl_waits : User noLanes ∧ groupsFree noLanes = [] ∧ noLanes.rd 2 ≠ 0 := by
  unfold User; decide
theorem witness_vdecl : User user ∧ (5 : BitVec 3).toNat ≤ 5 ∧ 31 < min user.me.vec.nregs (2 ^ ((5 : BitVec 3).toNat + 2)) ∧
    min user.me.vec.nregs (2 ^ ((0 : BitVec 3).toNat + 2)) ≤ 4 := by unfold User; decide

/-- Two words `vadd v5, v6, v7` after the thread's PC. -/
def coded : State :=
  { user with mem := [(0x20004, 0x78), (0x20005, 0x30), (0x20006, 0x14), (0x20007, 0x80),
                      (0x20008, 0x78), (0x20009, 0x30), (0x2000A, 0x14), (0x2000B, 0x80)] }

theorem witness_loop_length : 1 ≤ (1 : BitVec 6).toNat ∧ (32 : BitVec 6).toNat ≤ 32 ∧ loopOf (.loopP 2 32) = some (true, 2, 32) := by
  decide
theorem witness_loop : loopOf (.loop 2 2) = some (false, 2, 2) ∧ User coded ∧ coded.rd 2 ≠ 0 ∧ coded.rd 0 = 0 ∧
    ∃ b, fetchBody coded (coded.me.curPc + 4) (2 : BitVec 6).toNat = .ok b ∧ (b == [0x80143078, 0x80143078]) = true :=
  ⟨rfl, rfl, by decide, by decide, ok_of (by decide +kernel)⟩

/-- A loop over g2 with a body of two words, at its word `next`. -/
def aLoop (reg : BitVec 7) (next : Nat) (opened : Bool) : Loop :=
  { par := false, next := next, len := 2, pc := 0x20000, reg := reg, body := [0x020C0005, 0x020C0005], open_ := opened }
def looping (l : Loop) : State := withVec user (fun v => { v with loop := some l })

theorem witness_loop_body : (looping (aLoop 2 0 true)).me.vec.loop = some (aLoop 2 0 true) ∧
    (aLoop 2 0 true).open_ = true ∧ (aLoop 2 0 true).next < (aLoop 2 0 true).len := by decide
theorem witness_loop_ends : (looping (aLoop 0 0 false)).me.vec.loop = some (aLoop 0 0 false) ∧
    (aLoop 0 0 false).open_ = false ∧ (looping (aLoop 0 0 false)).rd 0 = 0 := by decide
theorem witness_loop_pass : (looping (aLoop 2 2 true)).me.vec.loop = some (aLoop 2 2 true) ∧ (aLoop 2 2 true).open_ = true ∧
    (aLoop 2 2 true).len ≤ (aLoop 2 2 true).next ∧ (∀ w ∈ (aLoop 2 2 true).body, w.toNat / 2 ^ 25 ≠ 0x33) ∧
    (aLoop 2 2 true).reg ≠ 0 := ⟨rfl, rfl, by decide, fun w h => by simp [aLoop] at h; subst h; decide, by decide⟩
/-- The body bumps g1 by 8 bytes an element. -/
def bumping : Loop := { aLoop 2 2 true with body := [0x66040803, 0x020C0005] }

theorem witness_loop_bumps : (looping bumping).me.vec.loop = some bumping ∧ bumping.open_ = true ∧ bumping.len ≤ bumping.next ∧
    bumpsOf bumping.body = [(1, 1, 3)] := by decide
theorem witness_loop_strip : (looping (aLoop 2 0 false)).me.vec.loop = some (aLoop 2 0 false) ∧
    (aLoop 2 0 false).open_ = false ∧ (looping (aLoop 2 0 false)).rd 2 ≠ 0 ∧ groupsFree (looping (aLoop 2 0 false)) ≠ [] := by
  decide
theorem witness_loop_waits : ({ looping (aLoop 2 0 false) with cores := noLanes.cores } : State).me.vec.loop = some (aLoop 2 0 false) ∧
    groupsFree { looping (aLoop 2 0 false) with cores := noLanes.cores } = [] := by decide
theorem witness_bump : User user ∧ user.me.vec.loop = none ∧ User (looping (aLoop 2 1 true)) ∧
    (looping (aLoop 2 1 true)).me.vec.loop.isSome = true := by unfold User; decide

theorem witness_to_scalar : (∃ v, toScalar ints (.vext 5 1 0) = some ([1], true, 5, v)) ∧ Declared ints [1] := by
  refine ⟨⟨_, rfl⟩, ?_⟩; unfold Declared User; decide
theorem witness_to_scalar_masked : (∃ v, toScalar ints (.mfirst 5 3 true) = some ([3], true, 5, v)) ∧ Declared ints [3] := by
  refine ⟨⟨_, rfl⟩, ?_⟩; unfold Declared User; decide
theorem witness_masks : (∃ f, maskForm ints (.mxor 4 3 0) = some (4, [3, 0], f)) ∧ Writable ints 4 ∧ Declared ints [3, 0] ∧
    (∀ r ∈ ([3, 0] : List (BitVec 7)), ints.vtag r = 18) ∧ ints.me.replay = none := by
  refine ⟨⟨_, rfl⟩, ?_⟩; unfold Writable Declared User; decide
/-- A forced pre-emption asks for a stop at element 3, above the boundary 2. -/
def cut : State := ints.setMe { ints.me with stop := some 3 }

theorem witness_masks_whole : Unstopped ints ∧ Unstopped (withVec cut (fun v => { v with freeze := true })) ∧
    Unstopped (withVec cut (fun v => { v with al := 2 })) :=
  ⟨.inr (fun _ h => by cases h), .inl rfl, .inr (fun b h => by cases h; decide)⟩
theorem witness_masks_cut : (∃ f, maskForm cut (.mnot 4 3) = some (4, [3], f)) ∧ Writable cut 4 ∧ Declared cut [3] ∧
    cut.me.stop = some 3 ∧ 3 < cut.me.vec.al ∧ cut.me.vec.freeze = false ∧ 0 < granuleStart cut.me.vec 3 ∧
    cut.me.replay = none ∧ ∀ r ∈ ([3] : List (BitVec 7)), cut.vtag r = 18 := by
  refine ⟨⟨_, rfl⟩, ?_⟩; unfold Writable Declared User; decide
theorem witness_register_form : (∃ v, regForm ints (.vretag 4 1 6) = some (4, [1], true, v)) ∧ Writable ints 4 ∧
    Declared ints [1] := by refine ⟨⟨_, rfl⟩, ?_⟩; unfold Writable Declared User; decide
theorem witness_insert : (∃ v, regForm ints (.vins 1 2 0) = some (1, [], true, v)) ∧ 1 ≤ ints.vtag 1 ∧
    ints.me.vec.al ≤ (ints.rd 2).toNat := by refine ⟨⟨_, rfl⟩, ?_⟩; decide

theorem witness_reduction : ∃ x, intRed ints (.vredmin 5 1 true) = some (5, 1, true, x) ∧ Declared ints [1] ∧
    maskOk ints true = true ∧ isInt (ints.vtag 1) = true ∧ ∀ v ∈ activeVals ints 1 true, v < 2 ^ (8 * tagWidth (ints.vtag 1)) :=
  ⟨_, rfl, by unfold Declared User; decide +kernel⟩
theorem witness_reduction_float : Declared floats [2] ∧ maskOk floats false = true ∧ isFF8 (floats.vtag 2) = true := by
  unfold Declared User; decide
theorem witness_cross : ∃ o, crossOf ints (.vslup 4 1 0 true true) = some o ∧ o.ok = true ∧ Writable ints o.d ∧
    Declared ints o.srcs := ⟨_, rfl, by unfold Writable Declared User; decide⟩
theorem witness_cross_float : ∃ o, crossOf floats (.vsegfsum 4 1 false false) = some o ∧ o.ok = true :=
  ⟨_, rfl, by decide +kernel⟩
theorem witness_cross_segment : ∃ o, crossOf ints (.vsegmin 4 1 false false) = some o ∧ o.ok = true ∧ Writable ints o.d ∧
    Declared ints o.srcs := ⟨_, rfl, by unfold Writable Declared User; decide⟩
theorem witness_deprecated_on : bitAt (ints.env ints.cur).features 0 = true ∧ ints.me.stop = none ∧
    (∀ v ∈ activeVals ints 1 false, v < 2 ^ (8 * tagWidth (ints.vtag 1))) ∧ isInt (ints.vtag 1) = true ∧
    isF (floats.vtag 1) = true := by decide

/-! ## Witnesses: vector memory -/

theorem all_ok {α β : Type} {l : List β} {f : β → Except Stop α} (h : l.all (fun x => okWith (fun _ => true) (f x)) = true) :
    ∀ x ∈ l, ∃ p, f x = .ok p := fun x m =>
  let ⟨p, e, _⟩ := ok_of (List.all_eq_true.1 h x m)
  ⟨p, e⟩

/-- Places for a list of elements, and as a function. -/
theorem places_of {f : Nat → Except Stop Place} : ∀ {l : List Nat},
    (l.all (fun e => okWith (fun _ => true) (f e))) = true → ∃ m : List (Nat × Place), m.map (·.1) = l ∧ ∀ x ∈ m, f x.1 = .ok x.2
  | [], _ => ⟨[], rfl, fun _ h => by cases h⟩
  | e :: l, h => by
    simp only [List.all_cons, Bool.and_eq_true] at h
    obtain ⟨p, hp, _⟩ := ok_of h.1
    obtain ⟨m, hm, hf⟩ := places_of h.2
    refine ⟨(e, p) :: m, by simp [hm], fun x hx => ?_⟩
    rcases List.mem_cons.1 hx with rfl | hx
    · exact hp
    · exact hf x hx

def placeOr (p : Place) : Except Stop Place → Place
  | .ok q => q
  | .error _ => p

theorem placeOr_ok {p : Place} {x : Except Stop Place} (h : okWith (fun _ => true) x = true) : x = .ok (placeOr p x) := by
  obtain ⟨q, hq, _⟩ := ok_of h
  subst hq; rfl

theorem first_fault {elems : List Nat} {place : Nat → Except Stop Place} {e : Nat}
    (h : (elems.contains e && failsWith (fun e => match e with | .flt _ => true | .wait => false) (place e) &&
      (elems.filter (fun k => decide (k < e))).all (fun k => okWith (fun _ => true) (place k))) = true) :
    ∃ f, FirstFault elems place e f := by
  simp only [Bool.and_eq_true] at h
  obtain ⟨f, hf⟩ := failed_of h.1.2
  exact ⟨f, by simpa using h.1.1, hf, fun k m l => all_ok h.2 k (List.mem_filter.2 ⟨m, by simpa using l⟩)⟩

/-- g5 is 0x40000; register 2 holds offsets, 3 a shape record over four I32 elements at 0x30000, and 4 another at
0x40000 in granules of two. -/
def shapes : State :=
  (withV user [(0, 18, [(0, 5)]), (1, 5, [(0, 7), (15, 0x80)]), (2, 8, [(0, 64), (8, 128), (16, 4), (24, 8)]),
    (3, 19, [(2, 3), (8, 1), (16, 5), (24, 4), (64, 4)]), (4, 19, [(2, 4), (8, 1), (16, 5), (24, 4), (64, 8)])]).setMe
    { (withV user [(0, 18, [(0, 5)]), (1, 5, [(0, 7), (15, 0x80)]), (2, 8, [(0, 64), (8, 128), (16, 4), (24, 8)]),
        (3, 19, [(2, 3), (8, 1), (16, 5), (24, 4), (64, 4)]), (4, 19, [(2, 4), (8, 1), (16, 5), (24, 4), (64, 8)])]).me with
      regs := [(1, 0x30000), (2, 5), (4, 64), (5, 0x40000)] }

theorem witness_vector_load : ∃ o, vloadOf shapes (.vld 5 1 0 true true) = some o ∧ o.ok = true ∧ Writable shapes o.d ∧
    Declared shapes o.srcs ∧ shapes.rev1 shapes.cur = false ∧ (∀ e ∈ o.elems shapes, ∃ p, o.place shapes e = .ok p) ∧
    shapes.me.vec.al ≤ shapes.me.vec.vl ∧ shapes.me.vec.vl * wf shapes ≤ shapes.vlim :=
  ⟨_, rfl, by decide, by unfold Writable Declared User; decide, by unfold Declared User; decide, by decide,
    all_ok (by decide +kernel), by decide, by decide⟩
/-- Registers 1 and 5 hold I32 elements; g1 is an address so near the end of the mapped pages that element 2 of a unit-stride access
misses, and g5 one where element 1 does. -/
def edge : State :=
  (withV user [(1, 5, [(0, 7)]), (5, 5, [])]).setMe
    { (withV user [(1, 5, [(0, 7)]), (5, 5, [])]).me with regs := [(1, 0xFFDFFFFFF8), (2, 5), (5, 0xFFDFFFFFFC)] }

theorem witness_no_stop : shapes.me.stop = none ∧ edge.me.stop = none ∧ edge.me.vec.freeze = false := by decide
theorem witness_vector_load_faults : ∃ o, vloadOf edge (.vld 6 1 0 false false) = some o ∧ o.ok = true ∧ Writable edge o.d ∧
    Declared edge o.srcs ∧ (∃ f, FirstFault (o.elems edge) (o.place edge) 2 f) ∧ 0 < granuleStart edge.me.vec 2 ∧
    deprecated (.vld 6 1 0 false false) = false :=
  ⟨_, rfl, by decide, by unfold Writable Declared User; decide, by unfold Declared User; decide,
    first_fault (by decide +kernel), by decide, rfl⟩
theorem witness_vector_load_stalls : ∃ o, vloadOf edge (.vld 6 5 0 false false) = some o ∧
    (∃ f, FirstFault (o.elems edge) (o.place edge) 1 f) ∧ granuleStart edge.me.vec 1 = 0 :=
  ⟨_, rfl, first_fault (by decide +kernel), by decide⟩
theorem witness_vector_load_deprecated : ∃ o, vloadOf edge (.dvlds2 6 5 0) = some o ∧ o.ok = true ∧
    (∃ f, FirstFault (o.elems edge) (o.place edge) 1 f) ∧ deprecated (.dvlds2 6 5 0) = true :=
  ⟨_, rfl, by decide, first_fault (by decide +kernel), rfl⟩
theorem witness_vector_store_faults : ∃ o, vstoreOf edge (.vst 1 1 0 false) = some o ∧ o.ok = true ∧
    Declared edge (o.d :: o.srcs) ∧ (∃ f, FirstFault (o.elems edge) (o.place edge) 2 f) ∧ 0 < granuleStart edge.me.vec 2 :=
  ⟨_, rfl, by decide, by unfold Declared User; decide, first_fault (by decide +kernel), by decide⟩
theorem witness_vector_store_stalls : ∃ o, vstoreOf edge (.vst 1 5 0 false) = some o ∧
    (∃ f, FirstFault (o.elems edge) (o.place edge) 1 f) ∧ granuleStart edge.me.vec 1 = 0 :=
  ⟨_, rfl, first_fault (by decide +kernel), by decide⟩

theorem witness_vector_gather : ∃ o, vloadOf shapes (.vgather 5 1 2 false false) = some o ∧ o.ok = true ∧ Writable shapes o.d ∧
    Declared shapes o.srcs ∧ (∀ e ∈ o.elems shapes, ∃ p, o.place shapes e = .ok p) :=
  ⟨_, rfl, by decide, by unfold Writable Declared User; decide, by unfold Declared User; decide, all_ok (by decide +kernel)⟩
theorem witness_vector_tile_load : ∃ o, vloadOf shapes (.tld 5 4 false false) = some o ∧ o.ok = true ∧ Writable shapes o.d ∧
    Declared shapes o.srcs ∧ (∀ e ∈ o.elems shapes, ∃ p, o.place shapes e = .ok p) :=
  ⟨_, rfl, by decide, by unfold Writable Declared User; decide, by unfold Declared User; decide, all_ok (by decide +kernel)⟩
theorem witness_broadcast : fmtOk shapes false = true ∧ maskOk shapes true = true ∧ Writable shapes 5 ∧
    shapes.rev1 shapes.cur = false ∧ (activeElems shapes true).head? = some 0 ∧
    ∃ p, checkRead shapes (shapes.env shapes.cur) (shapes.rd 1 + shapes.rd 0) (wf shapes) (wf shapes) = .ok p ∧ true = true :=
  ⟨by decide, by decide, by unfold Writable Declared User; decide, by decide, by decide, ok_of (by decide +kernel)⟩

theorem witness_vector_store : ∃ o, vstoreOf shapes (.vscatterO 1 5 2 true) = some o ∧ o.ok = true ∧
    Declared shapes (o.d :: o.srcs) ∧ shapes.rev1 shapes.cur = false ∧ (∀ e ∈ o.elems shapes, ∃ p, o.place shapes e = .ok p) :=
  ⟨_, rfl, by decide, by unfold Declared User; decide, by decide, all_ok (by decide +kernel)⟩
theorem witness_vector_tile_store : ∃ o, vstoreOf shapes (.tst 1 4 false) = some o ∧ o.ok = true ∧
    Declared shapes (o.d :: o.srcs) ∧ (∀ e ∈ o.elems shapes, ∃ p, o.place shapes e = .ok p) :=
  ⟨_, rfl, by decide, by unfold Declared User; decide, all_ok (by decide +kernel)⟩
theorem witness_dcopy : ∃ src dst : Nat → Place, Declared shapes [] ∧ shapes.me.replay = none ∧ fmtOk shapes false = true ∧
    bitAt (shapes.env shapes.cur).features 0 = true ∧ shapes.rev1 shapes.cur = false ∧
    ∀ e, e < shapes.me.vec.al →
      checkRead shapes (shapes.env shapes.cur) (shapes.rd 1 + ofN (e * wf shapes)) (wf shapes) (wf shapes) = .ok (src e) ∧
      checkWrite shapes (shapes.env shapes.cur) (shapes.rd 5 + ofN (e * wf shapes)) (wf shapes) (wf shapes) = .ok (dst e) := by
  let p : Place := { pas := [], tier := 0, key := 0, cache := 0 }
  have h : ∀ e, e < 4 → okWith (fun _ => true)
        (checkRead shapes (shapes.env shapes.cur) (shapes.rd 1 + ofN (e * wf shapes)) (wf shapes) (wf shapes)) = true ∧
      okWith (fun _ => true)
        (checkWrite shapes (shapes.env shapes.cur) (shapes.rd 5 + ofN (e * wf shapes)) (wf shapes) (wf shapes)) = true := by
    decide +kernel
  exact ⟨fun e => placeOr p (checkRead shapes (shapes.env shapes.cur) (shapes.rd 1 + ofN (e * wf shapes)) (wf shapes) (wf shapes)),
    fun e => placeOr p (checkWrite shapes (shapes.env shapes.cur) (shapes.rd 5 + ofN (e * wf shapes)) (wf shapes) (wf shapes)),
    by unfold Declared User; decide, rfl, rfl, by decide, by decide, fun e he => ⟨placeOr_ok (h e he).1, placeOr_ok (h e he).2⟩⟩
theorem witness_vector_atomic : ∃ (o : VAmo) (l : List (Nat × Place)), vamoOf shapes (.vamoadd 1 5 2 true false) = some o ∧ o.fmtOk = true ∧
    shapes.vtag o.d = shapes.me.vec.fmt ∧ offsets shapes o.b = true ∧ maskOk shapes o.m = true ∧ Writable shapes o.d ∧
    Declared shapes [o.b] ∧ l.map (·.1) = activeElems shapes o.m ∧
    ∀ x ∈ l, checkElemAtomic shapes (offsetAt shapes o.a o.b x.1) (wf shapes) o.onHost = .ok x.2 := by
  obtain ⟨l, h, k⟩ := places_of (f := fun e => checkElemAtomic shapes (offsetAt shapes 5 2 e) (wf shapes) true)
    (l := activeElems shapes true) (by decide +kernel)
  exact ⟨_, l, rfl, by decide, by decide, by decide, by decide, by unfold Writable Declared User; decide,
    by unfold Declared User; decide, h, k⟩

/-- No context has a fault queue. -/
theorem witness_no_queue (c : Nat) : (shapes.ctxAt c).fqsize = 0 := by
  by_cases h : c = 0
  · subst h; decide
  · simp [State.ctxAt, shapes, withV, State.setMe, State.setThread, user, base, State.reset, Map.getD, Map.find, Ne.symm h,
      Context.fqsize, Context.root]
    rfl
/-- Offsets of which the third is misaligned: elements 0 and 1 are performed, and the strip is cut at 2. -/
def crooked : State :=
  shapes.setMe { shapes.me with vregs := Map.put 2 { tag := 8, bytes := [(8, 4), (16, 2), (24, 8)] } shapes.me.vregs }

theorem witness_vector_atomic_cut : ∃ (o : VAmo) (r : List (Nat × Place)),
    vamoOf crooked (.vamoadd 1 5 2 false false) = some o ∧ o.fmtOk = true ∧ offsets crooked o.b = true ∧
    (∃ f, FirstFault (activeElems crooked o.m) (fun k => checkElemAtomic crooked (offsetAt crooked o.a o.b k) (wf crooked) o.onHost)
      2 f) ∧ granuleStart crooked.me.vec 2 = 2 ∧ r.map (·.1) = (activeElems crooked o.m).filter (fun k => decide (k < 2)) ∧
    ∀ y ∈ r, checkElemAtomic crooked (offsetAt crooked o.a o.b y.1) (wf crooked) o.onHost = .ok y.2 := by
  obtain ⟨l, h, k⟩ := places_of (f := fun e => checkElemAtomic crooked (offsetAt crooked 5 2 e) (wf crooked) true)
    (l := [0, 1]) (by decide +kernel)
  exact ⟨_, l, rfl, by decide, by decide, first_fault (by decide +kernel), by decide, h, k⟩
/-- A misaligned base: element 0 fails. -/
theorem witness_vector_atomic_fails : ∃ (o : VAmo) (e : Nat), vamoOf shapes (.vamoadd 1 2 2 true false) = some o ∧
    (activeElems shapes o.m).head? = some e ∧ granuleStart shapes.me.vec e = 0 ∧
    ∃ x, checkElemAtomic shapes (offsetAt shapes o.a o.b e) (wf shapes) o.onHost = .error (.flt x) ∧ x.cause ≠ 5 := by
  refine ⟨_, 0, rfl, by decide, by decide, ?_⟩
  have h : failsWith (fun e => match e with | .flt f => f.cause != 5 | .wait => false)
      (checkElemAtomic shapes (offsetAt shapes 2 2 0) (wf shapes) true) = true := by decide +kernel
  revert h
  cases checkElemAtomic shapes (offsetAt shapes 2 2 0) (wf shapes) true with
  | ok p => intro h; cases h
  | error e => cases e with
    | flt f => intro h; exact ⟨f, rfl, by simpa [failsWith] using h⟩
    | wait => intro h; cases h

/-- `edge` with offsets of 0, 4, 8 and 12 in register 2. -/
def edgeAtomic : State :=
  edge.setMe { edge.me with vregs := (2, { tag := 8, bytes := [(8, 4), (16, 8), (24, 12)] }) :: edge.me.vregs }

theorem witness_vector_atomic_trims : ∃ o, vamoOf edgeAtomic (.vamoadd 1 1 2 false false) = some o ∧ o.fmtOk = true ∧
    edgeAtomic.vtag o.d = edgeAtomic.me.vec.fmt ∧ offsets edgeAtomic o.b = true ∧
    (∃ f, FirstFault (activeElems edgeAtomic o.m)
      (fun k => checkElemAtomic edgeAtomic (offsetAt edgeAtomic o.a o.b k) (wf edgeAtomic) o.onHost) 2 f) ∧
    0 < granuleStart edgeAtomic.me.vec 2 ∧ edgeAtomic.me.vec.freeze = false ∧ edgeAtomic.me.vec.al ≤ edgeAtomic.me.vec.vl ∧
    edgeAtomic.me.vec.vl * wf edgeAtomic ≤ edgeAtomic.vlim :=
  ⟨_, rfl, by decide, by decide, by decide, first_fault (by decide +kernel), by decide, rfl, by decide, by decide⟩
theorem witness_vector_atomic_stalls : ∃ o, vamoOf edgeAtomic (.vamoadd 1 5 2 false false) = some o ∧
    (∃ f, FirstFault (activeElems edgeAtomic o.m)
      (fun k => checkElemAtomic edgeAtomic (offsetAt edgeAtomic o.a o.b k) (wf edgeAtomic) o.onHost) 1 f) ∧
    granuleStart edgeAtomic.me.vec 1 = 0 := ⟨_, rfl, first_fault (by decide +kernel), by decide⟩

/-! ## Witnesses: codewords, records, tiles -/

/-- Register 1 holds codewords of CB2 and 2 their scales. -/
def words : State := withV user [(1, 17, [(0, 0x35), (2, 9)]), (2, 16, [(0, 127)])]

theorem witness_codewords : words.vtag 1 = 17 ∧ words.vtag 2 = 16 ∧ maskOk words false = true ∧ Writable words 5 ∧
    Declared words [1, 2] ∧ (∀ e ∈ activeElems words false, trapsOn words.me.enables
      ((cb2Words words.me.fmode (el words 1 17 e) (el words 2 16 (e / 8))).foldl (fun f r => orF f r.2) 0) = false) :=
  ⟨by decide, by decide, by decide, by unfold Writable Declared User; decide, by unfold Declared User; decide, by decide +kernel⟩
theorem witness_codeword_place : 8 * 0 + 7 < 65536 ∧ (8 * 0 + 7 + 1) * 4 ≤ words.vlim ∧ words.me.stop = none := by decide
theorem witness_codeword_scale : (7 : Nat) < 8 ∧ (255 : Nat) = 255 ∧ (254 : Nat) ≠ 255 := by decide

/-- The bytes of an operand record: planes of four bits at 0x70000, scales at 0x80000, 128 by 128, owner 7. -/
def recordBytes : List (Nat × Byte) :=
  [(2, 7), (10, 8), (16, 128), (20, 128), (24, 4), (26, 7), (28, 7), (40, 0xFF), (41, 0xFF), (42, 0xFF), (43, 0xFF),
   (44, 0xFF), (45, 0xFF), (46, 0xFF), (47, 0xFF)]

def aPlane : OpRec :=
  { pbase := 0x70000, sbase := 0x80000, k := 128, n := 128, p := 4, cb := false, owner := 7, perm := 7, gen := 0,
    ada := 0xFFFFFFFF, adb := 0xFFFFFFFF, rank := 0 }

/-- A root whose record array lies at 0x60000, with the key 7 on its ring, and the record in slot 0 and in register 6. -/
def records : State :=
  { (withV user [(1, 1, [(0, 3)]), (6, 7, recordBytes)]) with
    mem := recordBytes.map (fun x => (0x60000 + x.1, x.2))
    ctxs := [(0, { Context.root with recbase := 0x60000, budget := { Budget.full with keys := [7] } })] }

/-- Record register 2 holds it, and a strip of 128-element granules. -/
def held : State :=
  withVec ((records.setQreg 2 (freshReg aPlane none))) (fun v => { v with gran := 7 })

theorem plane_of {x : Except Stop (RecKind × State)} {p : OpRec → Bool}
    (h : okWith (fun y => match y.1 with | .plane r => p r | _ => false) x = true) :
    ∃ r u, x = .ok (.plane r, u) ∧ p r = true := by
  obtain ⟨⟨k, u⟩, e, hp⟩ := ok_of h
  cases k with
  | plane r => exact ⟨r, u, e, hp⟩
  | link r => cases hp
  | bad r => cases hp

theorem witness_qld : User records ∧ (records.rd 0).toNat < records.myCtx.budget.records ∧
    ∃ r u, readSlot records (records.rd 0).toNat = .ok (.plane r, u) ∧ records.onRing r.owner = true :=
  ⟨rfl, by decide, plane_of (by decide +kernel)⟩
theorem witness_qmk : Declared records [6] ∧ records.vtag 6 = 7 ∧
    parseRecord ((List.range 64).map (records.vreg 6).byte) = .plane aPlane ∧ records.onRing aPlane.owner = true :=
  ⟨by unfold Declared User; decide, rfl, by decide +kernel, by decide⟩
theorem witness_qwin : held.qreg 2 = some (freshReg aPlane none) ∧ (held.rd 4).toNat ≤ aPlane.k ∧
    (held.rd 0).toNat % 128 = 0 ∧ (held.rd 0).toNat < aPlane.n := by decide +kernel
theorem witness_qld_bad : records.myCtx.budget.records ≤ (records.rd 1).toNat := by decide

/-- Tile 3 accumulates FP32 products of FP8 operands. -/
def tiled : State :=
  (withVec (withV user [(0, 18, [(0, 5)]), (1, 13, [(0, 0x38)]), (2, 14, [(1, 0x3C)]), (4, 11, [(2, 0x80), (3, 0x3F)]),
    (5, 5, [(0, 9)])]) (fun v => { v with gran := 7 })).setTile 3 { tag := 11, elems := [(5, 0x3F800000)] }

theorem witness_outer : ∃ o, mopOf tiled (.mopn 3 1 2 true) = some o ∧ o.ok = true ∧ TileReady tiled o.d [o.a, o.b] ∧
    mopTags (tiled.vtag o.a) (tiled.vtag o.b) (tiled.tile o.d).tag = true ∧ tiled.vtag o.a ≠ tagPsn ∧
    tiled.vtag o.b ≠ tagPsn ∧ maskOk tiled o.m = true ∧ tiled.me.replay = none ∧ tiled.me.stop = none ∧ activeElems tiled o.m ≠ [] ∧
    TileForm (tiled.tile o.d) :=
  ⟨_, rfl, by decide, ⟨by unfold Declared User; decide, task, rfl, by decide⟩, by decide, by decide, by decide, by decide,
    by decide, by decide, by decide, by unfold TileForm; decide⟩
theorem witness_outer_deprecated : ∃ o, mopOf tiled (.dmmac 3 1 2) = some o ∧ o.ok = true := ⟨_, rfl, by decide⟩
theorem witness_tile_moves : TileForm (tiled.tile 3) ∧ TileReady tiled 3 [] ∧ Writable tiled 6 ∧ (tiled.tile 3).tag = 11 ∧
    TileReady tiled 3 [4] ∧ tiled.vtag 4 = 11 ∧ TileReady tiled 3 [5] ∧ tiled.vtag 5 = 5 :=
  ⟨by unfold TileForm; decide, ⟨by unfold Declared User; decide, task, rfl, by decide⟩, by unfold Writable Declared User; decide,
    by decide, ⟨by unfold Declared User; decide, task, rfl, by decide⟩, by decide,
    ⟨by unfold Declared User; decide, task, rfl, by decide⟩, by decide⟩
theorem witness_tile_place : tilePlace (tiled.rd 0).toNat 3 = some 3 ∧ 3 ∈ activeElems tiled false ∧ (3 + 1) * 4 ≤ tiled.vlim := by
  decide

/-- Elements of a store that share no byte. -/
theorem apart_of {elems : List Nat} {place : Nat → Except Stop Place} {e : Nat}
    (h : okWith (fun p => decide p.pas.Nodup && elems.all (fun k => k == e ||
      okWith (fun q => p.pas.all (fun pa => !(q.pas.contains pa))) (place k))) (place e) = true) :
    ∃ p, place e = .ok p ∧ p.pas.Nodup ∧ ∀ k ∈ elems, k ≠ e → ∀ q, place k = .ok q → ∀ pa ∈ p.pas, pa ∉ q.pas := by
  obtain ⟨p, hp, h⟩ := ok_of h
  simp only [Bool.and_eq_true, decide_eq_true_eq, List.all_eq_true, Bool.or_eq_true, beq_iff_eq] at h
  refine ⟨p, hp, h.1, fun k m ne q hq pa hpa => ?_⟩
  rcases h.2 k m with rfl | hk
  · exact absurd rfl ne
  · obtain ⟨q', hq', hall⟩ := ok_of hk
    rw [hq] at hq'
    cases hq'
    simpa using List.all_eq_true.1 hall pa hpa

theorem witness_vector_store_apart : ∃ o, vstoreOf shapes (.vst 1 1 0 false) = some o ∧ shapes.me.vec.fmt ≠ 15 ∧
    0 ∈ o.elems shapes ∧ ∃ p, o.place shapes 0 = .ok p ∧ p.pas.Nodup ∧
      ∀ k ∈ o.elems shapes, k ≠ 0 → ∀ q, o.place shapes k = .ok q → ∀ pa ∈ p.pas, pa ∉ q.pas :=
  ⟨_, rfl, by decide, by decide, apart_of (by decide +kernel)⟩

/-! ## Witnesses: lines and probes -/

theorem not_waiting {ε α : Type} {x : Except ε α} {w : ε} (h : okWith (fun _ => true) x = true) : x ≠ .error w := by
  rintro rfl; cases h

theorem missed_of {α : Type} {x : Except Miss α}
    (h : failsWith (fun e => match e with | .at_ _ => true | _ => false) x = true) : ∃ m, x = .error (.at_ m) := by
  cases x with
  | ok a => cases h
  | error e => cases e with
    | at_ m => exact ⟨m, rfl⟩
    | wait => cases h
    | unread => cases h

theorem witness_flush : ∃ pas, CachedLine user (user.rd 1) pas := by
  obtain ⟨t, h, e⟩ := ok_of (x := transOf user (user.env user.cur).ctx (user.env user.cur).features (lineStart (user.rd 1)))
    (p := fun t => (user.waitsAt t.pa == false && decide (t.tier ≤ 1) && t.cache == 0 && t.pa % 128 == 0) &&
      ((List.range 128).map (t.pa + ·)).all (fun pa => uncachedPa pa == false)) (by decide +kernel)
  simp only [Bool.and_eq_true, beq_iff_eq, decide_eq_true_eq, List.all_eq_true] at e
  exact ⟨_, by decide, t, h, e.1.1.1.1, e.1.1.1.2, e.1.1.2, e.1.2, rfl, e.2⟩
theorem witness_flush_pending : pendingTwo.me.pend.find? (fun q => q.pa == 0x30001) =
      some { pa := 0x30001, val := 7, whole := false } ∧ Reaches pendingTwo.me.pend [0x30000, 0x30001] 0x30001 ∧
    pendingTwo.failedAt 0x30001 = false := ⟨by decide, .inl (by decide), by decide⟩
theorem witness_flush_window : OtherLine user 0x7FFFFFC0000000 := .inl (by decide)
theorem witness_flush_host : OtherLine hosted (hosted.rd 1) := by
  obtain ⟨t, h, e⟩ := ok_of (x := transOf hosted (hosted.env hosted.cur).ctx (hosted.env hosted.cur).features (lineStart (hosted.rd 1)))
    (p := fun t => hosted.waitsAt t.pa == false && decide (1 < t.tier)) (by decide +kernel)
  simp only [Bool.and_eq_true, beq_iff_eq, decide_eq_true_eq] at e
  exact .inr ⟨t, h, e.1, .inl e.2⟩
theorem witness_flush_missing : inWindow (user.rd 3) = false ∧
    ∃ m, transOf user (user.env user.cur).ctx (user.env user.cur).features (lineStart (user.rd 3)) = .error (.at_ m) :=
  ⟨by decide, missed_of (by decide +kernel)⟩
theorem witness_flush_not_canonical : ∃ m, transOf user (user.env user.cur).ctx (user.env user.cur).features
    (lineStart 0x0040000000000000) = .error (.at_ m) := missed_of (by decide +kernel)
/-- The middle table of the root's map is poisoned. -/
def tainted (s : State) : State := { s with poison := [0x10000] }

theorem poisoned_of {α : Type} {x : Except Miss α}
    (h : failsWith (fun e => match e with | .unread c h => c == 4 && !h | _ => false) x = true) : x = .error (.unread 4 false) := by
  cases x with
  | ok a => cases h
  | error e => cases e with
    | at_ m => cases h
    | wait => cases h
    | unread c b =>
      simp only [failsWith, Bool.and_eq_true, beq_iff_eq, Bool.not_eq_true'] at h
      rw [h.1, h.2]

theorem witness_flush_poisoned : inWindow ((tainted user).rd 1) = false ∧
    transOf (tainted user) ((tainted user).env (tainted user).cur).ctx ((tainted user).env (tainted user).cur).features
      (lineStart ((tainted user).rd 1)) = .error (.unread 4 false) := ⟨by decide, poisoned_of (by decide +kernel)⟩
theorem witness_probe_poisoned : transOf (tainted user) ((tainted user).env (tainted user).cur).ctx
      ((tainted user).env (tainted user).cur).features ((tainted user).rd 1) = .error (.unread 4 false) := poisoned_of (by decide +kernel)

/-- A table in host memory whose link answers with an error, and one that is poisoned. -/
def unlinked : State := { base with hostErr := [0x800000000] }

theorem witness_table_link : ∃ t : Trans, unlinked.waitsAt t.pa = false ∧ unlinked.poisonHome t.pa = false ∧
    unlinked.linkError t.pa = true ∧ (tainted user).poisonHome 0x10000 = true ∧ (tainted user).waitsAt 0x10000 = false :=
  ⟨{ pa := 0x8000000000000, rDeny := none, wDeny := none, xDeny := none, tier := 2, cache := 0, key := 0, large := false }, by
    decide +kernel⟩

/-- Another thread of the core holds a byte of the line dirty. -/
def sharing : State :=
  { user with threads := [(0, worker), (1, { worker with pend := [{ pa := 0x30001, val := 7, whole := false }] })] }

theorem witness_flush_sharer : ∃ x, Sharer sharing [0x30000, 0x30001] x ∧ dirtyAt x 0x30001 ≠ [] :=
  ⟨sharing.thread 1, .inl ⟨1, rfl, by decide⟩, by decide⟩
theorem witness_flush_mine : OnlyMine pendingTwo [0x30000, 0x30001] 0x30001 := by
  rintro x (⟨k, rfl, -⟩ | ⟨h, -⟩) ne
  · by_cases k0 : k = 0
    · subst k0; exact absurd rfl ne
    · simp [pendingTwo, State.setMe, State.setThread, user, base, State.thread, Map.getD, Map.find, Map.put, Ne.symm k0,
        dirtyAt, Thread.reset]
  · cases h
theorem witness_flush_view : (∀ x ∈ sharing.me.snap, x ≤ sharing.now) ∧ ∀ x ∈ sharing.savedThreads, x.alias_ ≠ sharing.cur := by
  decide
theorem witness_probe_fields : ∃ t : Trans, t.tier < 4 ∧ t.cache < 4 ∧ t.key < 65536 :=
  ⟨{ pa := 0, rDeny := some 2, wDeny := none, xDeny := none, tier := 3, cache := 2, key := 65535, large := true }, by decide⟩
theorem witness_zero_line : user.rev1 user.cur = false ∧
    ∃ p, checkWrite user (user.env user.cur) (lineStart (user.rd 1)) 128 1 = .ok p ∧ true = true :=
  ⟨by decide, ok_of (by decide +kernel)⟩
theorem witness_vprobe : User shapes ∧ maskOk shapes true = true ∧ shapes.me.stop = none ∧ Writable shapes 5 ∧
    (∀ k ∈ activeElems shapes true, transOf shapes (shapes.env shapes.cur).ctx (shapes.env shapes.cur).features
      (strideAt shapes 0 1 4 k) ≠ .error .wait) ∧
    ∀ k ∈ activeElems shapes true, ∃ u, flushLine shapes shapes.cur (strideAt shapes 0 1 4 k) = .ok u :=
  ⟨rfl, by decide, rfl, by unfold Writable Declared User; decide,
    fun k h => not_waiting (List.all_eq_true.1 (show ((activeElems shapes true).all (fun k => okWith (fun _ => true)
      (transOf shapes (shapes.env shapes.cur).ctx (shapes.env shapes.cur).features (strideAt shapes 0 1 4 k)))) = true by
        decide +kernel) k h),
    all_ok (by decide +kernel)⟩
/-- With all translations of user addresses through a poisoned table: what a vector probe counts is `hostPoisonMet`. -/
theorem witness_vprobe_poisoned : meetsUnread (transOf (tainted shapes) ((tainted shapes).env (tainted shapes).cur).ctx
      ((tainted shapes).env (tainted shapes).cur).features (strideAt (tainted shapes) 0 1 4 0)) ∧
    (∀ l : List Nat, hostPoisonMet l (fun _ => .error (.unread 4 true)) = l) ∧
    hostPoisonMet [0] (fun _ => .error (.unread 4 false)) = [] :=
  ⟨⟨4, false, poisoned_of (by decide +kernel)⟩, fun l => by simp [hostPoisonMet], rfl⟩
theorem witness_vpref_cut : Unstopped shapes ∧ User cut ∧ maskOk cut false = true ∧ cut.me.stop = some 3 ∧ 3 < cut.me.vec.al ∧
    cut.me.vec.freeze = false ∧ 0 < granuleStart cut.me.vec 3 := ⟨by unfold Unstopped; decide, rfl, by decide, rfl, by decide, rfl, by decide⟩
theorem witness_probe : transOf user (user.env user.cur).ctx (user.env user.cur).features (user.rd 1) ≠ .error .wait :=
  not_waiting (show okWith (fun _ => true)
    (transOf user (user.env user.cur).ctx (user.env user.cur).features (user.rd 1)) = true by decide +kernel)
theorem witness_probec : Sup root ∧ root.inSubtree root.me.ctx (root.rd 0).toNat = true ∧ root.live (root.rd 0).toNat = true ∧
    transOf root 0 root.features (root.rd 1) ≠ .error .wait :=
  ⟨rfl, by decide, by decide, not_waiting (show okWith (fun _ => true)
    (transOf root 0 root.features (root.rd 1)) = true by decide +kernel)⟩
theorem witness_probec_outside : Sup below ∧ below.inSubtree below.me.ctx (below.rd 0).toNat = false := by unfold Sup; decide
theorem witness_probec_dead : Sup root ∧ root.inSubtree root.me.ctx (root.rd 2).toNat = true ∧
    root.live (root.rd 2).toNat = false := by unfold Sup; decide

/-! ## Witnesses: weights through records -/

/-- Whether a record row's bytes can all be read. -/
def rowOk (u : State) (r : OpRec) (c row : Nat) (scales : Bool) : Bool :=
  row < r.k && (planeChecks u .read r c row).all (okWith (fun _ => true)) &&
  (!scales || r.sbase == 0 || (scaleChecks u .read r c (row / 64)).all (okWith (fun _ => true)))

theorem rowReads_of {u : State} {r : OpRec} {c row : Nat} {scales : Bool} (h : rowOk u r c row scales = true) :
    RowReads u r c row scales := by
  simp only [rowOk, Bool.and_eq_true, Bool.or_eq_true, Bool.not_eq_true', decide_eq_true_eq, beq_iff_eq] at h
  obtain ⟨⟨h1, h2⟩, h3⟩ := h
  refine ⟨h1, fun x hx => ?_, fun hs hb x hx => ?_⟩
  · obtain ⟨p, e, _⟩ := ok_of (List.all_eq_true.1 h2 x hx); exact ⟨p, e⟩
  · rcases h3 with (h3 | h3) | h3
    · rw [hs] at h3; cases h3
    · exact absurd h3 hb
    · obtain ⟨p, e, _⟩ := ok_of (List.all_eq_true.1 h3 x hx); exact ⟨p, e⟩

/-- The strip of `held` with tile 3 in FP32, activations of I8 in register 1, and in register 2 the entries of `mrx`: slot 0
for the first row, none for the others. -/
def weighted : State :=
  ((held.setTile 3 { tag := 11, elems := [] }).setMe
    { (held.setTile 3 { tag := 11, elems := [] }).me with vregs :=
      [(1, { tag := 1, bytes := [(0, 3)] }),
       (2, { tag := 6, bytes := (List.range 127).map (fun i => (4 * i + 7, 0xC0)) })] })

theorem witness_mrw : TileReady weighted 3 [1, 2] ∧ weighted.me.vec.gran = 7 ∧
    actTags (weighted.vtag 1) (weighted.tile 3).tag = true ∧ weighted.vtag 1 ≠ tagPsn ∧ maskOk weighted false = true ∧
    Uses weighted weighted 2 (freshReg aPlane none) 0 ∧ tileTakes (weighted.tile 3).tag (freshReg aPlane none).oprec = true ∧
    ∀ e ∈ activeElems weighted false, RowReads weighted aPlane ((freshReg aPlane none).j0 / 128)
      ((freshReg aPlane none).k0 + e / 128) true :=
  ⟨⟨by unfold Declared User; decide, task, rfl, by decide⟩, by decide, by decide, by decide, by decide,
    ⟨by decide, rfl, rfl⟩, by decide,
    fun e h => rowReads_of (List.all_eq_true.1 (show ((activeElems weighted false).all (fun e =>
      rowOk weighted aPlane ((freshReg aPlane none).j0 / 128) ((freshReg aPlane none).k0 + e / 128) true)) = true by
        decide +kernel) e h)⟩
theorem witness_mrw_ready : weighted.me.stop = none ∧ TileForm (weighted.tile 3) := ⟨rfl, by unfold TileForm; decide⟩

/-- The record's cursor at its last row, with 130 elements; and beyond it. -/
def lastRow (k0 : Nat) : State :=
  withVec (weighted.setQreg 2 { freshReg aPlane none with k0 := k0 }) (fun v => { v with vl := 130, al := 130 })

theorem witness_mrw_bounds : Uses (lastRow 127) (lastRow 127) 2 { freshReg aPlane none with k0 := 127 } 0 ∧
    (lastRow 127).me.vec.freeze = false ∧ 128 ∈ activeElems (lastRow 127) false ∧ aPlane.k ≤ 127 + 128 / 128 ∧ 0 < 128 / 128 ∧
    ∀ k ∈ activeElems (lastRow 127) false, k < 128 → RowReads (lastRow 127) aPlane
      ((freshReg aPlane none).j0 / 128) (127 + k / 128) true := by
  have h : rowOk (lastRow 127) aPlane ((freshReg aPlane none).j0 / 128) 127 true = true := by decide +kernel
  refine ⟨⟨by decide, rfl, rfl⟩, by decide, by decide, by decide, by decide, fun k _ l => ?_⟩
  rw [show 127 + k / 128 = 127 by omega]
  exact rowReads_of h
theorem witness_mrw_bounds_traps : Uses (lastRow 128) (lastRow 128) 2 { freshReg aPlane none with k0 := 128 } 0 ∧
    0 ∈ activeElems (lastRow 128) false ∧ aPlane.k ≤ 128 + 0 / 128 := ⟨⟨by decide, rfl, rfl⟩, by decide, by decide⟩

theorem witness_mrx : weighted.vtag 2 = 6 ∧ weighted.me.replay = none ∧
    ∃ x, resolvedRows weighted (weighted.tile 3).tag (weighted.vreg 2) = .ok x ∧
      (x.1.getD 0 none == some aPlane && (activeElems weighted false).all (fun e =>
        match x.1.getD (e % 128) none with
        | none => true
        | some r => weighted.me.mx.j0 + 128 ≤ r.n &&
          rowOk x.2 r (weighted.me.mx.j0 / 128) (weighted.me.mx.k0 + e / 128) true)) = true :=
  ⟨by decide, rfl, ok_of (by decide +kernel)⟩
/-- The cursor of `mrx` at the record's last row, with 130 elements; and beyond it. -/
def lastRowX (k0 : Nat) : State :=
  (lastRow 0).setMe { (lastRow 0).me with mx := { (lastRow 0).me.mx with k0 := k0 } }

theorem witness_mrx_bounds : (lastRowX 127).vtag 2 = 6 ∧ (lastRowX 127).me.replay = none ∧
    (lastRowX 127).me.vec.freeze = false ∧ 128 ∈ activeElems (lastRowX 127) false ∧ aPlane.k ≤ 127 + 128 / 128 ∧
    ∃ x, resolvedRows (lastRowX 127) ((lastRowX 127).tile 3).tag ((lastRowX 127).vreg 2) = .ok x ∧
      (x.1.getD (128 % 128) none == some aPlane && (activeElems (lastRowX 127) false).all (fun e => 128 ≤ e ||
        match x.1.getD (e % 128) none with
        | none => true
        | some r => (lastRowX 127).me.mx.j0 + 128 ≤ r.n &&
          rowOk x.2 r ((lastRowX 127).me.mx.j0 / 128) ((lastRowX 127).me.mx.k0 + e / 128) true)) = true :=
  ⟨by decide, rfl, by decide, by decide, by decide, ok_of (by decide +kernel)⟩
theorem witness_mrx_bounds_traps : 0 ∈ activeElems (lastRowX 128) false ∧ aPlane.k ≤ 128 + 0 / 128 ∧
    ∃ x, resolvedRows (lastRowX 128) ((lastRowX 128).tile 3).tag ((lastRowX 128).vreg 2) = .ok x ∧
      (x.1.getD (0 % 128) none == some aPlane) = true :=
  ⟨by decide, by decide, ok_of (by decide +kernel)⟩
theorem witness_munplane : Writable weighted 5 ∧ Uses weighted weighted 2 (freshReg aPlane none) 2 ∧
    weighted.rev1 weighted.cur = false ∧ weighted.me.vec.al * 4 ≤ weighted.vlim ∧
    ∀ e ∈ activeElems weighted false, RowReads weighted aPlane ((freshReg aPlane none).j0 / 128)
      ((weighted.rd 2).toNat + e / 128) false :=
  ⟨by unfold Writable Declared User; decide, ⟨by decide, rfl, rfl⟩, by decide, by decide,
    fun e h => rowReads_of (List.all_eq_true.1 (show ((activeElems weighted false).all (fun e =>
      rowOk weighted aPlane ((freshReg aPlane none).j0 / 128) ((weighted.rd 2).toNat + e / 128) false)) = true by
        decide +kernel) e h)⟩
theorem witness_mplane : Declared weighted [1] ∧ Uses weighted weighted 2 (freshReg aPlane none) 1 ∧
    weighted.rev1 weighted.cur = false ∧ weighted.vtag 1 ≠ tagPsn ∧
    planeSource (weighted.vtag 1) weighted.me.vec.gran (weighted.rd 2).toNat aPlane = true ∧
    ∀ j, j < (weighted.me.vec.al + 2 ^ weighted.me.vec.gran - 1) / 2 ^ weighted.me.vec.gran →
      ∀ x ∈ granuleChecks weighted aPlane ((freshReg aPlane none).j0 / 128) (j * 2 ^ weighted.me.vec.gran)
        weighted.me.enables (granuleOf weighted weighted.me.fmode (weighted.vreg 1) aPlane.p (weighted.rd 2).toNat 0
          weighted.me.vec.al j), ∃ p, x.2 = .ok p := by
  refine ⟨by unfold Declared User; decide, ⟨by decide, rfl, rfl⟩, by decide, by decide, by decide, fun j hj => ?_⟩
  have hj : j = 0 := by
    have : (weighted.me.vec.al + 2 ^ weighted.me.vec.gran - 1) / 2 ^ weighted.me.vec.gran = 1 := by decide
    omega
  subst hj
  exact all_ok (f := fun x : Nat × Except Stop Place => x.2) (by decide +kernel)
theorem witness_mplane_bits : ((granuleWrites weighted aPlane ((freshReg aPlane none).j0 / 128)
      (granuleOf weighted weighted.me.fmode (weighted.vreg 1) aPlane.p (weighted.rd 2).toNat 0 weighted.me.vec.al 0)).flatMap (·.1)).Nodup ∧
    (∃ c, c < 128 ∧ planeSrc weighted 1 aPlane.p 0 c ≠ none) ∧
    0 < granuleRows (weighted.vtag 1) ∧ 3 < aPlane.p ∧
    ∃ pl, checkKeyed weighted .write aPlane.owner (aPlane.planeRow ((freshReg aPlane none).j0 / 128) 3 (5 + 0)) 16 = .ok pl ∧
      (pl.pas.length == 16) = true := ⟨by decide +kernel, ⟨0, by decide, by decide +kernel⟩, by decide, by decide, ok_of (by decide +kernel)⟩
theorem witness_mplane_float : planeSource 9 13 64 { aPlane with p := 16 } = true ∧ granuleRows 9 = 64 := by decide

/-! ## Witnesses: iterators -/

/-- A RANGE of step 1 from 3 up to `hi`, and the iterator over it. -/
def aRange (hi : Word) : Slot := { Slot.empty with kind := 1, f0 := 3, f1 := hi, f2 := 1 }
def anIter (hi : Word) : Iter := { image := 0x30000, st := 0, total := 0, slots := [aRange hi] }

/-- Handle 2 is open over it. -/
def iterating (hi : Word) : State := user.setMe { worker with iters := [(2, anIter hi)] }

/-- An image of it at g1. -/
def imaged : State := { user with mem := [(0x30000, 1), (0x30040, 1), (0x30048, 3), (0x30050, 9), (0x30058, 1)] }

theorem witness_itopen : User imaged ∧ Map.find (2 : BitVec 3).toNat imaged.me.iters = none ∧
    (∃ x, readImage imaged (imaged.rd 1) = .ok x ∧ (Iter.ofBytes (imaged.rd 1) x.1 == some (anIter 9)) = true) ∧
    1 ≤ freeToUse imaged imaged.me.ctx 8 (imaged.cur / 8) := ⟨rfl, rfl, ok_of (by decide +kernel), by decide⟩
/-- Zeros are no image; and a context without ITERS. -/
theorem witness_itopen_bad : (∃ x, readImage user (user.rd 1) = .ok x ∧ (Iter.ofBytes (user.rd 1) x.1).isNone = true) ∧
    freeToUse { imaged with ctxs := [(0, { Context.root with budget := Budget.empty })] } imaged.me.ctx 8 (imaged.cur / 8) = 0 :=
  ⟨ok_of (by decide +kernel), by decide +kernel⟩
theorem witness_itclose : User (iterating 9) ∧ Map.find (2 : BitVec 3).toNat (iterating 9).me.iters = some (anIter 9) ∧
    ∃ u, writeImage (iterating 9) (anIter 9) = .ok u ∧ true = true := ⟨rfl, rfl, ok_of (by decide +kernel)⟩

theorem witness_pull_ready : PullReady (iterating 9) (anIter 9) 5 2 none ∧ PullReady (iterating 4) (anIter 4) 5 2 none := by
  unfold PullReady Writable Declared User; refine ⟨⟨by decide, by simp, by decide⟩, by decide, by simp, by decide⟩
theorem witness_pull_two : pullOf (.next2 5 2 6 false) = some (5, 2, some 6, false) ∧
    rootFits { anIter 9 with slots := [aRange 9, aRange 9, { Slot.empty with kind := 0x20 }] } true = true := by decide

/-- The pull of `next v5, it2`. -/
def thePull (hi : Word) : PullEnd × Pull × List (Word × Word) :=
  pullLoop ((anIter hi).slots.length - 1) ((iterating hi).me.vec.al - startElem (iterating hi).me)
    (pullStart (iterating hi) (anIter hi) 5 none) []

theorem witness_pull_full : pullOf (.next 5 2 true) = some (5, 2, none, true) ∧ (thePull 9).1 = .full ∧
    (thePull 9).2.1.d * wf (iterating 9) ≤ (iterating 9).vlim := ⟨rfl, by decide +kernel⟩
theorem witness_pull_exhausted : (thePull 4).1 = .exhausted ∧ (thePull 4).2.1.d * wf (iterating 4) ≤ (iterating 4).vlim := by
  decide +kernel
/-- An ARRAY of doublewords from `cur` on, of which the second is not mapped. -/
def anArray (cur : Word) : Iter :=
  { image := 0x30000, st := 0, total := 0
    slots := [{ Slot.empty with kind := 2, w := 3, f0 := 0xFFDFFFFFF8, f1 := 8, f2 := cur, f3 := 9 }] }

def loadingPull (cur : Word) : PullEnd × Pull × List (Word × Word) :=
  pullLoop ((anArray cur).slots.length - 1) (user.me.vec.al - startElem user.me) (pullStart (user.setMe { worker with iters := [(2, anArray cur)] }) (anArray cur) 5 none) []

/-- Whether a pull stopped on a fault. -/
def faulted (e : PullEnd) : Bool := match e with | .stopped (.flt _) => true | _ => false

theorem witness_pull_faults : PullReady (user.setMe { worker with iters := [(2, anArray 0)] }) (anArray 0) 5 2 none ∧
    faulted (loadingPull 0).1 = true ∧ 0 < (loadingPull 0).2.1.d := by
  refine ⟨?_, by decide +kernel, by decide +kernel⟩
  unfold PullReady Writable Declared User
  exact ⟨by decide, by simp, by decide⟩
theorem witness_pull_stalls : faulted (loadingPull 1).1 = true ∧ (loadingPull 1).2.1.d = 0 := by decide +kernel
theorem witness_range : (iterating 4).me.replay = none ∧ CountUp (anIter 4) (aRange 4) ∧
    (iterating 4).me.vec.al ≤ (iterating 4).me.vec.vl ∧ (iterating 4).me.vec.al * wf (iterating 4) ≤ (iterating 4).vlim :=
  ⟨rfl, ⟨rfl, by decide⟩, by decide⟩

/-! ## Witnesses: the copy engine -/

theorem witness_xcopy : Declared shapes [1, 3, 4] ∧ badHandle ((shapes.vreg 4).elem 8 16) = false ∧
    badHandle ((shapes.vreg 4).elem 8 17) = false ∧
    (∃ x, copyShapes shapes 3 4 ((shapes.vreg 4).elem 8 17) = some x) ∧
    shapes.me.cmds.length < 16 ∧ ∀ c ∈ shapes.me.cmds, c.id ≠ (1 : BitVec 7).toNat :=
  ⟨by unfold Declared User; decide, by decide, by decide, some_of (by decide +kernel), by decide⟩

/-- Four I32 elements copied from 0x30000 to 0x40000, with register 1 as the chunk mask. -/
def aCommand (ring : Word) : Command :=
  { serial := 1, id := 1, pc := 0x20000
    src := { base := 0x30000, rank := 1, fmt := 5, ext := [4], strides := [4] }
    dst := { base := 0x40000, rank := 1, fmt := 5, ext := [4], strides := [4] }
    barrier := 0, ring := ring, count := 4, width := 4, spad := { core := 0, crew := 0, base := 0, size := 0, swz := 0 }
    done := [], missing := [], why := [], full := [], slots := [] }
def copying (ring : Word) : State :=
  shapes.setMe { shapes.me with
    cmds := [aCommand ring], lastCmd := [(1, 1)], mine := [1], vregs := [(1, { tag := 20, bytes := [] })] }

theorem witness_xcopy_marked : shapes.me.markers = [] ∧ withMarker.me.markers ≠ [] := by decide
theorem witness_xcopy_waits : ∃ c ∈ (copying 0).me.cmds, c.id = (1 : BitVec 7).toNat := ⟨_, List.mem_cons_self, rfl⟩
theorem witness_xquery : User (copying 0) ∧ ((copying 0).rd 2).toNat ≤ 127 ∧
    commandOf (copying 0) (copying 0).cur ((copying 0).rd 2).toNat = none := by unfold User; decide
theorem witness_xquery_live : User (copying 0) ∧
    commandOf (withRegs (copying 0) [(2, 1)]) (copying 0).cur ((withRegs (copying 0) [(2, 1)]).rd 2).toNat =
      some (aCommand 0) := by unfold User; decide
theorem witness_xquery_bad : User (copying 0) ∧ 127 < ((copying 0).rd 1).toNat := by unfold User; decide
theorem witness_vacq : Declared (copying 0) [1] ∧ (copying 0).vtag 1 = 20 ∧
    Map.find (1 : BitVec 7).toNat (copying 0).me.lastCmd = some 1 := by unfold Declared User; decide
/-- Chunk 0 of the command is marked, and another thread has written one of its bytes since. -/
def acquiring : State :=
  { copying 0 with
    hist := [{ time := 2, pa := 0x40000, old := 1, who := .thread 3, kind := .plain, chunk := none },
             { time := 1, pa := 0x40000, old := 0, who := .engine 0, kind := .plain, chunk := some (1, 0) }]
    threads := [(0, { (copying 0).me with vregs := [(1, { tag := 20, bytes := [(0, 1)] })] })] }

theorem witness_vacq_chunk : ∃ c ∈ acquiring.hist, c.inChunks 1 (acquiring.vreg 1).setBits = true ∧
    ∃ e ∈ acquiring.hist, e.who ≠ .thread acquiring.cur ∧ c.pa = e.pa ∧ c.time < e.time := by decide

theorem witness_sector_bytes : SoundPlace user [0x40000, 0x40001] ∧
    (∀ x ∈ ([([0x30000, 0x30001], [0x40000, 0x40001])] : List (List Nat × List Nat)), x.1.length = x.2.length) ∧
    ∀ x ∈ ([([0x30000, 0x30001], [0x40000, 0x40001])] : List (List Nat × List Nat)), ∀ pa ∈ x.1, pa ∉ [0x40000, 0x40001] :=
  ⟨sound_of (by decide), by decide, by decide⟩
theorem witness_sector_done : chunkCount (aCommand 0) ≤ 1 := by decide
theorem witness_sector : commandOf (copying 0) (0 * 8 + 0) 1 = some (aCommand 0) ∧ 0 < chunkCount (aCommand 0) ∧
    0 < (aCommand 0).sectors 0 ∧ ((aCommand 0).doneMask 0).testBit 0 = false ∧
    ((aCommand 0).missMask 0).testBit 0 = false ∧ (aCommand 0).ring = 0 ∧ (aCommand 0).barrier = 0 ∧
    (checkSector (copying 0) (engineEnv (copying 0) (0 * 8 + 0) (aCommand 0)) (aCommand 0) 0
      ((aCommand 0).sectRange 0 0)).2 = none := by decide +kernel

/-- The same into a ring of four slots of 4 KiB at 0x30020, three free. -/
def ringing : State :=
  { copying 0x30020 with mem := [(0x30021, 16), (0x30024, 4), (0x3002A, 4), (0x30030, 3), (0x30034, 1)] }

theorem witness_slot : (ringing.thread (0 * 8 + 0)).cmds.find? (fun c => c.id == 1 && c.ring != 0) = some (aCommand 0x30020) ∧
    (aCommand 0x30020).nextSlot = some 0 ∧
    ∃ x, engineRing ringing (engineEnv ringing (0 * 8 + 0) (aCommand 0x30020)) (aCommand 0x30020) = .ok x ∧
      (ringTurn ringing (x.1.pas.headD 0) true (.inr (aCommand 0x30020).serial) && decide (1 ≤ x.2.free)) = true :=
  ⟨by decide +kernel, by decide +kernel, ok_of (by decide +kernel)⟩

/-! ## Witnesses: contexts -/

/-- The root beside context 1, with memory, g1 = 0x30000, g2 = 1, g3 = a value and g4 = 64. -/
def parent (c : Context) (mem : List Host.Cell) (x : Word) : State :=
  withRegs { root with ctxs := [(0, { Context.root with isol := true }), (1, c)], mem := mem }
    [(1, 0x30000), (2, 1), (3, x), (4, 64)]

theorem child_of {s : State} {id : Word} {c : Context}
    (h : (Map.find id.toNat s.ctxs == some c && c.depth != 0 && c.parent == s.me.ctx) = true) : Child s id c := by
  simp only [Bool.and_eq_true, bne_iff_ne, beq_iff_eq] at h
  exact ⟨h.1.1, h.1.2, h.2⟩

theorem record_of {s : State} {a : BitVec 7} {p : List Byte → State → Bool} (h0 : (s.rd a).toNat % 128 = 0)
    (h : okWith (fun x => p x.1 x.2) (loadHome (s.phase s.cur 2) (s.phase s.cur 2).cur
      ((s.phase s.cur 2).env (s.phase s.cur 2).cur) (s.rd a) 128 128) = true) :
    ∃ u l, RecordRead s u a l ∧ p l u = true := by
  obtain ⟨⟨l, u⟩, e, hp⟩ := ok_of h
  exact ⟨u, l, ⟨h0, e⟩, hp⟩

theorem request_of {s : State} {b : BitVec 7} {p : Request → State → Bool} (h0 : (s.rd b).toNat % 32 = 0)
    (h : okWith (fun x => p (Request.ofBytes x.1) x.2) (loadHome (s.phase s.cur 2) (s.phase s.cur 2).cur
      ((s.phase s.cur 2).env (s.phase s.cur 2).cur) (s.rd b) 32 32) = true) :
    ∃ u r, RequestRead s u b r ∧ p r u = true := by
  obtain ⟨⟨l, u⟩, e, hp⟩ := ok_of h
  exact ⟨u, _, ⟨h0, l, e, rfl⟩, hp⟩

/-- A descriptor of context 100 with 16 IDs, and one without IDs. -/
def described : State := parent child [(0x30000, 100), (0x30002, 16), (0x30028, 64)] 0

theorem witness_ctxmk : Sup described ∧ ∃ u l, RecordRead described u 1 l ∧
    (makeRefusals u (u.ctxAt u.me.ctx) l == []) = true :=
  ⟨rfl, record_of (p := fun l u => makeRefusals u (u.ctxAt u.me.ctx) l == []) (by decide) (by decide +kernel)⟩
theorem witness_ctxmk_refused : ∃ u l, RecordRead (parent child [] 0) u 1 l ∧
    (makeRefusals u (u.ctxAt u.me.ctx) l != []) = true :=
  record_of (p := fun l u => makeRefusals u (u.ctxAt u.me.ctx) l != []) (by decide) (by decide +kernel)

/-- A request for ten records. -/
def requested (c : Context) : State := parent c [(0x30000, 7), (0x30008, 10)] 0
def richChild : Context := { child with budget := { Budget.empty with records := 10 } }

theorem witness_ctxgrant : Child (requested child) ((requested child).rd 2) child ∧ child.state ≠ 5 ∧ (requested child).rd 2 ≠ 0 ∧
    ∃ u r, RequestRead (requested child) u 1 r ∧ (grantRefusals u (u.ctxAt u.me.ctx) child r == []) = true :=
  ⟨child_of (by decide), by decide, by decide,
    request_of (p := fun r u => grantRefusals u (u.ctxAt u.me.ctx) child r == []) (by decide) (by decide +kernel)⟩
theorem witness_ctxgrant_refused : ∃ u r, RequestRead (parent child [] 0) u 1 r ∧
    (grantRefusals u (u.ctxAt u.me.ctx) child r != [] && revokeRefusals child r != []) = true :=
  request_of (p := fun r u => grantRefusals u (u.ctxAt u.me.ctx) child r != [] && revokeRefusals child r != [])
    (by decide) (by decide +kernel)
theorem witness_ctxrevoke : Child (requested richChild) ((requested richChild).rd 2) richChild ∧
    ∃ u r, RequestRead (requested richChild) u 1 r ∧ (revokeRefusals richChild r == []) = true :=
  ⟨child_of (by decide), request_of (p := fun r _ => revokeRefusals richChild r == []) (by decide) (by decide +kernel)⟩
theorem witness_ctxrevoke_starts : ∃ u r, RequestRead (requested richChild) u 1 r ∧
    (revokeRefusals richChild r == [] && (startRevocation u richChild r).isSome) = true :=
  request_of (p := fun r u => revokeRefusals richChild r == [] && (startRevocation u richChild r).isSome) (by decide) (by decide +kernel)

/-- An older record of the core waits. -/
def heldBack : State :=
  { requested richChild with cores := [(0, { Core.reset with blocked := [anEntry] })] }

theorem witness_ctxrevoke_waits : ∃ u r, RequestRead heldBack u 1 r ∧
    (revokeRefusals richChild r == [] && (startRevocation u richChild r).isNone) = true :=
  request_of (p := fun r u => revokeRefusals richChild r == [] && (startRevocation u richChild r).isNone) (by decide) (by decide +kernel)
theorem witness_selfkey : root.me.ctx = 0 ∧ root.rd 0 = 0 ∧
    ∃ u r, RequestRead (parent child [(0x30000, 13), (0x30008, 9)] 0) u 1 r ∧ (r.item == 13) = true :=
  ⟨rfl, rfl, request_of (p := fun r _ => r.item == 13) (by decide) (by decide +kernel)⟩

/-- The child in each of its states. -/
def inState (n : Nat) : Context := { child with state := n, run := n == 2 }
def stated (n : Nat) : State := parent (inState n) [] 0

theorem witness_ctxdestroy : Child (stated 2) ((stated 2).rd 2) (inState 2) ∧ (inState 2).state ≠ 5 ∧
    Child (stated 5) ((stated 5).rd 2) (inState 5) ∧ (inState 5).state = 5 :=
  ⟨child_of (by decide), by decide, child_of (by decide), rfl⟩
theorem witness_ctxrun : Sup (stated 1) ∧ Child (stated 1) ((stated 1).rd 2) (inState 1) ∧ (inState 1).state = 1 ∧
    ∃ u, runFirst ((stated 1).setCtx { inState 1 with run := true, state := 2 }) (inState 1) = some u :=
  ⟨rfl, child_of (by decide), rfl, some_of (by decide +kernel)⟩
theorem witness_ctxrun_others : Child (stated 3) ((stated 3).rd 2) (inState 3) ∧ Child (stated 4) ((stated 4).rd 2) (inState 4) :=
  ⟨child_of (by decide), child_of (by decide)⟩
theorem witness_no_child : (∀ c, ¬ Child (stated 1) ((stated 1).rd 4) c) ∧
    (stated 1).inSubtree (stated 1).me.ctx ((stated 1).rd 4).toNat = true ∧
    Map.find ((stated 1).rd 4).toNat (stated 1).ctxs = none := by
  have h : Map.find ((stated 1).rd 4).toNat (stated 1).ctxs = none := by decide
  exact ⟨fun c k => (by rw [k.1] at h; cases h), by decide, h⟩
theorem witness_no_child_outside : (∀ c, ¬ Child below (below.rd 4) c) ∧
    below.inSubtree below.me.ctx (below.rd 4).toNat = false := by
  have h : Map.find (below.rd 4).toNat below.ctxs = none := by decide
  exact ⟨fun c k => (by rw [k.1] at h; cases h), by decide⟩
theorem witness_ctxq : (stated 2).inSubtree (stated 2).me.ctx ((stated 2).rd 2).toNat = true ∧
    Map.find ((stated 2).rd 2).toNat (stated 2).ctxs = some (inState 2) ∧ (stated 2).rd 0 = 0 := by decide

/-! ## Witnesses: launches -/

/-- A launch record of one crew of one task at 0x30000. -/
def launchable : State := { user with mem := [(0x30010, 1), (0x30014, 1), (0x30015, 1)] }

theorem witness_launch_marked : withMarker.me.markers ≠ [] ∧ user.me.markers = [] := by decide
theorem witness_launch_misaligned : (user.rd 2).toNat % 128 ≠ 0 := by decide
theorem witness_launch : ∃ u l, RecordRead launchable u 1 l ∧
    (launchStatus (u.ctxAt u.me.ctx) (launchable.rd 1) l == 0) = true :=
  record_of (p := fun l u => launchStatus (u.ctxAt u.me.ctx) (launchable.rd 1) l == 0) (by decide) (by decide +kernel)
theorem witness_launch_refused : ∃ u l, RecordRead user u 1 l ∧
    (launchStatus (u.ctxAt u.me.ctx) (user.rd 1) l == 17) = true :=
  record_of (p := fun l u => launchStatus (u.ctxAt u.me.ctx) (user.rd 1) l == 17) (by decide) (by decide +kernel)

/-- A launch of four crews of one task, nothing placed. -/
def aLaunch : Launch :=
  { handle := 0x30000
    desc := { code := 0, entry := 0, fuse := false, crews := 4, tasks := 1, stages := 1, vdecl := 0, tiles := 0, spad := 0, prio := 0,
              bw := 0, param := 0, done := 0, prereq := [0, 0, 0, 0], mirror := 0 }
    nextCrew := 0, firstCrew := 0, slices := 0, placed := 0, finished := 0, saved := [], aborts := 0, status := 0, features := 15
    order := 0, mode := .open_, timer := none, drainFrom := none, waitFrom := none, reserveAt := none, accepted := [], swap := 0
    keys := [], due := false }

def launched (s : State) (l : Launch) : State := { s with ctxs := [(0, { Context.root with launches := [l] })] }

theorem witness_lquery : user.launch user.me.ctx (user.rd 1) = none ∧
    (launched user aLaunch).launch user.me.ctx (user.rd 1) = some aLaunch := by decide
theorem witness_exit : User user ∧ user.me.task = some task ∧ user.me.markers = [] ∧ user.me.cmds = [] ∧ user.me.iters = [] :=
  ⟨rfl, rfl, rfl, rfl, rfl⟩
/-- With a handle open, whose image can be written back, and cannot; and with a command outstanding. -/
def opening (image : Word) : State :=
  user.setMe { worker with iters := [(2, { image := image, st := 0, total := 0, slots := [{ Slot.empty with kind := 1, f1 := 9, f2 := 1 }] })] }

theorem witness_exit_closes : (opening 0x30000).me.task = some task ∧ (opening 0x30000).me.markers = [] ∧
    (opening 0x30000).me.cmds = [] ∧ ∃ v, ClosesAll (opening 0x30000).me.iters (opening 0x30000) v := by
  refine ⟨rfl, rfl, rfl, ?_⟩
  obtain ⟨u, h, _⟩ := ok_of (x := writeImage (opening 0x30000)
    { image := 0x30000, st := 0, total := 0, slots := [{ Slot.empty with kind := 1, f1 := 9, f2 := 1 }] }) (p := fun _ => true)
    (by decide +kernel)
  exact ⟨_, u, h, rfl⟩
theorem witness_exit_stops : ∃ f, writeImage (opening 0x0040000000000000)
    { image := 0x0040000000000000, st := 0, total := 0, slots := [{ Slot.empty with kind := 1, f1 := 9, f2 := 1 }] } = .error (.flt f) :=
  failed_of (by decide +kernel)
theorem witness_exit_waits : (user.setMe { worker with cmds := [aCommand 0] }).me.cmds ≠ [] ∧
    (user.setMe { worker with cmds := [aCommand 0] }).me.markers = [] := by decide
theorem witness_exit_idle : (user.setMe { worker with task := none }).me.task = none := rfl

/-! ## Witnesses: maps, islands, features, counters -/

theorem witness_fdele : Sup (stated 2) ∧ Child (stated 2) ((stated 2).rd 2) (inState 2) ∧ badDeleg ((stated 2).rd 0).toNat = false ∧
    badDeleg ((parent child [] 0x8000000000000000).rd 3).toNat = true := ⟨rfl, child_of (by decide), by decide, by decide⟩

theorem migrates_of {u : State} {va : Word} {P : Option (Trans × Nat) → Bool}
    (h : (match freshTrans u u.me.ctx u.features (pageOf va) with
      | .error .wait => false
      | .error _ => P none
      | .ok t => match leafAt0 u u.features (u.mapRoots u.me.ctx) (va55 (pageOf va)) with
        | some (ea, _, size) => P (if size = 2 ^ 16 then some (t, ea) else none)
        | none => P none) = true) : ∃ p, MigratesFrom u va p ∧ P p = true := by
  unfold MigratesFrom
  cases ht : freshTrans u u.me.ctx u.features (pageOf va) with
  | error e => cases e with
    | wait => rw [ht] at h; cases h
    | at_ m => rw [ht] at h; exact ⟨none, rfl, h⟩
    | unread _ _ => rw [ht] at h; exact ⟨none, rfl, h⟩
  | ok t =>
    rw [ht] at h
    cases hl : leafAt0 u u.features (u.mapRoots u.me.ctx) (va55 (pageOf va)) with
    | none => simp only [hl] at h; exact ⟨none, rfl, h⟩
    | some x => simp only [hl] at h; exact ⟨_, rfl, h⟩

/-- A page in a larger leaf is no source: status 1. -/
theorem witness_pgmig_refused : ∃ p, MigratesFrom (root.phase root.cur 2) (root.rd 1) p ∧
    decide (migrationStatus p p = 1) = true := migrates_of (by decide +kernel)

/-- A source whose walk meets a poisoned table: status 1 too (log entry 107). -/
theorem witness_pgmig_poisoned : ∃ p, MigratesFrom ((tainted root).phase (tainted root).cur 2) ((tainted root).rd 1) p ∧
    decide (migrationStatus p p = 1) = true := migrates_of (by decide +kernel)

/-- Two pages of 64 KiB at 0x20000000 and 0x20010000, mapped by a bottom table at 0x40000. -/
def paged : State :=
  withRegs { root with mem := [(0x10008, 3), (0x1000B, 8), (0x1000C, 0), (0x40000, 0x1D), (0x40003, 0x0A), (0x40008, 0x1D),
    (0x4000B, 0x0C)] } [(1, 0x20000000), (2, 0x20010000)]

theorem witness_pgmig : ∃ p q x y, MigratesFrom (paged.phase paged.cur 2) (paged.rd 1) p ∧
    MigratesFrom (paged.phase paged.cur 2) (paged.rd 2) q ∧ migrationStatus p q = 0 ∧ p = some (x, 0x40000) ∧
    q = some (y, 0x40008) ∧ paged.waitsAt (x.pa / 2 ^ 16 * 2 ^ 16) = false ∧ paged.waitsAt (y.pa / 2 ^ 16 * 2 ^ 16) = false ∧
    y.pa / 2 ^ 16 = 6 := by
  obtain ⟨p, hp, h1⟩ := migrates_of (u := paged.phase paged.cur 2) (va := paged.rd 1)
    (P := fun p => decide (p.map (fun x => (x.1.pa / 2 ^ 16, x.2)) = some (5, 0x40000)) &&
      p.any (fun x => readablePage x.1)) (by decide +kernel)
  obtain ⟨q, hq, h2⟩ := migrates_of (u := paged.phase paged.cur 2) (va := paged.rd 2)
    (P := fun p => decide (p.map (fun x => (x.1.pa / 2 ^ 16, x.2)) = some (6, 0x40008)) &&
      p.any (fun x => readablePage x.1 && targetPage x.1)) (by decide +kernel)
  cases p with
  | none => exact absurd h1 (by decide)
  | some p => cases q with
    | none => exact absurd h2 (by decide)
    | some q =>
      obtain ⟨x, ea⟩ := p
      obtain ⟨y, eb⟩ := q
      simp only [Option.map_some, Option.any_some, Bool.and_eq_true, decide_eq_true_eq, Option.some.injEq, Prod.mk.injEq] at h1 h2
      obtain ⟨⟨a1, rfl⟩, r1⟩ := h1
      obtain ⟨⟨a2, rfl⟩, r2, t2⟩ := h2
      refine ⟨_, _, x, y, hp, hq, ?_, rfl, rfl, ?_, ?_, a2⟩
      · show (if (!(readablePage x)) = true then 1 else if (!(targetPage y)) = true then 2
          else if x.pa / 2 ^ 16 = y.pa / 2 ^ 16 then 3 else 0) = 0
        rw [r1, t2, if_neg (by decide), if_neg (by decide), if_neg (by rw [a1, a2]; decide)]
      · rw [a1]; decide +kernel
      · rw [a2]; decide +kernel
theorem witness_pgmig_apart : Apart paged 0x40000 0x40008 6 := by
  refine ⟨by decide, fun i h => ?_⟩
  have : ∀ i, i < 8 → (0x40000 + i) / 2 ^ 16 ≠ 6 ∧ (0x40008 + i) / 2 ^ 16 ≠ 6 ∧ paged.failedAt (0x40000 + i) = false ∧
    paged.failedAt (0x40008 + i) = false := by decide +kernel
  exact this i h
/-- The same page twice: status 3; a target in a larger leaf: status 2. -/
theorem witness_pgmig_same : ∃ p, MigratesFrom (paged.phase paged.cur 2) (paged.rd 1) p ∧
    decide (migrationStatus p p = 3 ∧ migrationStatus p none = 2) = true := migrates_of (by decide +kernel)

theorem witness_island_named : MayName root 63 ∧ ((withRegs root [(1, 63)]).rd 1).toNat = 63 ∧ (root.island 63).on = true ∧
    63 ≠ root.cur / 8 / 4 ∧ quadBusy root 63 = false ∧ ∀ c ∈ root.crews, c.quad ≠ 63 := by unfold MayName; decide +kernel
theorem witness_island_quad : MayName root 63 ∧ 63 ≠ root.cur / 8 / 4 ∧
    (({ root with islands := [(63, { Island.reset with on := false })] } : State).island 63).on = false ∧
    MayName root 64 ∧ MayName root 88 := by unfold MayName; decide
theorem witness_island_off : MayName root 79 ∧
    ({ root with islands := [(79, { Island.reset with on := false })] } : State).island 79 =
      { Island.reset with on := false } := by unfold MayName; decide
theorem witness_island_ends : MayName root 0 ∧ 0 = root.cur / 8 / 4 ∧ MayName root 80 ∧ MayName root 87 ∧ MayName root 89 := by
  unfold MayName; decide

/-- A supervisor of context 1, hard isolated, with the cores of quad 63. -/
def ownedQuad : State :=
  (parent { child with isol := true, budget := { Budget.empty with cores := 15 * 2 ^ 252 } } [] 0).setMe
    { (parent { child with isol := true, budget := { Budget.empty with cores := 15 * 2 ^ 252 } } [] 0).me with ctx := 1 }

theorem witness_island_own : MayName ownedQuad 63 := ⟨by decide, .inr (by decide +kernel)⟩
theorem witness_island_bad : Root (withRegs root [(1, 90)]) ∧ 89 < ((withRegs root [(1, 90)]).rd 1).toNat := by
  unfold Root Sup; decide
theorem witness_features : Root root ∧ ((withRegs root [(1, 3)]).rd 1).toNat ≤ 3 ∧ ((withRegs root [(1, 1)]).rd 1).toNat ≤ 1 ∧ ¬ Root user :=
  ⟨⟨rfl, rfl⟩, by decide, by decide, fun h => absurd h.1 (by unfold Sup; decide)⟩
theorem witness_counters : ((withRegs root [(1, 0x107)]).rd 1).toNat = 0x107 ∧ threadCounter user.me.cnt 7 = some 0 ∧
    threadCounter user.me.cnt 4 = none ∧ threadCounter user.me.cnt 3 = some 0 ∧ user.me.markers = [] ∧
    (user.setMe { worker with markers := [{ scope := 2, addr := 0x30000, count := 1, pc := 0x20000 }] }).me.markers ≠ [] := by decide

/-! ## Witnesses: what becomes ready -/

/-- A user thread of core 0 with a status. -/
def statused (x : Status) : State := { root with threads := (0, { worker with status := x }) :: root.threads }

theorem witness_lane_wake : ((statused .laneWait).thread (0 * 8 + 0)).status = .laneWait ∧ freeGroups (statused .laneWait) 0 ≠ [] := by
  decide
theorem witness_pause : ((statused (.pause 0)).thread (0 * 8 + 0)).status = .pause 0 ∧ 0 ≤ (statused (.pause 0)).cycle 0 ∧
    ((statused (.pause 1)).thread (0 * 8 + 0)).status = .pause 1 ∧ (statused (.pause 1)).cycle 0 < 1 := by decide
theorem witness_yield : ((statused (.yield 9 [4])).thread (0 * 8 + 0)).status = .yield 9 [4] ∧ (statused (.yield 9 [4])).cycle 0 < 9 ∧
    (∃ k ∈ [4], ((statused (.yield 9 [4])).thread (0 * 8 + k)).status = .ready) ∧
    ((statused (.yield 9 [3])).thread (0 * 8 + 0)).status = .yield 9 [3] ∧
    ∀ k ∈ [3], ((statused (.yield 9 [3])).thread (0 * 8 + k)).status ≠ .ready := by decide
theorem witness_waits_end : ((statused (.waiting 1 0x30000 5 0)).thread (0 * 8 + 0)).status = .waiting 1 0x30000 5 0 ∧
    ((statused (.ringWait true 0x30020 1 5)).thread (0 * 8 + 0)).status = .ringWait true 0x30020 1 5 ∧
    (root.thread (0 * 8 + 4)).status = .ready := by decide

/-- The root with an entry pending on core 0, and with one blocked. -/
def pended : State := { queued with cores := [(0, { Core.reset with pending := [anEntry] })] }
def blockedOn (n : Nat) : State :=
  { queued with cores := [(0, { Core.reset with pending := List.replicate n anEntry, blocked := [{ anEntry with written := true }] })] }

theorem witness_handler_entry : (pended.thread (0 * 8 + 4)).status = .ready ∧ (pended.thread (0 * 8 + 4)).h.served = none ∧
    ∃ e, nextEntry pended 0 = some e := ⟨by decide, by decide, some_of (by decide +kernel)⟩
theorem witness_handler_busy : (((serving HRegs.reset).thread (0 * 8 + 4)).h.served).isSome = true := by decide
theorem witness_marker_due : (withMarker.thread (0 * 8 + 0)).markersDue = true ∧ (root.thread (0 * 8 + 4)).markersDue = false := by
  decide
theorem witness_delivery : ((blockedOn 255).coreAt 0).blocked = [{ anEntry with written := true }] ∧
    ((blockedOn 255).coreAt 0).pending.length < 256 ∧ 256 ≤ ((blockedOn 256).coreAt 0).pending.length := by decide +kernel

/-- The oldest record that waits has no place in its queue yet; with the queue's memory not ready, it keeps waiting. -/
def waitingRecord (e : Entry) (ready : Nat) : State :=
  { queued with cores := [(0, { Core.reset with blocked := [e] })], mgmt := { queued.mgmt with ready := ready } }

theorem witness_delivery_kinds : anEntry.written = false ∧ anEntry.first = false ∧ anEntry.record.kind ≠ 0 ∧
    ({ anEntry with first := true } : Entry).first = true ∧ ({ anEntry with first := true } : Entry).written = false := by decide
theorem witness_delivery_waits : writeRecord (waitingRecord anEntry 0) anEntry.record ((waitingRecord anEntry 0).path 0) = none ∧
    ((waitingRecord anEntry 0).coreAt 0).pending.length < 256 := by decide +kernel
theorem witness_delivery_writes : ∃ w, writeRecord (waitingRecord anEntry (2 ^ 42 - 1)) anEntry.record
    ((waitingRecord anEntry (2 ^ 42 - 1)).path anEntry.owner) = some w := some_of (by decide +kernel)
theorem witness_no_such : ¬ ((256 : Nat) < 256 ∧ (0 : Nat) < 5) ∧ ¬ ((255 : Nat) < 256 ∧ (5 : Nat) < 5) := by decide

/-! ## Witnesses: crews -/

/-- The root context with a launch, which waits to be placed. -/
def placing (l : Launch) : State := launched root l

/-- The same with image slots and a reservation on quad 8, the first of die 1. -/
def keeping : State :=
  { root with
    reserved := [{ quad := 8, ctx := 0, handle := 0x30000, crew := 0 }]
    ctxs := [(0, { Context.root with launches := [aLaunch], imgbase := 0x100000, imgcount := 64 })] }

theorem some_with {α : Type} {x : Option α} {p : α → Bool} (h : x.any p = true) : ∃ a, x = some a ∧ p a = true := by
  cases x with
  | none => cases h
  | some a => exact ⟨a, rfl, h⟩

theorem witness_place_none : reservedCrew (placing aLaunch) 0 = none ∧
    Map.getD 0 [] (enterActive (placing aLaunch) 0).active = [] := by decide +kernel
theorem witness_place_reserved : ∃ x u, reservedCrew keeping 1 = some x ∧ commit keeping x.1 x.2.1 x.2.2.1 x.2.2.2 = some u := by
  obtain ⟨x, h, e⟩ := some_with (x := reservedCrew keeping 1) (p := fun x => (commit keeping x.1 x.2.1 x.2.2.1 x.2.2.2).isSome)
    (by decide +kernel)
  obtain ⟨u, hu⟩ := some_of e
  exact ⟨x, u, h, hu⟩
/-- The head of the list has nothing that fits. -/
theorem witness_place_leaves : reservedCrew { placing aLaunch with active := [(0, [(0, 3)])] } 0 = none ∧
    Map.getD 0 [] (enterActive { placing aLaunch with active := [(0, [(0, 3)])] } 0).active = [(0, 3)] ∧
    nextCrewOn (enterActive { placing aLaunch with active := [(0, [(0, 3)])] } 0) 0 0 = none := by decide +kernel

/-- What the head is given to place, and the state in which it places. -/
def given (s : State) : Nat := quantum s 0 0 0
def serving0 (s : State) (l : Launch) : State :=
  { enterActive s 0 with
    active := Map.put 0 [(0, given s - l.need)] (enterActive s 0).active
    turns := 0 :: s.turns.filter (· != 0) }

theorem witness_place_head : reservedCrew keeping 0 = none ∧ Map.getD 0 [] (enterActive keeping 0).active = [(0, 0)] ∧
    ∃ x u, nextCrewOn (enterActive keeping 0) 0 0 = some x ∧ x.1.need ≤ quantum keeping 0 0 0 ∧
      commit (serving0 keeping x.1) 0 x.1 x.2.1 x.2.2 = some u := by
  refine ⟨by decide +kernel, by decide +kernel, ?_⟩
  obtain ⟨x, h, e⟩ := some_with (x := nextCrewOn (enterActive keeping 0) 0 0)
    (p := fun x => decide (x.1.need ≤ quantum keeping 0 0 0) && (commit (serving0 keeping x.1) 0 x.1 x.2.1 x.2.2).isSome)
    (by decide +kernel)
  simp only [Bool.and_eq_true, decide_eq_true_eq] at e
  obtain ⟨u, hu⟩ := some_of e.2
  exact ⟨x, u, h, e.1, hu⟩

/-- Crews of eight tasks, and a SLICE of 1, which is a quantum of 1. -/
def narrow : State :=
  { root with ctxs := [(0, { Context.root with
      launches := [{ aLaunch with desc := { aLaunch.desc with tasks := 8 } }], imgbase := 0x100000, imgcount := 64
      budget := { Budget.full with slice := 1 } })] }

theorem witness_place_short : reservedCrew narrow 0 = none ∧ Map.getD 0 [] (enterActive narrow 0).active = [(0, 0)] ∧
    ∃ x, nextCrewOn (enterActive narrow 0) 0 0 = some x ∧ decide (quantum narrow 0 0 0 < x.1.need) = true :=
  ⟨by decide +kernel, by decide +kernel, some_with (by decide +kernel)⟩

/-- A launch of a higher priority fits nowhere. -/
def picky : State :=
  { root with ctxs := [(0, { Context.root with
      launches := [aLaunch, { aLaunch with handle := 0x30080, desc := { aLaunch.desc with prio := 1, tasks := 64 } }]
      imgbase := 0x100000, imgcount := 64 })] }

theorem witness_next_crew : (nextCrewOn picky 0 0).map (fun x => (x.1, x.2.1)) = some (aLaunch, 0) ∧
    ∃ x ∈ (picky.ctxAt 0).launches, eligible picky 0 x = true ∧ aLaunch.desc.prio < x.desc.prio :=
  ⟨by decide +kernel, { aLaunch with handle := 0x30080, desc := { aLaunch.desc with prio := 1, tasks := 64 } },
    by decide, by decide +kernel, by decide⟩

theorem named_of {s : State} (h : s.ctxs.all (fun p => p.2.id == p.1) = true) : Named s := by
  intro id c
  generalize s.ctxs = l at h
  induction l with
  | nil => intro k; cases k
  | cons p r ih =>
    obtain ⟨j, v⟩ := p
    simp only [List.all_cons, Bool.and_eq_true, beq_iff_eq] at h
    intro k
    simp only [Map.find] at k
    split at k
    · cases k; subst_vars; exact h.1
    · exact ih h.2 k

theorem witness_commit : (∃ t, commit keeping 0 aLaunch 0 [4, 4, 4, 4] = some t) ∧ ([4, 4, 4, 4] : List Nat).length = 4 ∧
    aLaunch.need ≤ ([4, 4, 4, 4] : List Nat).sum ∧
    (∀ i, i < 4 → ([4, 4, 4, 4] : List Nat).getD i 0 ≤ (freeUsers (commitBase keeping aLaunch 0) (4 * 0 + i)).length) ∧
    aLaunch.nextSaved = none ∧ imageRoom (commitBase keeping aLaunch 0) 0 aLaunch = true ∧ 0 < aLaunch.need ∧
    Named (commitBase keeping aLaunch 0) ∧ (commitBase keeping aLaunch 0).launch 0 aLaunch.handle = some aLaunch :=
  ⟨some_of (by decide +kernel), by decide, by decide, by decide, by decide, by decide +kernel, by decide,
    named_of (by decide), by decide⟩
/-- The wait of the crew behind it has been kept. -/
theorem witness_commit_parked : Map.find 1 ({ aLaunch with parked := [(1, 7)] } : Launch).parked = some 7 := rfl
theorem witness_starts_on : StartsOn (commitBase keeping aLaunch 0) 0 [4, 4, 4, 4] 0 0 := ⟨0, by decide, rfl⟩
theorem witness_starts_second : StartsOn (commitBase keeping aLaunch 0) 0 [1, 4, 4, 4] 4 11 := ⟨3, by decide, rfl⟩

/-- A launch with a crew saved by a forced pre-emption. -/
def savedLaunch : Launch := { aLaunch with nextCrew := 1, placed := 1, saved := [{ index := 0, threads := [worker] }] }

theorem witness_commit_saved : (∃ t, commit { keeping with ctxs := [(0, { Context.root with launches := [savedLaunch], imgbase := 0x100000, imgcount := 64 })] } 0 savedLaunch 0
      [4, 4, 4, 4] = some t) ∧ savedLaunch.need ≤ ([4, 4, 4, 4] : List Nat).sum ∧
    savedLaunch.nextSaved = some { index := 0, threads := [worker] } ∧
    ({ index := 0, threads := [worker] } : SavedCrew).threads[0]? = some worker ∧ worker.task.isSome = true ∧
    ∀ z ∈ [worker], z.iters = [] ∧ z.vec.loop = none :=
  ⟨some_of (by decide +kernel), by decide, by decide, rfl, rfl, by decide⟩

/-- A launch that has waited a millisecond, to which quad 3 has been offered. -/
def offeredTo : Launch := { aLaunch with reserveAt := some 3, waitFrom := some 0 }
def starving : State := { placing offeredTo with ns := 1000000 }

theorem offers_of {s : State} {ctx : Nat} {l : Launch} {q : Nat} (h : offerStands s ctx l q = true) : MayTake s ctx l q := by
  simp only [offerStands, Reservation.isOf, Bool.and_eq_true, List.any_eq_true, Bool.not_eq_true', List.any_eq_false, Bool.or_eq_true,
    beq_iff_eq] at h
  obtain ⟨⟨⟨⟨⟨h1, h2⟩, h3⟩, h4⟩, h6⟩, h5⟩ := h
  refine ⟨?_, h2, h3, h4, fun hf => h6.resolve_left (by rw [hf]; decide), fun r m => ⟨fun e => h5 r m (.inl e), fun c => ⟨fun e => h5 r m (.inr ⟨c, .inl ⟨⟨c, e.1⟩, e.2⟩⟩), fun e => h5 r m (.inr ⟨c, .inr e⟩)⟩⟩⟩
  cases hw : l.waitFrom with
  | none => rw [hw] at h1; cases h1
  | some w => rw [hw] at h1; exact ⟨w, rfl, by simpa using h1⟩

theorem witness_reservation : starving.launch 0 0x30000 = some offeredTo ∧ offeredTo.reserveAt = some 3 ∧
    MayTake starving 0 offeredTo 3 := ⟨by decide, rfl, offers_of (by decide +kernel)⟩
/-- A millisecond has not passed yet; and nothing has been offered. -/
theorem witness_no_reservation : (placing offeredTo).launch 0 0x30000 = some offeredTo ∧ ¬ MayTake (placing offeredTo) 0 offeredTo 3 ∧
    (placing aLaunch).launch 0 0x30000 = some aLaunch ∧ aLaunch.reserveAt ≠ some 3 := by
  refine ⟨by decide, ?_, by decide, by decide⟩
  rintro ⟨⟨w, h, l⟩, -⟩
  cases h
  exact absurd l (by decide)

/-- A placed crew of the launch. -/
def aCrew : Crew :=
  { id := 1, ctx := 0, handle := 0x30000, index := 0, quad := 0, fuse := false, live := [(0, 0)], spad := 0, regions := [], saved := [] }

/-- A slice timer that started at 0, 100 milliseconds ago. -/
def timed : State :=
  { placing { aLaunch with timer := some (0, 100000), nextCrew := 1, placed := 1 } with ns := 100000000, crews := [aCrew] }

theorem witness_slice_over : timed.launch 0 0x30000 = some { aLaunch with timer := some (0, 100000), nextCrew := 1, placed := 1 } ∧
    SliceOver timed 0 0x30000 { aLaunch with timer := some (0, 100000), nextCrew := 1, placed := 1 } :=
  ⟨by decide, (0, 100000), rfl, by decide +kernel⟩
theorem witness_slice_on : ¬ SliceOver (placing aLaunch) 0 0x30000 aLaunch := fun ⟨_, h, _⟩ => by cases h
theorem witness_slice_crewless : ¬ SliceOver { timed with crews := [] } 0 0x30000 { aLaunch with timer := some (0, 100000) } :=
  fun ⟨_, _, _, h, _⟩ => h (by decide)
theorem witness_drained : Drained (placing { aLaunch with mode := .draining }) 0 0x30000 { aLaunch with mode := .draining } ∧
    aLaunch.due = false ∧ aLaunch.saving = [] ∧
    (∃ u, writePosition (placing { aLaunch with mode := .draining }) 0 (savedOnce { aLaunch with mode := .draining })
      ({ aLaunch with mode := .draining } : Launch).nextCrew = some u) ∧
    ¬ Drained (placing aLaunch) 0 0x30000 aLaunch :=
  ⟨by unfold Drained; decide, rfl, rfl, some_of (by decide +kernel), by unfold Drained; decide⟩
/-- Memory of the first stack is not ready. -/
def unready (s : State) : State := { s with mgmt := { s.mgmt with ready := 2 ^ 42 - 3 } }

theorem witness_drained_waits : Drained (unready (placing { aLaunch with mode := .draining })) 0 0x30000 { aLaunch with mode := .draining } ∧
    writePosition (unready (placing { aLaunch with mode := .draining })) 0 (savedOnce { aLaunch with mode := .draining }) 0 =
      none :=
  ⟨by unfold Drained; decide, by decide +kernel⟩
/-- Forced pre-emptions of a launch, of crews that they save on an island that goes off. -/
def owed (l : List Preemption) : Launch := { aLaunch with saving := l }
def owing (l : List Preemption) (crews : List Crew) : State :=
  { placing (owed l) with islands := [(0, { Island.reset with draining := true })], crews := crews }

theorem witness_owed_saving : (owed [.island 0]).due = false ∧ (owed [.island 0]).saving ≠ [] ∧
    ∀ p ∈ (owed [.island 0]).saving, ¬ AllSaved (owing [.island 0] [aCrew]) 0 0x30000 p := by
  unfold AllSaved; decide +kernel
theorem witness_owed : AllSaved (owing [.island 0] []) 0 0x30000 (.island 0) ∧
    (∃ u, writePosition (forgets (owing [.island 0] []) 0 0x30000 (.island 0)) 0 (savedOnce (owed [.island 0]))
      (owed [.island 0]).nextCrew = some u) ∧
    writePosition (forgets (unready (owing [.island 0] [])) 0 0x30000 (.island 0)) 0 (savedOnce (owed [.island 0])) 0 = none :=
  ⟨by unfold AllSaved; decide +kernel, some_of (by decide +kernel), by decide +kernel⟩

/-- Two pre-emptions whose crews are all saved: one write each, with SLICES 1 and 2. -/
theorem witness_owed_twice : AllSaved (owing [.island 0, .island 1] []) 0 0x30000 (.island 0) ∧ ∃ u m w,
    writePosition (forgets (owing [.island 0, .island 1] []) 0 0x30000 (.island 0)) 0 (savedOnce (owed [.island 0, .island 1]))
      0 = some u ∧ u.launch 0 0x30000 = some m ∧ m.slices = 1 ∧ AllSaved u 0 0x30000 (.island 1) ∧
    writePosition (forgets u 0 0x30000 (.island 1)) 0 (savedOnce m) 0 = some w := by
  refine ⟨by unfold AllSaved; decide +kernel, ?_⟩
  obtain ⟨u, h, e⟩ := some_with (x := writePosition (forgets (owing [.island 0, .island 1] []) 0 0x30000 (.island 0)) 0
      (savedOnce (owed [.island 0, .island 1])) 0) (p := fun u =>
        (u.launch 0 0x30000).any (fun m => m.slices == 1 &&
          (writePosition (forgets u 0 0x30000 (.island 1)) 0 (savedOnce m) 0).isSome) &&
        (u.crewsOf 0 0x30000).isEmpty) (by decide +kernel)
  simp only [Bool.and_eq_true, Option.any_eq_true, List.isEmpty_iff, beq_iff_eq, Option.isSome_iff_exists] at e
  obtain ⟨⟨m, hm, h1, w, hw⟩, hc⟩ := e
  exact ⟨u, m, w, h, hm, h1, fun c mem => (by rw [hc] at mem; cases mem), hw⟩
/-- A position that memory which was not ready still owes. -/
theorem witness_due : (placing { aLaunch with due := true }).launch 0 0x30000 = some { aLaunch with due := true } ∧
    (∃ u, writePosition (placing { aLaunch with due := true }) 0 { aLaunch with due := true }
      ({ aLaunch with due := true } : Launch).nextCrew = some u) ∧
    writePosition (unready (placing { aLaunch with due := true })) 0 { aLaunch with due := true } 0 = none :=
  ⟨by decide, some_of (by decide +kernel), by decide +kernel⟩
theorem witness_position : ∃ p, checkWrite (placing aLaunch) (deviceEnv 0 aLaunch.features) (aLaunch.handle + 0x60) 32 1 = .ok p ∧
    true = true := ok_of (by decide +kernel)
theorem witness_stop_drained : (stated 3).live 1 = true ∧ ((stated 3).ctxAt 1).state = 3 ∧
    (∀ c ∈ (stated 3).crews, (stated 3).inSubtree 1 c.ctx = false) ∧
    (∀ c ∈ (stated 3).subtree 1, ∀ m ∈ c.launches, m.mode ≠ .stopping) ∧ ((stated 2).ctxAt 1).state ≠ 3 := by decide
theorem witness_preemption : targeted user (0 * 8 + 0) = false := by decide

/-- Bytes of a slot at addresses that no map can hold are not written. -/
theorem writeSlot_unmapped (s : State) (pool : Nat) : ∀ (l : List Byte) (va : Word), 2 ^ 56 ≤ va.toNat →
    va.toNat + l.length ≤ 2 ^ 60 → writeSlot s pool va l = some s
  | [], _, _, _ => rfl
  | b :: l, va, h1, h2 => by
    have hc : canonical va = false := by
      simp only [List.length_cons] at h2
      simp only [canonical, Bool.or_eq_false_iff, beq_eq_false_iff_ne]
      omega
    have hw : inWindow va = false := by simp [inWindow]; omega
    have hn : (va + 1).toNat = va.toNat + 1 := by
      have : va.toNat < 2 ^ 64 := va.isLt
      simp only [List.length_cons] at h2
      rw [BitVec.toNat_add, show (1 : Word).toNat = 1 from rfl]
      omega
    simp only [writeSlot, locate, hc, hw, Bool.or_self, Bool.not_false, if_true]
    exact writeSlot_unmapped s pool l (va + 1) (by omega) (by simp only [List.length_cons] at h2; omega)

theorem meetsSlot_unmapped (s : State) (pool : Nat) : ∀ {l : List Nat}, (∀ o ∈ l, o ≤ 2 ^ 24) →
    meetsSlot s pool ((2 ^ 56 : Word) + BitVec.ofNat 64 (0x800000 * 0)) l = s
  | [], _ => rfl
  | o :: l, h => by
    have ho := h o List.mem_cons_self
    have hv : ((2 ^ 56 : Word) + BitVec.ofNat 64 (0x800000 * 0) + BitVec.ofNat 64 o).toNat = 2 ^ 56 + o := by
      rw [BitVec.toNat_add, BitVec.toNat_ofNat, show ((2 ^ 56 : Word) + BitVec.ofNat 64 (0x800000 * 0)).toNat = 2 ^ 56 by decide]
      omega
    have hc : canonical ((2 ^ 56 : Word) + BitVec.ofNat 64 (0x800000 * 0) + BitVec.ofNat 64 o) = false := by
      simp only [canonical, Bool.or_eq_false_iff, beq_eq_false_iff_ne]
      omega
    have hw : inWindow ((2 ^ 56 : Word) + BitVec.ofNat 64 (0x800000 * 0) + BitVec.ofNat 64 o) = false := by
      generalize (2 ^ 56 : Word) + BitVec.ofNat 64 (0x800000 * 0) + BitVec.ofNat 64 o = va at hv
      simp [inWindow]; omega
    rw [meetsSlot, List.foldl_cons]
    simp only [locate, hc, hw, Bool.or_self, Bool.not_false, if_true]
    exact meetsSlot_unmapped s pool (fun x m => h x (List.mem_cons_of_mem _ m))

theorem slotPages_below {l : List (Nat × List Byte)} (h : l.all (fun r => decide (r.1 + r.2.length ≤ 2 ^ 24)) = true) :
    ∀ o ∈ slotPages l, o ≤ 2 ^ 24 := by
  intro o m
  simp only [slotPages, List.mem_eraseDups, List.mem_flatMap] at m
  obtain ⟨r, hr, m⟩ := m
  have := of_decide_eq_true (List.all_eq_true.1 h r hr)
  simp only [List.mem_cons, List.not_mem_nil, or_false] at m
  rcases m with rfl | rfl <;> omega

theorem saveImage_unmapped (s : State) (t : Thread) (k : Task) (h0 : (s.ctxAt k.image.1).imgbase = 2 ^ 56) (h1 : k.image.2 = 0)
    (h2 : (slotRuns t k.tiles).all (fun r => decide (r.1 + r.2.length ≤ 2 ^ 24)) = true) : saveImage s t k = some s := by
  simp only [saveImage, h0, h1]
  rw [meetsSlot_unmapped s k.image.1 (slotPages_below h2)]
  generalize slotRuns t k.tiles = l at h2
  induction l with
  | nil => rfl
  | cons r l ih =>
    simp only [List.all_cons, Bool.and_eq_true, decide_eq_true_eq] at h2
    have hr : r.1 ≤ 2 ^ 24 := Nat.le_trans (Nat.le_add_right _ _) h2.1
    have hv : ((2 ^ 56 : Word) + BitVec.ofNat 64 (0x800000 * 0) + BitVec.ofNat 64 r.1).toNat = 2 ^ 56 + r.1 := by
      rw [BitVec.toNat_add, BitVec.toNat_ofNat, show ((2 ^ 56 : Word) + BitVec.ofNat 64 (0x800000 * 0)).toNat = 2 ^ 56 by decide]
      omega
    simp only [List.foldl_cons, Option.bind_some]
    rw [writeSlot_unmapped s k.image.1 r.2 _ (by omega) (by omega)]
    exact ih h2.2

/-- The island of quad 0 goes off: the thread's crew is to be saved. Its slot lies where no map holds it. -/
def leaving (t : Thread) : State :=
  { user with
    threads := [(0, { t with task := some { task with tiles := 0 } })], islands := [(0, { Island.reset with draining := true })]
    crews := [{ aCrew with live := [(0, 0), (0, 1)] }]
    ctxs := [(0, { Context.root with launches := [{ aLaunch with nextCrew := 1, placed := 1 }], imgbase := 2 ^ 56, imgcount := 64 })] }

/-- A released replay of `vadd v5, v6, v7`. -/
def releasedReplay : Thread := { worker with replay := some { word := 0x80143078, pc := 0x20000, regs := [], rows := [] } }

theorem witness_preemption_stop : targeted (leaving releasedReplay) (0 * 8 + 0) = true ∧
    ∃ b, stopRequest (leaving releasedReplay) (0 * 8 + 0) = some b := ⟨by decide +kernel, some_of (by decide +kernel)⟩
theorem witness_preemption_waits : targeted (leaving { worker with stop := some 0 }) (0 * 8 + 0) = true ∧
    stopRequest (leaving { worker with stop := some 0 }) (0 * 8 + 0) = none ∧
    savable (leaving { worker with stop := some 0 }) (0 * 8 + 0) = false := by decide +kernel
theorem saves (s : State) (key : Nat) (k : Task) (hi : (s.thread key).iters = [])
    (h : saveImage { s with cur := s.cur } (({ s with cur := s.cur } : State).thread key) k = some s) :
    ∃ u, saveTask s key k = some u := by
  simp only [saveTask, hi, saveHandles, Option.bind_some]
  exact ⟨_, by rw [h]; rfl⟩

theorem witness_preemption_saves : ((leaving worker).thread (0 * 8 + 0)).task = some { task with tiles := 0 } ∧
    targeted (leaving worker) (0 * 8 + 0) = true ∧ stopRequest (leaving worker) (0 * 8 + 0) = none ∧
    savable (leaving worker) (0 * 8 + 0) = true ∧ (∃ u, saveTask (leaving worker) (0 * 8 + 0) { task with tiles := 0 } = some u) ∧
    (leaving worker).crews.find? (fun c => c.id == task.crewId) = some { aCrew with live := [(0, 0), (0, 1)] } ∧
    worker.iters = [] ∧ ∃ p ∈ ({ aCrew with live := [(0, 0), (0, 1)] } : Crew).live, p ≠ (0, 0) :=
  ⟨by decide, by decide +kernel, by decide +kernel, by decide +kernel,
    saves _ _ _ rfl (saveImage_unmapped (leaving worker) _ _ rfl rfl (by decide +kernel)), by decide, rfl, (0, 1), by decide, by decide⟩

/-! ## Witnesses: contexts that end -/

/-- A revocation of ten records, in its grace. -/
def aRevocation : Revocation :=
  { item := 7, qual := 0, v0 := 10, v1 := 0, deadline := 5, done := 0, core := 0, pc := 0x20000, phase := 0, cut := (0, 0) }

/-- Context 1 with it: with records left over, and with a child that holds them. -/
def revoking (ns : Nat) : State :=
  { parent { child with revs := [aRevocation], budget := { Budget.empty with records := 10 } } [] 0 with ns := ns }
def revokingHeld : State :=
  { revoking 0 with ctxs := (revoking 0).ctxs ++ [(2, { child with
      id := 2, count := 1, depth := 2, parent := 1, budget := { Budget.empty with records := 10 } })] }

theorem witness_revocation : ((revoking 0).ctxAt 1).revs[0]? = some aRevocation ∧
    givenUp (revoking 0) ((revoking 0).ctxAt 1) aRevocation = true ∧ aRevocation.phase = 0 ∧ (revoking 0).ns < aRevocation.deadline ∧
    (revokingHeld.ctxAt 1).revs[0]? = some aRevocation ∧ givenUp revokingHeld (revokingHeld.ctxAt 1) aRevocation = false ∧
    aRevocation.deadline ≤ (revoking 5).ns ∧ ((revoking 0).ctxAt 1).revs[1]? = none := by decide +kernel
/-- Revocations in their enforcement: of records, and of core 0, on which a crew of the child runs. -/
theorem witness_enforces : NoneRuns (marked (revoking 5) 1 aRevocation) ((marked (revoking 5) 1 aRevocation).ctxAt 1)
      (enforcing (revoking 5) aRevocation) ∧ aRevocation.item ≠ 3 ∧ aRevocation.item ≠ 4 ∧
    ∃ u, finishRevocation (marked (revoking 5) 1 aRevocation) 1 (enforcing (revoking 5) aRevocation) = some u :=
  ⟨fun x h => absurd (show x ∈ ([] : List Crew) from h) List.not_mem_nil, by decide, by decide, some_of (by decide +kernel)⟩

def coreRevocation : Revocation := { aRevocation with item := 1, v0 := 1, phase := 1 }
def revokingCore : State :=
  { parent { child with revs := [coreRevocation], budget := { Budget.empty with cores := 1 } } [] 0 with
    crews := [{ aCrew with ctx := 1 }] }

theorem witness_enforces_waits : ((revokingCore.ctxAt 1).revs[0]? = some coreRevocation) ∧ coreRevocation.phase < 2 ∧
    ¬ NoneRuns (marked revokingCore 1 coreRevocation) ((marked revokingCore 1 coreRevocation).ctxAt 1)
      (enforcing revokingCore coreRevocation) := by
  refine ⟨by decide, by decide, fun h => ?_⟩
  rcases h { aCrew with ctx := 1 } (by decide) (by decide) with k | ⟨_, k⟩
  · exact absurd k (by decide)
  · exact k (0, 0) (by decide) (by decide)

/-- A revocation of frames; and one in its shoot-down. -/
def frameRevocation : Revocation := { aRevocation with item := 3, v0 := 5, v1 := 1 }
def revokingFrames (phase : Nat) : State := parent { child with revs := [{ frameRevocation with phase := phase }] } [] 0

theorem witness_enforces_frames : frameRevocation.item = 3 ∧ ((revokingFrames 0).ctxAt 1).id = 1 ∧
    NoneRuns (marked (revokingFrames 0) 1 frameRevocation) ((marked (revokingFrames 0) 1 frameRevocation).ctxAt 1)
      (enforcing (revokingFrames 0) frameRevocation) := ⟨rfl, by decide, fun x h => absurd (show x ∈ ([] : List Crew) from h) List.not_mem_nil⟩
theorem witness_shoot_down : shootingRevs root = [] ∧
    (∃ x, x ∈ ({ root with shoot := [{ lo := 1, n := 16, frames := none }] } : State).shoot) ∧
    shootingRevs (revokingFrames 2) = [(1, { frameRevocation with phase := 2 })] ∧
    ∃ u, finishRevocation ((revokingFrames 2).shoot.foldl (fun u x => dropTlb (settleShot u x) x)
      { revokingFrames 2 with shoot := [] }) 1 { frameRevocation with phase := 2 } = some u :=
  ⟨by decide, ⟨_, List.mem_singleton.2 rfl⟩, by decide, some_of (by decide +kernel)⟩
theorem witness_finish : Named (revoking 0) ∧ ∃ u, finishRevocation (revoking 0) 1 aRevocation = some u :=
  ⟨named_of (by decide), some_of (by decide +kernel)⟩
/-- The child's map holds a page of 64 KiB at 0x20000000, whose frame a revocation takes back. -/
def revokedPage : Revocation := { aRevocation with item := 3, v0 := 0x20000000, v1 := 0x10000, phase := 1 }
def pagedChild : State := parent { child with revs := [revokedPage] } paged.mem 0

theorem witness_shoots : (∃ ls, revokedLeaves pagedChild (pagedChild.ctxAt 1) revokedPage = some ls ∧
      (ls.map (·.pa) == [0x40000] && ls.all (fun l => framesOf pagedChild (pagedChild.ctxAt 1) l == some [(5, 0)] &&
        (List.range 8).all (fun i => pagedChild.failedAt (l.pa + i) == false))) = true) ∧
    revokedPage ∈ (pagedChild.ctxAt 1).revs ∧
    revokedLeaves (unready pagedChild) ((unready pagedChild).ctxAt 1) revokedPage = none :=
  ⟨some_with (by decide +kernel), by decide, by decide +kernel⟩

/-- The child's map lies where its parent's map holds nothing, so that it has no leaf. -/
def unmapped (s : State) : Prop := tableEntry s (walk s s.features []) 0 1 = .ok (MapEntry.ofNat 0)

theorem gatherAll_empty {α β : Type} {f : α → Option (List β)} : ∀ {l : List α}, (∀ x ∈ l, f x = some []) → gatherAll f l = some []
  | [], _ => rfl
  | x :: r, h => by
    rw [gatherAll, h x List.mem_cons_self, gatherAll_empty (fun y m => h y (List.mem_cons_of_mem _ m))]
    rfl

theorem leaves_unmapped {s : State} {c : Context} (h : unmapped s) (hr : s.mapRoots c.parent = [0]) (hm : c.maproot = 2 ^ 42) :
    leavesOf s c 0 (2 ^ 55) = some [] := by
  have he : ∀ i, i < 8192 → entryAt s c 0 (2 ^ 42) i = some [] := by
    intro i hi
    have hx : bitsAt ((2 ^ 42 + 8 * i) % 2 ^ 55) 42 13 = 1 := by unfold bitsAt; omega
    have hw : walk s s.features [0] (2 ^ 42 + 8 * i) = .error (.at_ 0) := by
      rw [walk, walkMap, hx, show tableEntry s (walk s s.features []) 0 1 = _ from h]
      rfl
    rw [entryAt, hr, hw]
  have ht : tableEntries s c 0 (2 ^ 42) 0 (2 ^ 42) 0 (2 ^ 55) = some [] := by
    unfold tableEntries
    refine gatherAll_empty fun x m => ?_
    rw [tableIndexes, if_neg (by decide)] at m
    obtain ⟨y, hy, rfl⟩ := List.mem_map.1 m
    have := List.mem_range.1 hy
    refine he _ ?_
    omega
  rw [leavesOf, hm, ht]
  rfl

/-- Context 1 with that map, and the launches given. -/
def dying (l : List Launch) : State := parent { inState 5 with maproot := 2 ^ 42, launches := l } [] 0

theorem dying_unmapped (l : List Launch) : unmapped (dying l) := by
  unfold unmapped
  exact ok_eq (show okWith (fun e => e == MapEntry.ofNat 0) (tableEntry (dying []) (walk (dying []) (dying []).features []) 0 1) = true by
    decide +kernel)
theorem destroys_idle {s : State} {id : Nat} (hl : (s.ctxAt id).launches.filter Launch.live = []) (hr : (s.ctxAt id).revs = [])
    (hv : leavesOf s (s.ctxAt id) 0 (2 ^ 55) = some []) : (destroyOne s id).isSome = true := by
  simp only [destroyOne, hl, List.foldl_nil, hv, Option.bind_some, hr, forceRevocations, Option.map_some, Option.isSome_some]
theorem destroys_one {s : State} {id : Nat} {l : List Nat} (hl : l = [id]) (h : ∃ u, destroyOne s id = some u) :
    ∃ u, l.foldl (fun s id => s.bind (fun s => destroyOne s id)) (some s) = some u := by
  subst hl
  exact h
theorem destroys : ∃ u, destroyOne (dying []) 1 = some u :=
  some_of (destroys_idle (by decide) (by decide) (leaves_unmapped (dying_unmapped []) (by decide) (by decide)))
theorem witness_destroy : (dying []).live 1 = true ∧ ((dying []).ctxAt 1).state = 5 ∧
    (∀ c ∈ (dying []).subtree 1, ∀ l ∈ c.launches, ¬ Completing (dying []) c.id l) ∧ ((stated 2).ctxAt 1).state ≠ 5 ∧
    (∃ u, destroyOne (dying []) 1 = some u) ∧
    ∃ u, (deepestFirst (dying []) 1).foldl (fun s id => s.bind (fun s => destroyOne s id)) (some (dying [])) = some u := by
  refine ⟨by decide, by decide, by unfold Completing; decide, by decide, destroys, ?_⟩
  exact destroys_one (by decide +kernel) destroys
theorem witness_watchdog : (user.thread (0 * 8 + 0)).task = some task ∧ drainStart user (0 * 8 + 0) task = none := by decide

/-- The task's launch has drained since TIME 0. -/
def overdue (ns : Nat) : State :=
  { user with ns := ns, ctxs := [(0, { Context.root with launches := [{ aLaunch with drainFrom := some 0 }] })] }

theorem witness_watchdog_due : drainStart (overdue 400000000) (0 * 8 + 0) task = some 0 ∧
    max 0 task.hangFrom + 4000 * ((overdue 400000000).ctxAt task.ctx).budget.slice ≤ (overdue 400000000).ns ∧
    ¬ Watched (overdue 400000000) ((overdue 400000000).thread (0 * 8 + 0)) ∧
    (overdue 399999999).ns < max 0 task.hangFrom + 4000 * ((overdue 399999999).ctxAt task.ctx).budget.slice :=
  ⟨by decide, by decide, fun ⟨h, m, _⟩ => absurd m (List.not_mem_nil), by decide⟩

/-- Every crew of the launch has ended. -/
def ended : Launch := { aLaunch with nextCrew := 4, placed := 4, finished := 4 }

theorem witness_completion : (placing ended).launch 0 0x30000 = some ended ∧
    ended.allEnded ((placing ended).crewsOf 0 0x30000) = true ∧ ((placing ended).ctxAt 0).state ≠ 5 ∧ ended.due = false ∧
    ended.saving = [] ∧
    ended.mode ≠ .draining ∧ ended.mode ≠ .stopping ∧
    (∃ u, savePosition ((placing ended).completes ended 2) (.completion ended.order) 0 ended 1 [2] = some u ∧
      ∃ x, updateDone u 0 ended = .ok x ∧ true = true) ∧
    ended.desc.mirror = 0 ∧ aLaunch.allEnded ((placing aLaunch).crewsOf 0 0x30000) = false := by
  refine ⟨by decide, by decide, by decide, rfl, rfl, by decide, by decide, ?_, rfl, by decide⟩
  obtain ⟨u, h⟩ := some_of (x := savePosition ((placing ended).completes ended 2) (.completion ended.order) 0 ended 1 [2])
    (by decide +kernel)
  exact ⟨u, h, _, rfl, rfl⟩
/-- A complete launch of a context that is DESTROYING takes its steps first. -/
theorem witness_destroy_waits : (dying [ended]).live 1 = true ∧ ((dying [ended]).ctxAt 1).state = 5 ∧
    ∃ c ∈ (dying [ended]).subtree 1, ∃ l ∈ c.launches, Completing (dying [ended]) c.id l :=
  ⟨by decide, by decide, (dying [ended]).ctxAt 1, by decide, ended, List.mem_singleton.2 rfl, .inr (by decide)⟩
theorem witness_completion_dying : (dying [ended]).launch 1 0x30000 = some ended ∧
    ended.allEnded ((dying [ended]).crewsOf 1 0x30000) = true := by decide
theorem witness_state_byte : ∃ p, checkWrite (placing ended) (deviceEnv 0 ended.features) (ended.handle + 0x60) 1 1 = .ok p ∧
    true = true := ok_of (by decide +kernel)

/-- A launch with a completion word at 0x40000. -/
def counting : Launch := { ended with desc := { ended.desc with done := 0x40000 } }

theorem witness_done_word : counting.desc.done ≠ 0 ∧ ended.desc.done = 0 ∧
    ∃ p, checkAtomic (placing counting) (deviceEnv 0 counting.features) counting.desc.done 8 false = .ok p ∧
      okWith (fun _ => true) (checkLink (placing counting) counting.desc.done p) = true :=
  ⟨by decide, rfl, ok_of (by decide +kernel)⟩

/-- STATE stands at 2, and the completion word's memory is not ready. -/
theorem witness_done_waits :
    (∃ x, updateDone ((unready (placing { counting with stateDone := true })).completes { counting with stateDone := true } 2) 0
      { counting with stateDone := true } = .error x) ∧ ended.stateDone = false ∧
    savePosition ((unready (placing ended)).completes ended 2) (.completion ended.order) 0 ended 1 [2] = none := by
  refine ⟨?_, rfl, by decide +kernel⟩
  have h : failsWith (fun _ => true) (updateDone ((unready (placing { counting with stateDone := true })).completes
    { counting with stateDone := true } 2) 0 { counting with stateDone := true }) = true := by decide +kernel
  revert h
  cases updateDone ((unready (placing { counting with stateDone := true })).completes { counting with stateDone := true } 2) 0
    { counting with stateDone := true } with
  | ok a => intro h; cases h
  | error e => exact fun _ => ⟨e, rfl⟩

/-- Its mirror Swap is in flight to the host's address 0. -/
def mirroring : Launch := { ended with mode := .mirror, desc := { ended.desc with mirror := 8 } }

theorem witness_mirror : ((placing mirroring).ctxAt 0).launches.find? (fun l => !l.live && l.handle == 0x30000) = some mirroring ∧
    ∀ pa ∈ runOf (0x8000000000000 + mirroring.desc.mirror.toNat) 8, (placing mirroring).linkError pa = false := by decide

/-! ## Witnesses: errors, limits, the host, peers, the package -/

theorem witness_walk : root.live 0 = true ∧ ∃ t, freshTrans root 0 root.features 0x30000 = .ok t ∧ true = true :=
  ⟨by decide, ok_of (by decide +kernel)⟩
theorem witness_walk_fails : ∃ x, freshTrans root 0 root.features 0x0040000000000000 = .error (.at_ x) :=
  missed_of (by decide +kernel)
theorem witness_publication : root.live 0 = true ∧ (63 : Nat) < 64 ∧ (∀ o ∈ [((29 : Nat), (1 : Nat), (0 : Nat))], o.1 < 30) := by decide
/-- A page at 0xFFE0000000 that may not be written, over the first 512 MiB. -/
def readOnly : State := { root with mem := [(0x13FF8, 0x15)] }

theorem witness_line_discarded : Discarded readOnly (0 * 8 + 4) 0x80 0xFFE0000080 := by
  obtain ⟨t, h, e⟩ := ok_of (x := freshTrans readOnly (readOnly.env (0 * 8 + 4)).ctx (readOnly.env (0 * 8 + 4)).features 0xFFE0000080)
    (p := fun t => t.wDeny.isSome && poisonUnit t.pa == poisonUnit 0x80) (by decide +kernel)
  rw [Bool.and_eq_true, beq_iff_eq] at e
  exact ⟨⟨t, h, e.1, e.2⟩, by decide⟩
theorem witness_line_lost : ¬ Discarded root (0 * 8 + 4) 0x30000 0x30000 := by
  rintro ⟨⟨t, h, d, _⟩, _⟩
  obtain ⟨u, k, e⟩ := ok_of (x := freshTrans root (root.env (0 * 8 + 4)).ctx (root.env (0 * 8 + 4)).features 0x30000)
    (p := fun t => t.wDeny.isNone) (by decide +kernel)
  rw [h] at k
  cases k
  rw [Option.isNone_iff_eq_none] at e
  rw [e] at d
  cases d
theorem witness_lane : (255 : Nat) < 256 ∧ 4 ≤ (errorsOf root { core := 255, lane := 255, word := 0 }).1 + 4 ∧
    2 ≤ (errorsOf root { core := 255, lane := 255, word := 0 }).2 + 2 ∧
    laneRetired root 255 255 = false ∧ ({ core := 255, lane := 255, word := 0 } : LaneWord).core = 255 := by decide
theorem witness_sram : isSpad 0x2FFFFFFFFFF = false ∧ (0x2FFFFFFFFFF : Nat) < 0x30000000000 ∧ tierOf 0x2FFFFFFFFFF = some 1 ∧
    (0x7FFFFF : Nat) < 0x800000 := by decide +kernel
theorem witness_power : (63 : Nat) < 64 ∧ (80 : Nat) ≤ 87 ∧ (87 : Nat) < 88 ∧
    Config.powerLimit < Config.powerLimit + 1 ∧ Config.powerLimit ≤ Config.powerLimit := ⟨by decide, by decide, by decide, Nat.lt_succ_self _, Nat.le_refl _⟩
theorem witness_poisoned_line : tierOf 0 = some 0 ∧ tierOf (2 ^ 60) ≠ some 0 ∧ isSpad 0 = false := by decide +kernel

/-- The host may reach device memory. -/
def opened : State := { base with mgmt := { base.mgmt with hdmOpen := true } }

theorem witness_host : HostOpen opened ∧ 0x2FFFFFFFFFF + ([1] : List Byte).length ≤ 0x30000000000 ∧
    (∀ a ∈ runOf 0x2FFFFFFFFFF 1, opened.waitsAt a = false) ∧ 0x30000000000 < 0x2FFFFFFFFFF + ([1, 2] : List Byte).length := by
  unfold HostOpen; decide +kernel
theorem witness_host_bytes : inReserve 0x2FFFFFFFFFF = false ∧ opened.failedAt 0x2FFFFFFFFFF = false ∧ opened.snoop = [] ∧
    poisonedSpan opened 0x2FFFFFFFFFF 1 = false := by decide +kernel
theorem witness_staging : base.hostLive = true ∧ base.mgmt.hdmOpen = false ∧ 0xFFFFFFF + ([1] : List Byte).length ≤ 0x10000000 ∧
    (∀ a ∈ runOf (0x20000 + 0xFFFFFFF) 1, base.waitsAt a = false) ∧ base.failedAt (0x20000 + 0xFFFFFFF) = false := by
  decide +kernel
theorem witness_window_read : base.hostLive = true ∧ (4096 : Nat) < 4089 + 8 := by decide

/-- A flit that passes, and one that does not. -/
theorem witness_flit : ∃ flit, flitPasses flit :=
  ⟨List.replicate 248 0 ++ leBytes 8 (crc64 Config.crcInit Config.crcLsbFirst (List.replicate 248 0)).toNat, by
    have h : ∀ x, (leBytes 8 x).length = 8 := fun _ => rfl
    refine ⟨by rw [List.length_append, List.length_replicate, h], ?_⟩
    rw [List.drop_append_of_le_length (Nat.le_of_eq List.length_replicate.symm),
      List.drop_of_length_le (Nat.le_of_eq List.length_replicate), List.nil_append,
      List.take_append_of_le_length (Nat.le_of_eq List.length_replicate.symm),
      List.take_of_length_le (Nat.le_of_eq List.length_replicate)]⟩
theorem witness_flit_bad : ¬ flitPasses [] := fun h => absurd h.1 (by decide)

/-- Port 15 with payloads held back behind one that failed. -/
def gapped (r : List (List Byte)) : State := { opened with ports := [(15, { Port.reset with queued := none :: r.map some })] }

theorem witness_flit_order : (opened.port 15).queued = [] ∧ (gapped [[1]]).portLive 15 = true ∧
    ((gapped [[1]]).port 15).queued = none :: [[1]].map some ∧ ((gapped []).port 15).queued = none :: ([] : List (Option (List Byte))) := by
  decide
theorem witness_port_memory : poisonedBytes opened (2 ^ 28 - 8) 8 = false ∧ (∀ a ∈ runOf (2 ^ 28 - 8) 8, opened.failedAt a = false) ∧
    requestSize (.atomic .add false 0 1) = 8 ∧ requestSize (.read 4) = 4 ∧ requestSize (.write [1, 2, 3, 4]) = 4 := by decide +kernel
theorem witness_port : opened.portLive 15 = true ∧ (opened.port 15).admits 0 4 = false ∧
    (({ opened with ports := [(15, { Port.reset with inCount := 1 })] } : State).port 15).admits (2 ^ 28 - 4) 4 = true ∧
    ∀ a ∈ runOf (2 ^ 28 - 4) 4, opened.waitsAt a = false := by decide +kernel
/-- Port 15 reaches a barrier at 0x100 that expects two arrivals; two flits wait for their acknowledgement. -/
def peered : State :=
  { opened with ports := [(15, { Port.reset with inCount := 1, replay := [[1], [2], [3]], unacked := 2 })], mem := [(0x104, 2)] }

theorem witness_peer_arrive : (peered.port 15).admits 0x100 (requestSize (.arrive 1)) = true ∧
    (∀ a ∈ runOf 0x100 32, peered.waitsAt a = false ∧ peered.failedAt a = false) ∧ poisonedBytes peered 0x100 32 = false ∧
    refusesArrival (numAt peered 0x104 2) (numAt peered 0x108 2) 1 = false ∧
    refusesArrival (numAt peered 0x104 2) (numAt peered 0x108 2) 0 = true := by decide +kernel
theorem witness_go : base.hostLive = true ∧ base.mgmt.status ≠ 2 ∧ bitAt base.mgmt.ready 1 = true ∧ bitAt base.mgmt.failed 1 = false ∧
    imglenOk 4 = true ∧ imglenOk 0x0FFE0000 = true ∧ State.reset.hostLive = false := by decide

/-- The running bank names a hash, and an image of four bytes is staged. -/
def keyed (h : List Byte) : State :=
  { base with mgmt := { base.mgmt with imglen := 4, bankA := { Bank.reset with keyHash := h } } }

theorem keyed_hash (h : List Byte) : (keyed h).mgmt.bank.keyHash = h := rfl
theorem keyed_key (h : List Byte) : (keyed h).mgmt.key = base.mgmt.key := rfl
theorem keyed_live (h : List Byte) : (keyed h).hostLive = true ∧ (keyed h).mgmt.status ≠ 2 ∧ imglenOk (keyed h).mgmt.imglen = true :=
  ⟨show base.hostLive = true by decide, show (0 : Nat) ≠ 2 by decide, show imglenOk 4 = true by decide⟩
theorem witness_go_key : ∃ s : State, sha384 s.mgmt.key = s.mgmt.bank.keyHash ∧ s.hostLive = true ∧ s.mgmt.status ≠ 2 ∧
    imglenOk s.mgmt.imglen = true :=
  ⟨keyed (sha384 base.mgmt.key), by rw [keyed_hash, keyed_key], keyed_live _⟩

/-- An image has been verified. -/
def verified : State := { base with mgmt := { base.mgmt with status := 2, imglen := 4 } }

theorem witness_runtime : verified.mgmt.status = 2 ∧ verified.mgmt.started = false ∧ (verified.island (255 / 4)).on = true ∧
    base.mgmt.status ≠ 2 := by decide
theorem witness_switch : base.mgmt.running ≤ 2 ∧ base.frozen = false := by decide
theorem witness_function : (41 : Nat) ≤ 41 ∧ (41 : Nat) < 42 := by decide
theorem witness_config_fields : (leBytes 8 5).length = 8 ∧ 0x27 + ([1] : List Byte).length ≤ 0x28 ∧ 0x1E0 ≤ 0x1E0 := by decide
theorem witness_config : base.hostLive = true ∧ 0x15F + ([1] : List Byte).length ≤ 0x160 ∧ 0x100 ≤ 0x15F ∧ ([1] : List Byte) ≠ [] := by
  decide

/-! ## Witnesses: steps and encodings -/

/-- The reset state with a word where the supervisor thread of core 0 fetches, and core 0's turn of no time. -/
def issuing (w : Nat) : State := { State.reset.withFetchWord 32 w with agenda := [.core 0 0] }

/-- The state in which the thread issues. -/
def chosen0 (s : State) : State := choose (wakeCore (tick 0 { s with agenda := [] }) 0) 0 4

theorem issues_of {s : State} (ha : s.agenda = [.core 0 0])
    (h : (!s.frozen && ((tick 0 { s with agenda := [] }).island 0).on &&
      pickSlot (wakeCore (tick 0 { s with agenda := [] }) 0) 0 == some 4) = true) : TurnIssues s (chosen0 s) 0 4 := by
  simp only [Bool.and_eq_true, Bool.not_eq_true', beq_iff_eq] at h
  exact ⟨_, 0, .inl ⟨[], ha, rfl⟩, h.1.1, by decide, h.1.2, h.2, rfl⟩

theorem fetched_of {v : State} {w : BitVec 32} (hr : v.me.replay = none) (hl : v.me.vec.loop = none)
    (h : okWith (· == w) (fetchWord v v.cur v.me.pc) = true) : NextWord v w := by
  obtain ⟨a, e, p⟩ := ok_of h
  exact .inr (.inr ⟨hr, hl, by rw [e, eq_of_beq p]⟩)

theorem witness_step : TurnIssues (issuing 0x020C0005) (chosen0 (issuing 0x020C0005)) 0 4 ∧
    NextWord (chosen0 (issuing 0x020C0005)) 0x020C0005 ∧ decode 0x020C0005 = .ok (.addi 3 0 5) :=
  ⟨issues_of rfl (by decide +kernel), fetched_of (by decide +kernel) (by decide +kernel) (by decide +kernel), rfl⟩
theorem witness_step_bad : TurnIssues (issuing 0x80000678) (chosen0 (issuing 0x80000678)) 0 4 ∧
    NextWord (chosen0 (issuing 0x80000678)) 0x80000678 ∧ decode 0x80000678 = .error .maskBit :=
  ⟨issues_of rfl (by decide +kernel), fetched_of (by decide +kernel) (by decide +kernel) (by decide +kernel), rfl⟩

/-- A PC that no map holds. -/
def lost : State := { root with threads := [(4, { root.me with pc := 0x0040000000000000 })], agenda := [.core 0 0] }

theorem witness_step_no_fetch : TurnIssues lost (chosen0 lost) 0 4 ∧ (chosen0 lost).me.replay = none ∧
    (chosen0 lost).me.vec.loop = none ∧
    ∃ f, fetchWord (chosen0 lost) (chosen0 lost).cur (chosen0 lost).me.pc = .error (.flt f) :=
  ⟨issues_of rfl (by decide +kernel), by decide +kernel, by decide +kernel, failed_of (by decide +kernel)⟩
theorem witness_step_event : ({ root with agenda := [.event .go 5] } : State).agenda = .event .go 5 :: [] ∧ encode .go = none ∧
    root.frozen = false := ⟨rfl, rfl, rfl⟩

/-- A word to replay. -/
def aReplay : Replay := { word := 0x020C0005, pc := 0x20000, regs := [], rows := [] }

theorem witness_next_replayed : NextWord (user.setMe { worker with replay := some aReplay }) 0x020C0005 :=
  .inl ⟨aReplay, rfl, rfl, rfl⟩
theorem witness_next_in_loop : NextWord (looping (aLoop 2 1 true)) 0x020C0005 :=
  .inr (.inl ⟨_, rfl, rfl, by decide, rfl⟩)

theorem witness_encodes : WellFormed (.vsltnX 127 1 2 true true) = true ∧
    ∃ w, encode (.vsltnX 127 1 2 true true) = some w := ⟨rfl, _, rfl⟩
/-- What a test finds of the next state. -/
def nextIs (p : State → Bool) : Out → Bool
  | .next t => p t
  | _ => false

theorem next_of {o : Out} (h : nextIs (fun _ => true) o = true) : ∃ t, o = .next t := by
  cases o with
  | next t => exact ⟨t, rfl⟩
  | fault f => cases h
  | refused r => cases h

theorem witness_keeps : (issuing 0x020C0005).memOk ∧ Bounded (issuing 0x020C0005) ∧ ∃ t, step (issuing 0x020C0005) = .next t :=
  ⟨by unfold State.memOk; decide +kernel, ⟨fun _ => (⟨Nat.zero_le _, Nat.zero_le _⟩ : Core.bounded Core.reset),
    fun _ => (by unfold Island.legal; decide : Island.legal Island.reset),
    fun _ => (⟨by decide, fun _ h => by cases h⟩ : Throttle.legal Throttle.reset)⟩, next_of (by decide +kernel)⟩

/-! ## One step on a small state, from the manual's rules -/

/-- 06 R100: addition wraps at 64 bits. -/
theorem test_add_wraps : nextIs (fun t => t.rd 5 == 4) (exec (.add 5 2 3) user) = true := by decide +kernel
/-- 06 R100: a source may be the destination. -/
theorem test_sub_in_place : nextIs (fun t => t.rd 2 == 6) (exec (.sub 2 2 3) user) = true := by decide +kernel
/-- 06 R103: the high half of a signed product. -/
theorem test_mulh_signed : nextIs (fun t => t.rd 5 == 0xFFFFFFFFFFFFFFFF) (exec (.mulh 5 2 3) user) = true := by decide +kernel
/-- 06 R103: a quotient by zero is all ones. -/
theorem test_divn_by_zero : nextIs (fun t => t.rd 5 == 0xFFFFFFFFFFFFFFFF) (exec (.divn 5 2 0) user) = true := by decide +kernel
/-- 06 R100: shift amounts take the low six bits. -/
theorem test_sra_amount : nextIs (fun t => t.rd 5 == 5) (exec (.sra 5 2 4) user) = true := by decide +kernel
/-- 06 R107: `jal` links the next instruction and jumps by four times its displacement. -/
theorem test_jal : nextIs (fun t => t.rd 15 == 0x20004 && t.me.pc == 0x1FFFC) (exec (.jal (-1)) user) = true := by decide +kernel
/-- 06 R109: a store and a load of one byte, sign-extended. -/
theorem test_store_load : nextIs (fun t => nextIs (fun u => u.rd 5 == 0xFFFFFFFFFFFFFFFF) (exec (.ld 5 1 0 0) t))
    (exec (.st 3 1 0 0) user) = true := by decide +kernel
/-- 09 R173: elements wrap in their own width, and those from AL on are left (07 R125). -/
theorem test_vadd : nextIs (fun t => t.vreg 4 |>.read 5 0 |> (· == 0x106)) (exec (.vadd 4 1 2 false false) ints) = true := by
  decide +kernel
/-- 09 R173: signed minimum. -/
theorem test_vmin_signed : nextIs (fun t => (t.vreg 4).read 5 3 == 0x80000000) (exec (.vmin 4 1 2 false false) ints) = true := by
  decide +kernel
/-- 09 R180: 1.0 divided by 0 is an infinity, and sets DZ. -/
theorem test_vfdiv : nextIs (fun t => (t.vreg 4).read 11 2 == 0x7F800000 && t.me.fpflags.getLsbD 3)
    (exec (.vfdiv 4 1 2 false false) floats) = true := by decide +kernel
/-- The FP32 elements 2²⁴, 1, 1 and 1 (08 R166). -/
def sums : State :=
  withV user [(2, 11, [(2, 0x80), (3, 0x4B), (6, 0x80), (7, 0x3F), (10, 0x80), (11, 0x3F), (14, 0x80), (15, 0x3F)])]

/-- 08 R165, R166: the sums of the manual's example, by the tree and in order. -/
theorem test_vfredsum : nextIs (fun t => t.rd 5 == 0x4B800001) (exec (.vfredsum 5 2 false) sums) = true := by decide +kernel
theorem test_vfredseq : nextIs (fun t => t.rd 5 == 0x4B800000) (exec (.vfredseq 5 2 false) sums) = true := by decide +kernel
/-- 08 R166: the least and the greatest element. -/
theorem test_vfredmin : nextIs (fun t => t.rd 5 == 0x3F800000) (exec (.vfredmin 5 2 false) sums) = true := by decide +kernel
theorem test_vfredmax : nextIs (fun t => t.rd 5 == 0x4B800000) (exec (.vfredmax 5 2 false) sums) = true := by decide +kernel
/-- 07 R131: a forced pre-emption at element 3 trims a mask form to the granule boundary 2. -/
theorem test_mnot_cut : nextIs (fun t => t.me.vec.al == 2 && t.me.vec.cause == 0x21 && t.me.stopped) (exec (.mnot 4 3) cut) =
    true := by decide +kernel
/-- 06 R99, 07 R133: `btrim` waits for what can change AL, and not for a segment reduction into v5. -/
theorem test_flags_settle : nextIs (fun t => t.me.flights == [⟨2, [.vreg 5]⟩])
    (exec (.btrim 1) (user.setMe { worker with flights := [⟨1, [.length, .vreg 4]⟩, ⟨2, [.vreg 5]⟩] })) = true := by decide +kernel
/-- 19 R316: `svc` traps, and the trap holds one fault until it is released. -/
theorem test_trap_call : nextIs (fun t => t.held.length == 1) (exec (.svc 9) user) = true := by decide +kernel
/-- 03 R41: a word that is no instruction is an encoding fault at its own address. -/
theorem test_step_bad : nextIs (fun t => t.core == 0) (step (issuing 0x80000678)) = true := by decide +kernel
/-- The first instruction after a load runs at 0x20000. -/
theorem test_first_step : nextIs (fun t => t.rd 3 == 5 && t.me.pc == 0x20004) (step (State.reset.withFetchWord 32 0x020C0005)) =
    true := by decide +kernel
/-- 17 R298; 23 R345: a peer's two arrivals raises PHASE. -/
theorem test_peer_arrives : nextIs (fun t => t.home 0x100 == 1 && t.home 0x108 == 0 &&
      (t.lastStore 0x108).any (fun e => e.who == .peer 15 && e.kind == .counted))
    (exec (.peerInboundRequest 15 0x100 (.arrive 2)) peered) = true := by decide +kernel
/-- 19 R328; 23 R344: a resume sends the unacknowledged flits again, and counts the retry. -/
theorem test_resume_resends : nextIs (fun t => (t.port 15).resent == [[2], [3]] && Map.getD 0x107 0 t.counters == 1)
    (exec .debugResume { peered with frozen := true }) = true := by decide +kernel

end Sys2Proof.Tests
end

/-! PROOFS. The scalar front end (06 R100 to R108, R115, R116): results, branches and jumps, binary64. -/

namespace Sys2Proof.Claims

open Sys2Proof.Machine

/-! ## What the shared ends of an instruction leave alone -/

/-- A change of the executing thread leaves the rest of the package. -/
theorem onlyMe_modMe (s : State) (f : Thread → Thread) : OnlyMe s (s.modMe f) :=
  ⟨rfl, fun _ h => s.thread_setThread_ne h _⟩

/-- A result written and the instruction retired: the register reads back, and no other register moves. -/
theorem answers_finish (s : State) (d : BitVec 7) (v : Word) : Answers (s.finish d v) s d v := by
  have hme : ((s.wr d v).retire).me = { s.me.retire with regs := (s.me.wr d v).regs } := by
    rw [s.me_finish, Thread.wr_eq, Thread.retire_withRegs]
  refine ⟨(s.wr d v).retire, rfl, ?frame, ?thread, ?result, fun p hp => ?others⟩
  case frame =>
    rw [State.wr, State.retire, s.modMe_modMe]
    exact onlyMe_modMe s _
  case thread => rw [hme]
  case result => rw [State.rd, s.me_finish, Thread.retire_rd, Thread.rd_wr_self]
  case others =>
    rw [hme]
    exact s.me.wr_getD d v hp

theorem wentOn_retire (s : State) : WentOn (.next s.retire) s :=
  ⟨s.retire, rfl, onlyMe_modMe s _, s.me_retire⟩

theorem jumped_jump (s : State) (pc : Word) : Jumped s (s.jump pc) pc :=
  ⟨onlyMe_modMe s _, s.me_modMe _⟩

/-! ## Arithmetic on numbers and on words

Each lemma reads a result written in arithmetic as the operation on words that the machine uses. -/

section Words

variable (x y : Word) (k : Nat)

@[simp] theorem ofN_toNat : ofN x.toNat = x := BitVec.eq_of_toNat_eq (by simp [ofN])

@[simp] theorem ofI_toInt : ofI x.toInt = x := BitVec.ofInt_toInt

@[simp] theorem ofN_add (m n : Nat) : ofN (m + n) = ofN m + ofN n := BitVec.ofNat_add m n

@[simp] theorem ofI_add (m n : Int) : ofI (m + n) = ofI m + ofI n := BitVec.ofInt_add m n

@[simp] theorem ofI_mul (m n : Int) : ofI (m * n) = ofI m * ofI n := BitVec.ofInt_mul m n

@[simp] theorem ofI_sub (m n : Int) : ofI (m - n) = ofI m - ofI n := by
  rw [Int.sub_eq_add_neg, ofI_add, BitVec.sub_eq_add_neg, ofI, ofI, ofI, BitVec.ofInt_neg]

@[simp] theorem ofI_natCast (n : Nat) : ofI n = ofN n := BitVec.ofInt_natCast 64 n

/-- A number that is the value of a word. -/
theorem ofN_eq {x : Word} {n : Nat} (h : x.toNat = n) : ofN n = x := by rw [← h, ofN_toNat]

theorem ofI_eq {x : Word} {n : Int} (h : x.toInt = n) : ofI n = x := by rw [← h, ofI_toInt]

/-! ### Shifts and rotations -/

@[simp] theorem ofN_mul_two_pow : ofN (x.toNat * 2 ^ k) = x <<< k := by
  apply BitVec.eq_of_toNat_eq
  rw [BitVec.toNat_shiftLeft, Nat.shiftLeft_eq, ofN, BitVec.toNat_ofNat]

@[simp] theorem ofN_div_two_pow : ofN (x.toNat / 2 ^ k) = x >>> k :=
  ofN_eq (by rw [BitVec.toNat_ushiftRight, Nat.shiftRight_eq_div_pow])

@[simp] theorem ofI_div_two_pow : ofI (x.toInt / 2 ^ k) = x.sshiftRight k :=
  ofI_eq (by rw [BitVec.toInt_sshiftRight, Int.shiftRight_eq_div_pow]; rfl)

/-- A signed number times a power of two is its word shifted left. -/
theorem ofI_mul_two_pow (m : Int) : ofI (m * (2 ^ k : Nat)) = ofI m <<< k := by
  rw [ofI_mul, ofI_natCast, BitVec.shiftLeft_eq_mul_twoPow]
  congr 1
  exact BitVec.eq_of_toNat_eq (by simp [ofN])

theorem amount_lt : amount x < 64 := Nat.mod_lt _ (by decide)

theorem rotated_eq {k : Nat} (h : k < 64) : rotated x k = x.rotateRight k := by
  rw [BitVec.rotateRight_def, Nat.mod_eq_of_lt h, rotated, ofN_add, ofN_div_two_pow, ofN_mul_two_pow]
  apply BitVec.add_eq_or_of_and_eq_zero
  apply BitVec.eq_of_getLsbD_eq
  intro i hi
  by_cases hlow : i < 64 - k
  · simp [hlow]
  · simp [BitVec.getLsbD_of_ge x (k + i) (by omega)]

/-! ### Order -/

theorem ofI_min : ofI (min x.toInt y.toInt) = if x.slt y then x else y := by
  by_cases h : x.toInt < y.toInt
  · rw [Int.min_eq_left (Int.le_of_lt h), if_pos (BitVec.slt_iff_toInt_lt.mpr h), ofI_toInt]
  · rw [Int.min_eq_right (Int.not_lt.mp h), if_neg (mt BitVec.slt_iff_toInt_lt.mp h), ofI_toInt]

theorem ofI_max : ofI (max x.toInt y.toInt) = if x.slt y then y else x := by
  by_cases h : x.toInt < y.toInt
  · rw [Int.max_eq_right (Int.le_of_lt h), if_pos (BitVec.slt_iff_toInt_lt.mpr h), ofI_toInt]
  · rw [Int.max_eq_left (Int.not_lt.mp h), if_neg (mt BitVec.slt_iff_toInt_lt.mp h), ofI_toInt]

theorem ofN_min : ofN (min x.toNat y.toNat) = if x.ult y then x else y := by
  by_cases h : x.toNat < y.toNat
  · rw [Nat.min_eq_left (Nat.le_of_lt h), if_pos (BitVec.ult_iff_lt.mpr h), ofN_toNat]
  · rw [Nat.min_eq_right (Nat.not_lt.mp h), if_neg (mt BitVec.ult_iff_lt.mp h), ofN_toNat]

theorem ofN_max : ofN (max x.toNat y.toNat) = if x.ult y then y else x := by
  by_cases h : x.toNat < y.toNat
  · rw [Nat.max_eq_right (Nat.le_of_lt h), if_pos (BitVec.ult_iff_lt.mpr h), ofN_toNat]
  · rw [Nat.max_eq_left (Nat.not_lt.mp h), if_neg (mt BitVec.ult_iff_lt.mp h), ofN_toNat]

end Words

/-! ### Comparisons with a register or an immediate, both given as the number that a word has -/

section Comparisons

variable (x : Word) {y : Word} {m : Int} {n : Nat}

theorem toInt_beq (x y : Word) : (x.toInt == y.toInt) = (x == y) := by
  rw [Bool.eq_iff_iff, beq_iff_eq, beq_iff_eq, BitVec.toInt_inj]

theorem toInt_beq_zero : (x.toInt == 0) = (x == 0) := toInt_beq x 0

theorem toNat_beq (x y : Word) : (x.toNat == y.toNat) = (x == y) := by
  rw [Bool.eq_iff_iff, beq_iff_eq, beq_iff_eq, BitVec.toNat_inj]

theorem b2w_beq (h : y.toInt = m) : b2w (x == y) = ofB (x.toInt == m) := by rw [← h, toInt_beq]; rfl

theorem b2w_bne (h : y.toInt = m) : b2w (x != y) = ofB (x.toInt != m) := by rw [← h, bne, bne, toInt_beq]; rfl

theorem b2w_beq_toNat (h : y.toNat = n) : b2w (x == y) = ofB (x.toNat == n) := by rw [← h, toNat_beq]; rfl

theorem b2w_bne_toNat (h : y.toNat = n) : b2w (x != y) = ofB (x.toNat != n) := by
  rw [← h, bne, bne, toNat_beq]; rfl

theorem b2w_slt (h : y.toInt = m) : b2w (x.slt y) = ofB (x.toInt < m) := by rw [← h]; rfl

theorem b2w_not_slt (h : y.toInt = m) : b2w (!(x.slt y)) = ofB (m ≤ x.toInt) := by
  rw [← h, BitVec.slt, ← decide_not]
  simp only [Int.not_lt]
  rfl

theorem b2w_ult (h : y.toNat = n) : b2w (x.ult y) = ofB (x.toNat < n) := by rw [← h]; rfl

theorem b2w_not_ult (h : y.toNat = n) : b2w (!(x.ult y)) = ofB (n ≤ x.toNat) := by
  rw [← h, BitVec.ult, ← decide_not]
  simp only [Nat.not_lt]
  rfl

/-- A sign-extended immediate has the value of the immediate. -/
theorem toInt_imm (i : BitVec 8) : (i.signExtend 64).toInt = i.toInt := BitVec.toInt_signExtend_of_le (by decide)

end Comparisons

/-! ### Constants (06 R106) -/

/-- Clearing the low ten bits rounds down to a multiple of 1024. -/
theorem and_not_low_ten (x : Word) : x &&& ~~~0x3FF#64 = ofN (x.toNat / 1024 * 1024) := by
  have hmask (i : Nat) : (0x3FF#64).getLsbD i = decide (i < 10) := Nat.testBit_two_pow_sub_one 10 i
  have hdiv : (x >>> 10).toNat = x.toNat / 1024 :=
    (BitVec.toNat_ushiftRight x 10).trans (Nat.shiftRight_eq_div_pow _ 10)
  have hshift : (x >>> 10) <<< 10 = ofN (x.toNat / 1024 * 1024) := hdiv ▸ (ofN_mul_two_pow (x >>> 10) 10).symm
  rw [← hshift]
  apply BitVec.eq_of_getLsbD_eq
  intro i hi
  rw [BitVec.getLsbD_and, BitVec.getLsbD_not, hmask, BitVec.getLsbD_shiftLeft, BitVec.getLsbD_ushiftRight]
  by_cases hlow : i < 10
  · simp [hlow]
  · simp [hlow, hi, Nat.add_sub_cancel' (Nat.not_lt.mp hlow)]

/-- Eighteen bits fill the place that a shift has left empty. -/
theorem shl_or_imm (x : Word) (i : BitVec 18) : x <<< 18 ||| i.setWidth 64 = ofN (x.toNat * 2 ^ 18 + i.toNat) := by
  have hi : ofN i.toNat = i.setWidth 64 := ofN_eq (BitVec.toNat_setWidth_of_le (by decide))
  rw [ofN_add, ofN_mul_two_pow, hi]
  refine (BitVec.add_eq_or_of_and_eq_zero _ _ ?_).symm
  apply BitVec.eq_of_getLsbD_eq
  intro j hj
  by_cases h18 : j < 18
  · simp [h18]
  · simp [BitVec.getLsbD_of_ge i j (by omega)]

/-! ### Bit operations (06 R104): the places of the set bits -/

/-- The places below `n` of the bits of a number that are set, in ascending order. -/
def onesBelow (n x : Nat) : List Nat := (List.range n).filter (bitAt x)

/-- One place more at the top. -/
theorem onesBelow_succ (n x : Nat) : onesBelow (n + 1) x = onesBelow n x ++ if bitAt x n then [n] else [] := by
  rw [onesBelow, List.range_succ, List.filter_append, List.filter_cons, List.filter_nil]
  rfl

/-- One place more at the bottom: the lowest bit stands before those of half the number. -/
theorem onesBelow_half (n x : Nat) :
    onesBelow (n + 1) x = (if x % 2 = 1 then [0] else []) ++ (onesBelow n (x / 2)).map (· + 1) := by
  have hbit (i : Nat) : bitAt x (i + 1) = bitAt (x / 2) i := by
    rw [bitAt, bitAt, Nat.div_div_eq_div_mul, Nat.pow_succ']
  have hlow : bitAt x 0 = decide (x % 2 = 1) := by simp [bitAt, BEq.beq]
  rw [onesBelow, List.range_succ_eq_map, List.filter_cons, List.filter_map, hlow]
  split <;> simp_all [onesBelow, Function.comp_def]

theorem lt_of_mem_onesBelow {n x i : Nat} (h : i ∈ onesBelow n x) : i < n :=
  List.mem_range.mp (List.mem_filter.mp h).1

theorem setBitsOf_eq (x : Word) : setBitsOf x = onesBelow 64 x.toNat :=
  List.filter_congr fun i _ => by
    rw [BitVec.getLsbD, Nat.testBit_eq_decide_div_mod_eq]; rfl

theorem leadingZeros_eq (n x : Nat) :
    leadingZeros n x = ((onesBelow n x).getLast?.map (n - 1 - ·)).getD n := by
  induction n with
  | zero => rfl
  | succ n ih =>
    rw [leadingZeros, onesBelow_succ]
    split
    · simp
    · rw [ih, List.append_nil]
      cases hlast : (onesBelow n x).getLast? with
      | none => rfl
      | some i =>
        have hi : i < n := lt_of_mem_onesBelow (List.mem_of_getLast? hlast)
        change n - 1 - i + 1 = n + 1 - 1 - i
        omega

theorem trailingZeros_eq (n x : Nat) : trailingZeros n x = (onesBelow n x).head?.getD n := by
  induction n generalizing x with
  | zero => rfl
  | succ n ih =>
    rw [trailingZeros, onesBelow_half]
    split
    · rfl
    · rw [ih, List.nil_append, List.head?_map]
      cases (onesBelow n (x / 2)).head? <;> rfl

theorem reverseBits_eq (n x : Nat) :
    reverseBits n x = ((onesBelow n x).map (fun i => 2 ^ (n - 1 - i))).sum := by
  induction n generalizing x with
  | zero => rfl
  | succ n ih =>
    have hshift : (fun i => 2 ^ (n + 1 - 1 - i)) ∘ (· + 1) = fun i => 2 ^ (n - 1 - i) := by
      funext i
      simp [Nat.sub_add_eq, Nat.sub_right_comm]
    rw [reverseBits, onesBelow_half, List.map_append, List.sum_append, List.map_map, hshift, ih]
    congr 1
    split
    next hodd => simp [hodd]
    next heven => simp [Nat.mod_two_ne_one.mp heven]

/-! ### Bytes in reverse order, and sign extension (06 R104) -/

@[simp] theorem length_leBytes (n x : Nat) : (leBytes n x).length = n := by
  induction n generalizing x with
  | zero => rfl
  | succ n ih => simp [leBytes, ih]

theorem leNat_append_singleton (l : List Byte) (b : Byte) :
    leNat (l ++ [b]) = leNat l + b.toNat * 256 ^ l.length := by
  induction l with
  | nil => simp [leNat]
  | cons c r ih =>
    simp only [List.cons_append, leNat, ih, List.length_cons]
    rw [Nat.mul_add, Nat.pow_succ', Nat.mul_left_comm b.toNat, Nat.add_assoc]

/-- The bytes of a number read in the opposite order. -/
theorem leNat_reverse_leBytes (n x : Nat) :
    leNat (leBytes n x).reverse = ((List.range n).map (fun i => x / 256 ^ i % 256 * 256 ^ (n - 1 - i))).sum := by
  induction n generalizing x with
  | zero => rfl
  | succ n ih =>
    have hshift : (fun i => x / 256 ^ i % 256 * 256 ^ (n + 1 - 1 - i)) ∘ Nat.succ =
        fun i => x / 256 / 256 ^ i % 256 * 256 ^ (n - 1 - i) := by
      funext i
      simp [Nat.div_div_eq_div_mul, Nat.pow_succ', Nat.sub_add_eq, Nat.sub_right_comm]
    rw [leBytes, List.reverse_cons, leNat_append_singleton, ih, List.range_succ_eq_map, List.map_cons, List.sum_cons,
      List.map_map, hshift, Nat.add_comm]
    simp

/-- Sign extension from a width gives the value of the low bits read with their sign. -/
theorem sext64_eq (n : Nat) (x : Word) (h0 : n ≠ 0) : sext64 n x.toNat = ofI (x.setWidth n).toInt := by
  rw [sext64, if_neg h0, BitVec.toInt_eq_toNat_cond, BitVec.toNat_setWidth]
  have hpow : 2 ^ n = 2 * 2 ^ (n - 1) := by rw [← Nat.pow_succ', Nat.succ_eq_add_one, Nat.sub_one_add_one h0]
  split <;> split
  · exact (ofI_natCast _).symm
  · omega
  · omega
  · rfl

/-! ## What each scalar integer instruction computes (06 R100 to R106) -/

section Results

variable {s : State} {i : Instr} {d : BitVec 7} {v : Word}

theorem exec_scalarRR (h : scalarRR s i = some (d, v)) : exec i s = s.finish d v := by
  cases i with
  | add | sub | mul | adds | madd | msub => cases h; exact congrArg (s.finish _) (by simp)
  | sll | srl | sra => cases h; exact congrArg (s.finish _) (by simp [shamt, amount])
  | and | or | xor | andn | orn | xnor | mulh | mulhn | div | divn | rem | remn | selz => cases h; rfl
  | ror => cases h; exact congrArg (s.finish _) (rotated_eq _ (amount_lt _)).symm
  | min => cases h; exact congrArg (s.finish _) (ofI_min _ _).symm
  | max => cases h; exact congrArg (s.finish _) (ofI_max _ _).symm
  | minn => cases h; exact congrArg (s.finish _) (ofN_min _ _).symm
  | maxn => cases h; exact congrArg (s.finish _) (ofN_max _ _).symm
  | seq => cases h; exact congrArg (s.finish _) (b2w_beq_toNat _ rfl)
  | sne => cases h; exact congrArg (s.finish _) (b2w_bne_toNat _ rfl)
  | slt => cases h; exact congrArg (s.finish _) (b2w_slt _ rfl)
  | sge => cases h; exact congrArg (s.finish _) (b2w_not_slt _ rfl)
  | sltn => cases h; exact congrArg (s.finish _) (b2w_ult _ rfl)
  | sgen => cases h; exact congrArg (s.finish _) (b2w_not_ult _ rfl)
  | seln => cases h; exact congrArg (s.finish _) (ite_not _ _ _)
  | _ => cases h

theorem exec_scalarImm (h : scalarImm s i = some (d, v)) : exec i s = s.finish d v := by
  cases i with
  | addi => cases h; exact congrArg (s.finish _) (by rw [ofI_add, ofI_toInt]; rfl)
  | andi | ori | xori => cases h; rfl
  | slli | srli | srai => cases h; exact congrArg (s.finish _) (by simp)
  | rori => cases h; exact congrArg (s.finish _) (rotated_eq _ (BitVec.isLt _)).symm
  | seqi => cases h; exact congrArg (s.finish _) (b2w_beq _ (toInt_imm _))
  | snei => cases h; exact congrArg (s.finish _) (b2w_bne _ (toInt_imm _))
  | slti => cases h; exact congrArg (s.finish _) (b2w_slt _ (toInt_imm _))
  | sgei => cases h; exact congrArg (s.finish _) (b2w_not_slt _ (toInt_imm _))
  | sltni => cases h; exact congrArg (s.finish _) (b2w_ult _ rfl)
  | sgeni => cases h; exact congrArg (s.finish _) (b2w_not_ult _ rfl)
  | lhi => cases h; exact congrArg (s.finish _) (ofI_mul_two_pow 10 _).symm
  | lpc =>
    cases h
    refine congrArg (s.finish _) ?_
    rw [ofI_add, ofI_natCast, ← and_not_low_ten]
    exact congrArg _ (ofI_mul_two_pow 10 _).symm
  | lix => cases h; exact congrArg (s.finish _) (shl_or_imm _ _)
  | _ => cases h

theorem exec_scalarBits (h : scalarBits s i = some (d, v)) : exec i s = s.finish d v := by
  cases i with
  | clz => cases h; exact congrArg (s.finish _) (by rw [setBitsOf_eq]; exact congrArg ofN (leadingZeros_eq 64 _))
  | ctz => cases h; exact congrArg (s.finish _) (by rw [setBitsOf_eq]; exact congrArg ofN (trailingZeros_eq 64 _))
  | popc => cases h; exact congrArg (s.finish _) (by rw [setBitsOf_eq]; rfl)
  | brev => cases h; exact congrArg (s.finish _) (by rw [setBitsOf_eq]; exact congrArg ofN (reverseBits_eq 64 _))
  | bswap => cases h; exact congrArg (s.finish _) (congrArg ofN (leNat_reverse_leBytes 8 _))
  | sxb => cases h; exact congrArg (s.finish _) (sext64_eq 8 _ (by decide))
  | sxh => cases h; exact congrArg (s.finish _) (sext64_eq 16 _ (by decide))
  | sxw => cases h; exact congrArg (s.finish _) (sext64_eq 32 _ (by decide))
  | _ => cases h

end Results

/-- A register written reads back, and any other reads as before (03 R27, R29). -/
theorem rd_wr (t : Thread) (d n : BitVec 7) (v : Word) :
    (t.wr d v).rd n = if n = 0 then 0 else if n = d then v else t.rd n := by
  by_cases hd : n = d
  · subst hd
    rw [t.rd_wr_self, if_pos rfl]
  · rw [t.rd_wr_ne hd, if_neg hd]
    split
    next h0 => rw [h0, Thread.rd_zero]
    next => rfl

/-- Settles O1, by the equation of each instruction with its result and by what writing a result leaves alone. -/
theorem scalarIntegerResults : Obligations.ScalarIntegerResults := by
  refine ⟨fun i s d v h => ?_, fun t d n v => ⟨rd_wr t d n v, fun p hp => t.wr_getD d v hp⟩⟩
  have hexec : exec i s = s.finish d v := by
    rcases h with h | h | h
    · exact exec_scalarRR h
    · exact exec_scalarImm h
    · exact exec_scalarBits h
  rw [hexec]
  exact answers_finish s d v

/-! ## Branches and jumps (06 R107, R108; 07 R133) -/

theorem relTarget_eq {n : Nat} (s : State) (k : BitVec n) : relTarget s k = target s k.toInt := by
  rw [relTarget, target, Int.mul_comm]
  exact congrArg (s.me.curPc + ·) (ofI_mul_two_pow 2 k.toInt).symm

/-- An outcome that goes to `pc` from `u` when a condition holds, and falls through otherwise. -/
def Branched (o : Out) (u : State) (c : Bool) (pc : Word) : Prop :=
  if c then ∃ t, o = .next t ∧ Jumped u t pc else WentOn o u

theorem branched_branch (c : Bool) (k : BitVec 15) (s : State) : Branched (branch c k s) s c (target s k.toInt) := by
  cases c with
  | true => exact ⟨_, rfl, relTarget_eq s k ▸ jumped_jump s _⟩
  | false => exact wentOn_retire s

/-- What the machine and the statement leave in flight after a wait is the same. -/
theorem waitedFor_eq (s : State) (l : List Effect) : waitedFor s l = s.modMe (Thread.waited · l) := by
  have hkept (f : Flight) : f.can.all (fun c => !(l.contains c)) = !(f.can.any l.contains) :=
    List.not_any_eq_all_not.symm
  simp only [waitedFor, hkept]
  rfl

/-- A wait followed by any change of the thread is the statement's wait followed by that change. -/
theorem settled_modMe_eq (s : State) (l : List Effect) (f : Thread → Thread) :
    (s.settled l).modMe f = (waitedFor s l).modMe f := by
  rw [s.settled_modMe, waitedFor_eq, s.modMe_modMe]

theorem curPc_waitedFor (s : State) (l : List Effect) : (waitedFor s l).me.curPc = s.me.curPc := by
  rw [waitedFor, State.me_setMe]; rfl

theorem curPc_settled (s : State) (l : List Effect) : (s.settled l).me.curPc = s.me.curPc := by
  unfold State.settled
  split
  · rw [State.me_modMe]; rfl
  · rfl

/-- A branch on vector state is a branch after the wait. -/
theorem branchVec_user (c : Bool) (k : BitVec 15) {s : State} (hu : User s) :
    branchVec c k s = branch c k (lengthRead s) := by
  have htarget : relTarget (s.settled [.length]) k = relTarget (lengthRead s) k := by
    rw [relTarget, relTarget, curPc_settled, lengthRead, curPc_waitedFor]
  rw [branchVec, userOnly_user hu, branch, branch, htarget, State.jump, State.retire, settled_modMe_eq,
    settled_modMe_eq]
  rfl

theorem branched_branchVec (c : Bool) (k : BitVec 15) {s : State} (hu : User s) :
    Branched (branchVec c k s) (lengthRead s) c (target s k.toInt) := by
  have htarget : target (lengthRead s) k.toInt = target s k.toInt := by
    rw [target, target, lengthRead, curPc_waitedFor]
  rw [branchVec_user c k hu, ← htarget]
  exact branched_branch c k (lengthRead s)

section Branches

variable {s : State} {i : Instr} {c : Bool} {k : Int}

theorem branched_exec (h : branchOf s i = some (c, k)) : Branched (exec i s) s c (target s k) := by
  cases i with
  | j k => cases h; exact ⟨_, rfl, relTarget_eq s k ▸ jumped_jump s _⟩
  | beqz a k => cases h; rw [toInt_beq_zero]; exact branched_branch _ k s
  | bnez a k => cases h; rw [bne, toInt_beq_zero]; exact branched_branch _ k s
  | bltz a k | bgez a k | bgtz a k | blez a k => cases h; exact branched_branch _ k s
  | _ => cases h

theorem branched_exec_user (hu : User s) (h : userBranchOf s i = some (c, k)) :
    Branched (exec i s) (lengthRead s) c (target s k) := by
  cases i with
  | btrim k | bdone k => cases h; exact branched_branchVec _ k hu
  | _ => cases h

theorem branchFrom_of_branchOf (h : branchOf s i = some (c, k)) : branchFrom s i = s := by
  cases i with
  | btrim | bdone => cases h
  | _ => rfl

theorem branchFrom_of_userBranchOf (h : userBranchOf s i = some (c, k)) : branchFrom s i = lengthRead s := by
  cases i with
  | btrim | bdone => rfl
  | _ => cases h

end Branches

theorem jumpTo_aligned {x : Word} (h : x.toNat % 4 = 0) (s : State) (f : State → State) :
    jumpTo x s f = .next ((f s).jump x) := if_neg (not_not_intro h)

theorem jumpTo_misaligned {x : Word} (h : x.toNat % 4 ≠ 0) (s : State) (f : State → State) :
    jumpTo x s f = .next (trapAt s 3 (some x) 0 none) := if_pos h

theorem exec_jr (s : State) (a : BitVec 7) : exec (.jr a) s = jumpTo (s.rd a) s id := rfl

theorem exec_jalr (s : State) (d a : BitVec 7) :
    exec (.jalr d a) s = jumpTo (s.rd a) s (fun s => s.wr d (s.me.curPc + 4)) := rfl

/-- Settles O2: `jal`, `jr` and `jalr` end in one jump, and every branch in one choice. -/
theorem branchesAndJumps : Obligations.BranchesAndJumps := by
  refine ⟨fun i s c k h => ?branches, fun s d a k => ⟨?jal, fun haligned => ?goes, fun hmisaligned => ?traps⟩⟩
  case branches =>
    rcases h with h | ⟨hu, h⟩
    · rw [branchFrom_of_branchOf h]
      exact branched_exec h
    · rw [branchFrom_of_userBranchOf h]
      exact branched_exec_user hu h
  case jal => exact ⟨_, rfl, relTarget_eq s k ▸ jumped_jump _ _⟩
  case goes =>
    rw [exec_jr, exec_jalr, jumpTo_aligned haligned, jumpTo_aligned haligned]
    exact ⟨⟨_, rfl, jumped_jump s _⟩, ⟨_, rfl, jumped_jump _ _⟩⟩
  case traps =>
    rw [exec_jr, exec_jalr, jumpTo_misaligned hmisaligned, jumpTo_misaligned hmisaligned]
    exact ⟨rfl, rfl⟩

/-! ## binary64 (06 R115, R116) -/

theorem raiseNow_eq (s : State) (f : Flags) : s.raiseNow f = if f = 0 then s else flagged s f := rfl

/-- The end that every binary64 instruction shares: it answers with its flags ORed in, or traps. -/
theorem fpFinish_correct (d : BitVec 7) (v : Word) (f : Flags) (s : State) :
    (trapsOn (field s.me.fpcr 8 5) f = false →
      Answers (fpFinish d v f s) (if f = 0 then s else flagged s f) d v) ∧
    (trapsOn (field s.me.fpcr 8 5) f = true → Traps (fpFinish d v f s) s 7 none) := by
  have henables : trapsOn s.me.enables f = trapsOn (field s.me.fpcr 8 5) f := rfl
  refine ⟨fun hquiet => ?_, fun hraised => ?_⟩
  · rw [fpFinish, henables, hquiet, raiseNow_eq]
    exact answers_finish _ d v
  · rw [fpFinish, henables, hraised]
    rfl

theorem exec_fpOf {i : Instr} {s : State} {d : BitVec 7} {v : Word} {f : Flags} (h : fpOf s i = some (d, v, f)) :
    exec i s = fpFinish d v f s := by
  cases i with
  | fadd | fsub | fmul | fdiv | fsqrt | fmac | fcvtif | fcvtfi | flt | feq | fle | fmin | fmax => cases h; rfl
  | _ => cases h

/-- Settles O16: every binary64 instruction ends in `fpFinish` with the result and the exceptions of its operation. -/
theorem scalarFloatResults : Obligations.ScalarFloatResults := by
  intro i s d v f h
  rw [exec_fpOf h]
  exact fpFinish_correct d v f s

end Sys2Proof.Claims

/-! PROOFS. Integer element-wise vector instructions, the moves and `vaddr` (08 R147; 09 R170 to R179, R196; 07 R125,
R139). -/

namespace Sys2Proof.Claims

open Sys2Proof.Machine

/-! ## What an element-wise instruction does when it completes (07 R124 to R126) -/

/-- An outcome is that of the completed operation `o`, whenever `o` completes. -/
def Performs (s : State) (o : VecOp) (r : Out) : Prop := VecReady s o → r = .next (vecDone s o)

section Completion

variable {s : State} {o : VecOp}

theorem ok_of_ready (hready : VecReady s o) : o.ok = true := by
  obtain ⟨-, -, hok, -⟩ := hready
  exact hok

theorem vecIssue_ready {k : Unit → Out} {regs : List (BitVec 7)} (hready : VecReady s o)
    (hregs : ∀ r ∈ regs, r ∈ o.d :: o.srcs) : vecIssue s regs k = k () := by
  obtain ⟨⟨huser, hdeclared, -⟩, -⟩ := hready
  exact vecIssue_ok huser fun r hr => hdeclared r (hregs r hr)

theorem tagWrite_ready {k : Unit → Out} {ok : Bool} (hready : VecReady s o) (hok : ok = true) :
    tagWrite s o.d (ok && maskOk s o.m) k = k () := by
  obtain ⟨⟨-, -, -, hchunks⟩, -, -, hmask, -⟩ := hready
  exact tagWrite_ok (by rw [hok, hmask, Bool.true_and]) hchunks

theorem elementwise_ready (hready : VecReady s o) :
    elementwise s { d := o.d, tag := o.tag, m := o.m, z := o.z } false o.f = .next (vecDone s o) := by
  obtain ⟨-, hstop, -, -, hquiet⟩ := hready
  exact elementwise_clean hstop hquiet

theorem foldl_orF_zero (l : List Nat) : l.foldl (fun a _ => orF a 0) 0 = 0 := by
  induction l with
  | nil => rfl
  | cons e r ih => exact ih

/-- The machine's form for elements that raise nothing is the general one without exceptions. -/
theorem plainElems_ready {f : Nat → Nat} (hready : VecReady s o) (hf : o.f = fun e => (f e, 0)) :
    plainElems s { d := o.d, tag := o.tag, m := o.m, z := o.z } f = .next (vecDone s o) := by
  obtain ⟨-, hstop, -⟩ := hready
  have hall : (activeElems s o.m).filter (· < s.me.vec.al) = activeElems s o.m :=
    List.filter_eq_self.mpr fun e he => decide_eq_true (activeElems_lt he)
  unfold plainElems settleVec settleBy
  simp only [stopVerdict_none hstop, hall]
  rw [vecDone, hf, foldl_orF_zero]
  rfl

end Completion

/-! ## Tag agreement (08 R146, 09 R170) -/

theorem joinTags_same {t : Nat} {l : List Nat} (hne : l ≠ []) (h : ∀ u ∈ l, u = t) : joinTags l = some t := by
  induction l with
  | nil => exact absurd rfl hne
  | cons u r ih =>
    obtain rfl : u = t := h u List.mem_cons_self
    cases r with
    | nil => by_cases hu : u = tagPsn <;> simp [joinTags, hu]
    | cons v r =>
      rw [joinTags, ih (List.cons_ne_nil _ _) fun w hw => h w (List.mem_cons_of_mem _ hw)]
      simp

section Agreement

variable {s : State} {o : VecOp} {t : Nat}

theorem any_psn_eq_false {regs : List (BitVec 7)} (ht : t ≠ tagPsn) (h : ∀ r ∈ regs, s.vtag r = t) :
    regs.any (fun r => s.vtag r == tagPsn) = false :=
  List.any_eq_false.mpr fun r hr => by simpa [h r hr] using ht

/-- `ewise` over sources that all carry one tag, which is not PSN, performs the operation with its results in that tag. -/
theorem ewise_performs {ok : Nat → Bool} {res : Nat → Nat} {f : Nat → Nat → Nat × Flags} (hne : o.srcs ≠ [])
    (hagree : o.ok = true → ok t = true ∧ ∀ r ∈ o.srcs, s.vtag r = t) (hpsn : ok tagPsn = false)
    (htag : t ≠ tagPsn → o.tag = res t) (hf : o.f = f t) : Performs s o (ewise o.d o.srcs o.m o.z ok res f s) := by
  intro hready
  obtain ⟨haccept, htags⟩ := hagree (ok_of_ready hready)
  have ht : t ≠ tagPsn := by
    rintro rfl
    exact absurd (haccept.symm.trans hpsn) (by decide)
  have hjoin : joinTags (o.srcs.map s.vtag) = some t :=
    joinTags_same (by simpa using hne) (by simpa using htags)
  rw [ewise, vecIssue_ready hready fun r hr => hr, hjoin]
  dsimp only
  rw [tagWrite_ready hready (by rw [haccept, Bool.or_true]), any_psn_eq_false ht htags, ← htag ht, ← hf]
  exact elementwise_ready hready

end Agreement

/-! ## The shapes of an operation -/

section Shapes

variable {s : State} {ok : Nat → Bool} {res : Nat → Nat} {d a b : BitVec 7} {m z : Bool}

theorem one_performs {f : Nat → Nat → Nat × Flags} (hpsn : ok tagPsn = false) :
    Performs s (one s ok res f d a m z) (ewise d [a] m z ok res (fun t e => f t (el s a t e)) s) :=
  ewise_performs (o := one s ok res f d a m z) (t := s.vtag a) (List.cons_ne_nil _ _)
    (fun hok => ⟨hok, by simp [one]⟩) hpsn (fun _ => rfl) rfl

theorem two_performs {f : Nat → Nat → Nat → Nat × Flags} (hpsn : ok tagPsn = false) :
    Performs s (two s ok res f d a b m z) (ewise d [a, b] m z ok res (fun t e => f t (el s a t e) (el s b t e)) s) :=
  ewise_performs (o := two s ok res f d a b m z) (t := s.vtag a) (List.cons_ne_nil _ _)
    (fun hok => by simpa [two] using hok) hpsn (fun _ => rfl) rfl

theorem withX_performs {f : Nat → Nat → Nat → Nat × Flags} (hpsn : ok tagPsn = false) :
    Performs s (withX s ok res f d a b m z) (ewise d [a] m z ok res (fun t e => f t (el s a t e) (scal s b t)) s) :=
  ewise_performs (o := withX s ok res f d a b m z) (t := s.vtag a) (List.cons_ne_nil _ _)
    (fun hok => ⟨hok, by simp [withX]⟩) hpsn (fun _ => rfl) rfl

theorem three_performs {f : Nat → Nat → Nat → Nat → Nat × Flags} (hpsn : ok tagPsn = false) :
    Performs s (three s ok f d a b m z)
      (ewise d [a, b, d] m z ok id (fun t e => f t (el s a t e) (el s b t e) (el s d t e)) s) :=
  ewise_performs (o := three s ok f d a b m z) (t := s.vtag a) (List.cons_ne_nil _ _)
    (fun hok => by simpa [three, and_assoc] using hok) hpsn (fun _ => rfl) rfl

theorem threeX_performs {f : Nat → Nat → Nat → Nat → Nat × Flags} (hpsn : ok tagPsn = false) :
    Performs s (threeX s ok f d a b m z)
      (ewise d [a, d] m z ok id (fun t e => f t (el s a t e) (scal s b t) (el s d t e)) s) :=
  ewise_performs (o := threeX s ok f d a b m z) (t := s.vtag a) (List.cons_ne_nil _ _)
    (fun hok => by simpa [threeX] using hok) hpsn (fun _ => rfl) rfl

theorem intBin_performs {op : Nat → Nat → Nat → Int} (hpsn : ok tagPsn = false) :
    Performs s (two s ok id (wraps op) d a b m z) (intBin ok op d a b m z s) := two_performs hpsn

theorem intBinX_performs {op : Nat → Nat → Nat → Int} (hpsn : ok tagPsn = false) :
    Performs s (withX s ok id (wraps op) d a b m z) (intBinX ok op d a b m z s) := withX_performs hpsn

theorem intCmp_performs {op : Nat → Nat → Nat → Bool} :
    Performs s (two s isInt (fun _ => tagMsk) (bitOf op) d a b m z) (intCmp op d a b m z s) := two_performs rfl

theorem intCmpX_performs {op : Nat → Nat → Nat → Bool} :
    Performs s (withX s isInt (fun _ => tagMsk) (bitOf op) d a b m z) (intCmpX op d a b m z s) := withX_performs rfl

/-- A result tag derived from the sources' one is that of any tag but PSN. -/
theorem intUn_performs {op : Nat → Nat → Int} (hpsn : ok tagPsn = false) :
    Performs s (one s ok res (fun t x => (lowOf (tagWidth (res t)) (op t x), 0)) d a m z)
      (intUn ok res op d a m z s) :=
  ewise_performs (o := one s ok res (fun t x => (lowOf (tagWidth (res t)) (op t x), 0)) d a m z) (t := s.vtag a)
    (List.cons_ne_nil _ _) (fun hok => ⟨hok, by simp [one]⟩) hpsn (fun ht => (if_neg ht).symm) rfl

end Shapes

/-! ## Integers of a width (08 R147): the statement's reading of a number is the machine's -/

/-- The low half of a width's patterns is not negative; a number from the middle on stands for itself less 2^(8w). -/
theorem sg_eq_signedOf : sg = signedOf := by
  funext w x
  have hsplit : (x : Int) = (x / 2 ^ (8 * w) * 2 ^ (8 * w) : Nat) + (x % 2 ^ (8 * w) : Nat) := by
    exact_mod_cast (Nat.div_add_mod' x (2 ^ (8 * w))).symm
  have hhalf : 2 ^ (8 * w - 1) ≤ x % 2 ^ (8 * w) ↔ ¬ 2 * (x % 2 ^ (8 * w)) < 2 ^ (8 * w) := by
    cases w with
    | zero => simp [Nat.mod_one]
    | succ w =>
      have hpow : 2 ^ (8 * (w + 1)) = 2 * 2 ^ (8 * (w + 1) - 1) := by rw [← Nat.pow_succ']; congr 1
      omega
  rw [sg, signedOf, ite_cond_congr (propext hhalf)]
  by_cases hlow : 2 * (x % 2 ^ (8 * w)) < 2 ^ (8 * w)
  · rw [if_neg (not_not_intro hlow), if_pos hlow]
    omega
  · rw [if_pos hlow, if_neg hlow]
    omega

theorem numT_eq (t x : Nat) : numT t x = numOf (isSignedTag t) (tagWidth t) x := by rw [numT, sg_eq_signedOf, numOf]

theorem least_eq (signed : Bool) (w : Nat) : least signed w = minOf signed w := by
  simp [least, minOf]

theorem greatest_eq (signed : Bool) (w : Nat) : greatest signed w = maxOf signed w := by
  simp [greatest, maxOf]

theorem minOf_le_maxOf (signed : Bool) (w : Nat) : minOf signed w ≤ maxOf signed w := by
  have hhalf : 0 < 2 ^ (8 * w - 1) := Nat.two_pow_pos _
  have hall : 0 < 2 ^ (8 * w) := Nat.two_pow_pos _
  cases signed with
  | true => simp only [minOf, maxOf, if_true]; omega
  | false => simp only [minOf, maxOf, Bool.false_eq_true, if_false]; omega

theorem between_eq_clampInt {lo hi : Int} (h : lo ≤ hi) (v : Int) : between lo hi v = clampInt lo hi v := by
  unfold between clampInt
  by_cases hlo : v < lo
  · rw [if_pos hlo]
    omega
  · rw [if_neg hlo]
    by_cases hhi : hi < v
    · rw [if_pos hhi]
      omega
    · rw [if_neg hhi]
      omega

/-- A number saturated to the range of a width and signedness. -/
theorem saturate_eq (signed : Bool) (w : Nat) (v : Int) :
    between (least signed w) (greatest signed w) v = clampInt (minOf signed w) (maxOf signed w) v := by
  rw [least_eq, greatest_eq, between_eq_clampInt (minOf_le_maxOf signed w)]

/-- The lesser of two unsigned elements is the same number taken before or after the cast. -/
theorem natCast_min_eq (_ x y : Nat) : ((min x y : Nat) : Int) = min (x : Int) y := by omega

theorem natCast_max_eq (_ x y : Nat) : ((max x y : Nat) : Int) = max (x : Int) y := by omega

theorem sllOp_eq (w x y : Nat) : sllOp w x y = (x : Int) * 2 ^ (y % (8 * w)) := by push_cast [sllOp]; rfl

theorem sraOp_eq (w x y : Nat) : sraOp w x y = signedOf w x / 2 ^ (y % (8 * w)) := by push_cast [sraOp]; rfl

theorem mulHigh_eq (w x y : Nat) :
    signedOf w x * signedOf w y / (2 ^ (8 * w) : Nat) = signedOf w x * signedOf w y / 2 ^ (8 * w) := by
  push_cast; rfl

theorem divOp_unsigned (w x y : Nat) : divOp false w x y = if y = 0 then -1 else ((x / y : Nat) : Int) := rfl

theorem remOp_unsigned (w x y : Nat) : remOp false w x y = if y = 0 then (x : Int) else ((x % y : Nat) : Int) := rfl

theorem popCount_eq (n x : Nat) : popCount n x = ((List.range n).filter x.testBit).length := by
  have hbit : bitAt x = x.testBit := funext fun i => by rw [Nat.testBit_eq_decide_div_mod_eq]; rfl
  rw [popCount, hbit]

/-! ## What each integer instruction computes (09 R173 to R175) -/

section Families

variable {s : State} {i : Instr}

theorem exec_intBin_of_eq {ok : Nat → Bool} {op op' : Nat → Nat → Nat → Int} {d a b : BitVec 7} {m z : Bool}
    (hop : ∀ w x y, op' w x y = op w x y) (hexec : exec i s = intBin ok op' d a b m z s) :
    exec i s = intBin ok op d a b m z s := by
  rw [hexec, funext fun w => funext fun x => funext (hop w x)]

/-- Every operation of two vectors is `intBin` with the statement's number, over tags of which PSN is none. -/
theorem exec_intOp {ok : Nat → Bool} {op : Nat → Nat → Nat → Int} {d a b : BitVec 7} {m z : Bool}
    (h : intOp i = some (ok, op, d, a, b, m, z)) : ok tagPsn = false ∧ exec i s = intBin ok op d a b m z s := by
  cases i with
  | vadd | vsub | vand | vor | vxor | vandn | vmul | vmulhn | vror | vsrl => cases h; exact ⟨rfl, rfl⟩
  | vdivn => cases h; exact ⟨rfl, exec_intBin_of_eq divOp_unsigned rfl⟩
  | vremn => cases h; exact ⟨rfl, exec_intBin_of_eq remOp_unsigned rfl⟩
  | vmin | vmax | vdiv | vrem => cases h; rw [sg_eq_signedOf]; exact ⟨rfl, rfl⟩
  | vminn => cases h; exact ⟨rfl, exec_intBin_of_eq natCast_min_eq rfl⟩
  | vmaxn => cases h; exact ⟨rfl, exec_intBin_of_eq natCast_max_eq rfl⟩
  | vsll => cases h; exact ⟨rfl, exec_intBin_of_eq sllOp_eq rfl⟩
  | vsra => cases h; rw [sg_eq_signedOf]; exact ⟨rfl, exec_intBin_of_eq sraOp_eq rfl⟩
  | vmulh => cases h; rw [sg_eq_signedOf]; exact ⟨rfl, exec_intBin_of_eq mulHigh_eq rfl⟩
  | vaddsat | vsubsat =>
    cases h
    rw [sg_eq_signedOf]
    exact ⟨rfl, exec_intBin_of_eq (fun w _ _ => (saturate_eq true w _).symm) rfl⟩
  | vaddsatn | vsubsatn => cases h; exact ⟨rfl, exec_intBin_of_eq (fun w _ _ => (saturate_eq false w _).symm) rfl⟩
  | _ => cases h

theorem exec_intOpX {op : Nat → Nat → Nat → Int} {d a b : BitVec 7} {m z : Bool}
    (h : intOpX i = some (op, d, a, b, m, z)) : exec i s = intBinX isInt op d a b m z s := by
  cases i with
  | vaddX | vsubX => cases h; rfl
  | _ => cases h

theorem exec_intCmpOf {op : Nat → Nat → Nat → Bool} {scalar : Bool} {d a b : BitVec 7} {m z : Bool}
    (h : intCmpOf i = some (op, scalar, d, a, b, m, z)) :
    exec i s = (if scalar then intCmpX else intCmp) op d a b m z s := by
  cases i with
  | vseq | vsne | vsltn | vseqX | vsneX | vsltnX => cases h; rfl
  | vslt | vsltX => cases h; rw [sg_eq_signedOf]; rfl
  | _ => cases h

end Families

/-! ## Dot products, merges and moves (09 R177, R178; 07 R139) -/

section Forms

variable {s : State} {d a b : BitVec 7} {m z : Bool}

/-- A position of a dot product's source, read as a number. -/
theorem numOf_at (signed : Bool) (w : Nat) (v : VReg) (t p : Nat) :
    numOf signed w (v.at_ t p) = if p < 65536 then numOf signed w (v.read t p) else 0 := by
  by_cases hp : p < 65536
  · rw [VReg.at_, if_neg (Nat.not_le.mpr hp), if_pos hp]
  · have hzero : numOf signed w 0 = 0 := by simp [numOf, signedOf]
    rw [VReg.at_, if_pos (Nat.not_lt.mp hp), if_neg hp, hzero]

/-- A product of two sources' positions, which a position from 65,536 on leaves out. -/
theorem numOf_at_mul (signed : Bool) (w : Nat) (u v : VReg) (t p : Nat) :
    numOf signed w (u.at_ t p) * numOf signed w (v.at_ t p) =
      if p < 65536 then numOf signed w (u.read t p) * numOf signed w (v.read t p) else 0 := by
  rw [numOf_at, numOf_at]
  by_cases hp : p < 65536
  · rw [if_pos hp, if_pos hp, if_pos hp]
  · rw [if_neg hp, if_neg hp, if_neg hp, Int.mul_zero]

theorem dotElem_eq (n src dst e : Nat) :
    (dotOp s n src dst d a b m z).f e =
      (wrapTo 4 (((s.vreg d).read dst e : Int) + ((List.range n).map (fun j =>
        numOf (isSignedTag src) (tagWidth src) ((s.vreg a).at_ src (n * e + j)) *
          numOf (isSignedTag src) (tagWidth src) ((s.vreg b).at_ src (n * e + j)))).sum), 0) := by
  simp only [numOf_at_mul, dotOp, numT_eq]
  rfl

theorem intDot_performs {n src dst : Nat} (hsrc : src ≠ tagPsn) (hdst : dst ≠ tagPsn) :
    Performs s (dotOp s n src dst d a b m z) (intDot n src dst d a b m z s) := by
  intro hready
  obtain ⟨⟨ha, hb⟩, hd⟩ : (s.vtag a = src ∧ s.vtag b = src) ∧ s.vtag d = dst := by
    simpa [dotOp] using ok_of_ready hready
  have hpsn : [a, b, d].any (fun r => s.vtag r == tagPsn) = false := by simp [ha, hb, hd, hsrc, hdst]
  have htags : (tagOrPsn (s.vtag a) src && tagOrPsn (s.vtag b) src && tagOrPsn (s.vtag d) dst) = true := by
    simp [tagOrPsn, ha, hb, hd]
  rw [intDot, vecIssue_ready hready (by simp [dotOp])]
  refine (tagWrite_ready hready htags).trans ?_
  rw [hpsn]
  exact (congrArg (elementwise s _ false) (funext (dotElem_eq n src dst)).symm).trans (elementwise_ready hready)

/-- A merge is a computation over its sources' tag, once v0 is known to be a mask. -/
theorem merge_performs {o : VecOp} {regs : List (BitVec 7)} {res : Nat → Nat} {f : Nat → Nat → Nat × Flags} {t : Nat}
    (hregs : ∀ r ∈ regs, r ∈ o.d :: o.srcs) (hne : o.srcs ≠ [])
    (hagree : o.ok = true → (isData t = true ∧ ∀ r ∈ o.srcs, s.vtag r = t) ∧ s.vtag 0 = tagMsk)
    (htag : o.tag = res t) (hf : o.f = f t) :
    Performs s o (vecIssue s regs fun _ => tagCheck s (s.vtag 0 == tagMsk) fun _ =>
      ewise o.d o.srcs o.m o.z isData res f s) := by
  intro hready
  obtain ⟨-, hmask⟩ := hagree (ok_of_ready hready)
  rw [vecIssue_ready hready hregs, tagCheck_ok (beq_iff_eq.mpr hmask)]
  exact ewise_performs hne (fun h => (hagree h).1) rfl (fun _ => htag) hf hready

theorem vmerge_performs {o : VecOp} (h : intForm s (.vmerge d a b z) = some o) :
    Performs s o (execVmerge d a b z s) := by
  cases h
  exact merge_performs (t := s.vtag a) (by simp [two]) (List.cons_ne_nil _ _)
    (fun hok => by simpa [two, and_assoc] using hok) rfl rfl

theorem vmergeX_performs {o : VecOp} (h : intForm s (.vmergeX d a b z) = some o) :
    Performs s o (execVmergeX d a b z s) := by
  cases h
  exact merge_performs (t := s.vtag a) (by simp [one]) (List.cons_ne_nil _ _)
    (fun hok => by simpa [one] using hok) rfl rfl

/-- A move of elements that raise nothing performs the operation with those elements. -/
theorem move_performs {o : VecOp} {regs : List (BitVec 7)} {f : Nat → Nat} (hregs : ∀ r ∈ regs, r ∈ o.d :: o.srcs)
    (hf : o.f = fun e => (f e, 0)) :
    Performs s o (vecIssue s regs fun _ => tagWrite s o.d (o.ok && maskOk s o.m) fun _ =>
      plainElems s { d := o.d, tag := o.tag, m := o.m, z := o.z } f) := by
  intro hready
  rw [vecIssue_ready hready hregs, tagWrite_ready hready (ok_of_ready hready)]
  exact plainElems_ready hready hf

theorem vmv_performs {o : VecOp} (h : intForm s (.vmv d a m z) = some o) : Performs s o (execVmv d a m z s) := by
  cases h
  exact move_performs (by simp [one]) rfl

theorem vsplat_performs {o : VecOp} (h : intForm s (.vsplat d a m z) = some o) : Performs s o (execVsplat d a m z s) := by
  cases h
  exact move_performs (by simp) rfl

/-! ## Shifts by a scalar, and clamps (09 R174, R179) -/

theorem shiftX_performs {op op' : Nat → Nat → Nat → Int}
    (hop : ∀ w x y, op w x y = op' (8 * w) x (y % (8 * w))) :
    Performs s (shiftOp s op' d a b m z) (shiftX op d a b m z s) :=
  ewise_performs (o := shiftOp s op' d a b m z) (t := s.vtag a) (List.cons_ne_nil _ _)
    (fun hok => ⟨hok, by simp [shiftOp]⟩) rfl (fun _ => rfl) (by simp only [hop]; rfl)

theorem sraOp_eq_width (w x y : Nat) : sraOp w x y = signedOf (8 * w / 8) x / 2 ^ (y % (8 * w)) := by
  rw [sraOp_eq, Nat.mul_div_cancel_left w (by decide)]

theorem bound_eq (t x : Nat) : intForm.bound t x = numOf (isSignedTag t) 4 x := by
  rw [intForm.bound, sg_eq_signedOf, numOf]

theorem vclamp_performs {o : VecOp} (h : intForm s (.vclamp d a b m z) = some o) :
    Performs s o (execVclamp d a b m z s) := by
  cases h
  simp only [saturate_eq, numT_eq, bound_eq]
  exact ewise_performs (ok := isInt) (t := s.vtag a) (List.cons_ne_nil _ _) (fun hok => ⟨hok, by simp⟩) rfl
    (fun _ => rfl) rfl

end Forms

/-! ## Every other form, and the statement -/

section Statement

variable {s : State} {i : Instr} {o : VecOp}

theorem intForm_performs (h : intForm s i = some o) : Performs s o (exec i s) := by
  cases i with
  | vsllX | vsrlX | vrorX => cases h; exact shiftX_performs fun _ _ _ => rfl
  | vsraX => cases h; rw [sg_eq_signedOf]; exact shiftX_performs sraOp_eq_width
  | vmacc => cases h; exact three_performs rfl
  | vmaccX => cases h; exact threeX_performs rfl
  | vneg | vclz | vwidenn | vnarrow => cases h; exact intUn_performs rfl
  | vabs | vwiden => cases h; rw [sg_eq_signedOf]; exact intUn_performs rfl
  | vpopc => cases h; simp only [← popCount_eq]; exact intUn_performs rfl
  | vnarrowsat => cases h; simp only [saturate_eq, numT_eq]; exact intUn_performs rfl
  | vclamp => exact vclamp_performs h
  | vdot4 | vdot4n | vdot2 => cases h; exact intDot_performs (by decide) (by decide)
  | vaddr => cases h; simp only [numT_eq]; exact one_performs rfl
  | vmerge => exact vmerge_performs h
  | vmergeX => exact vmergeX_performs h
  | vmv => exact vmv_performs h
  | vsplat => exact vsplat_performs h
  | _ => cases h

theorem vecOf_performs (h : o ∈ vecOf s i) : Performs s o (exec i s) := by
  simp only [vecOf, List.mem_append, Option.mem_toList, Option.map_eq_some_iff] at h
  rcases h with ((⟨⟨ok, op, d, a, b, m, z⟩, hop, rfl⟩ | ⟨⟨op, d, a, b, m, z⟩, hop, rfl⟩) |
    ⟨⟨op, scalar, d, a, b, m, z⟩, hop, rfl⟩) | hform
  · obtain ⟨hpsn, hexec⟩ := exec_intOp (s := s) hop
    rw [hexec]
    exact intBin_performs hpsn
  · rw [exec_intOpX hop]
    exact intBinX_performs rfl
  · rw [exec_intCmpOf hop]
    cases scalar with
    | false => exact intCmp_performs
    | true => exact intCmpX_performs
  · exact intForm_performs hform

end Statement

/-- Settles O20, by the families of `vecOf`: each instruction is the machine's element-wise computation with the
statement's results. -/
theorem integerVectorResults : Obligations.IntegerVectorResults :=
  fun _ _ _ hmem hready => vecOf_performs hmem hready

end Sys2Proof.Claims
